-- ==== Sys2Proof/Word.lean ====
section
/-! DEFINITION. Words, lane masks, and sparse tables: the plainest arithmetic of the model.
Multi-byte values are little-endian (R5, 00_scope.md). -/

namespace Sys2Proof

abbrev Byte := BitVec 8
abbrev W32 := BitVec 32
abbrev W64 := BitVec 64

/-- A lane mask: bit `l` stands for lane `l` (R36, R64). -/
abbrev Mask := BitVec 32

/-- One 32-bit vector register: lane `l` is entry `l` (R90). -/
abbrev VReg := List W32

/-- A sparse table: keys strictly rising, a key that is absent stands for a default its reader names. -/
abbrev Tbl (α : Type) := List (Nat × α)

namespace Tbl

variable {α : Type}

def find? : Tbl α → Nat → Option α
  | [], _ => none
  | (j, v) :: r, k => if k = j then some v else find? r k

def put : Tbl α → Nat → α → Tbl α
  | [], k, v => [(k, v)]
  | (j, w) :: r, k, v =>
    if k < j then (k, v) :: (j, w) :: r
    else if k = j then (k, v) :: r
    else (j, w) :: put r k v

def erase : Tbl α → Nat → Tbl α
  | [], _ => []
  | (j, w) :: r, k => if k = j then erase r k else (j, w) :: erase r k

def get (d : α) (t : Tbl α) (k : Nat) : α := (find? t k).getD d

/-- Write `v` at `k`; the default `d` is held by absence, so that equal tables are equal data. -/
def set [DecidableEq α] (d : α) (t : Tbl α) (k : Nat) (v : α) : Tbl α :=
  if v = d then erase t k else put t k v

def has (t : Tbl α) (k : Nat) : Bool := (find? t k).isSome

end Tbl

/-- The 32 lanes `f 0 … f 31` as one register. -/
def lanes32 (f : Nat → W32) : VReg := (List.range 32).map f

/-- Lane `l` of a register; a lane that is not there reads zero. -/
def laneOf (v : VReg) (l : Nat) : W32 := v.getD l 0

/-- The mask whose bit `l` is `f l`. -/
def maskOf (f : Nat → Bool) : Mask :=
  (List.range 32).foldl (fun m l => if f l then m ||| (1#32 <<< l) else m) 0

/-- The lanes of a mask in increasing index (R10). -/
def lanesOf (m : Mask) : List Nat := (List.range 32).filter (fun l => m.getLsbD l)

/-- Number of one bits among the low `w` bits. -/
def popNat (w x : Nat) : Nat := ((List.range w).filter (fun i => x.testBit i)).length

/-- Bits `[hi:lo]` of a number. -/
def bitsN (x hi lo : Nat) : Nat := (x >>> lo) % 2 ^ (hi + 1 - lo)

/-- The value of `n` bytes, lowest first (R5). -/
def leNat : List Byte → Nat
  | [] => 0
  | b :: r => b.toNat + 256 * leNat r

/-- The `n` low bytes of a number, lowest first (R5). -/
def leBytes : Nat → Nat → List Byte
  | 0, _ => []
  | n + 1, x => BitVec.ofNat 8 x :: leBytes n (x / 256)

/-- Signed value of the low `w` bits. -/
def sxt (w x : Nat) : Int :=
  let m := x % 2 ^ w
  if m < 2 ^ (w - 1) then (m : Int) else (m : Int) - (2 : Int) ^ w

/-- The low `w` bits of an integer, as a number. -/
def wrapN (w : Nat) (x : Int) : Nat := (x % (2 : Int) ^ w).toNat

/-- Saturating add of counters that stop at `top`. -/
def satAdd (top a b : Nat) : Nat := min top (a + b)

/-- Replace the entry at index `i` of a list. -/
def setAt {α : Type} : List α → Nat → α → List α
  | [], _, _ => []
  | _ :: r, 0, v => v :: r
  | x :: r, n + 1, v => x :: setAt r n v

/-- The list without repeats, first occurrences kept. -/
def nubN (xs : List Nat) : List Nat :=
  (xs.foldl (fun acc x => if acc.contains x then acc else x :: acc) []).reverse

end Sys2Proof
end

