-- ==== Sys2Proof/Word/Types.lean ====
section
/-! DEFINITION. Names the instructions and steps carry: element types, sources, slot fields, register names,
queue commands and messages. -/

namespace Sys2Proof

/-- Element types by their codes (R36, R38, R122). A reserved code is kept so that parsing a slot loses nothing. -/
inductive Ty where
  | none | i8 | i16 | i32 | i64 | n8 | n16 | n32 | n64 | f16 | bf16 | f32 | f64 | e4m3 | e5m2
  | q8 | q4 | b32 | b64 | pred
  | reserved (code : BitVec 6)
deriving DecidableEq, Repr

def Ty.ofCode (c : BitVec 6) : Ty :=
  match c.toNat with
  | 0x00 => .none | 0x01 => .i8 | 0x02 => .i16 | 0x03 => .i32 | 0x04 => .i64
  | 0x05 => .n8 | 0x06 => .n16 | 0x07 => .n32 | 0x08 => .n64
  | 0x09 => .f16 | 0x0A => .bf16 | 0x0B => .f32 | 0x0C => .f64 | 0x0D => .e4m3 | 0x0E => .e5m2
  | 0x0F => .q8 | 0x10 => .q4 | 0x11 => .b32 | 0x12 => .b64 | 0x13 => .pred
  | _ => .reserved c

def Ty.code : Ty → BitVec 6
  | .none => 0x00 | .i8 => 0x01 | .i16 => 0x02 | .i32 => 0x03 | .i64 => 0x04
  | .n8 => 0x05 | .n16 => 0x06 | .n32 => 0x07 | .n64 => 0x08
  | .f16 => 0x09 | .bf16 => 0x0A | .f32 => 0x0B | .f64 => 0x0C | .e4m3 => 0x0D | .e5m2 => 0x0E
  | .q8 => 0x0F | .q4 => 0x10 | .b32 => 0x11 | .b64 => 0x12 | .pred => 0x13
  | .reserved c => c

/-- Width in bits (R36, R38, R43). -/
def Ty.width : Ty → Nat
  | .i8 | .n8 | .e4m3 | .e5m2 | .q8 => 8
  | .i16 | .n16 | .f16 | .bf16 => 16
  | .i64 | .n64 | .f64 | .b64 => 64
  | .q4 => 4
  | _ => 32

def Ty.isWide (t : Ty) : Bool := t.width == 64

def Ty.isSigned : Ty → Bool
  | .i8 | .i16 | .i32 | .i64 => true
  | _ => false

def Ty.isFloat : Ty → Bool
  | .f16 | .bf16 | .f32 | .f64 | .e4m3 | .e5m2 => true
  | _ => false

def Ty.isInt : Ty → Bool
  | .i8 | .i16 | .i32 | .i64 | .n8 | .n16 | .n32 | .n64 => true
  | _ => false

/-- A source field as its nine bits read (R118). The same code names v3, p3 or a3 by the operand's class. -/
inductive Src where
  | v (n : BitVec 8)          -- 0x000 to 0x0FF
  | s (n : BitVec 6)          -- 0x100 to 0x13F
  | latch (n : Fin 3)         -- 0x140 to 0x142
  | imm                       -- 0x148
  | const (k : Fin 7)         -- 0x149 to 0x14F
  | reserved (code : BitVec 9)
deriving DecidableEq, Repr

def Src.ofCode (c : BitVec 9) : Src :=
  if c.toNat < 0x100 then .v (c.setWidth 8)
  else if c.toNat < 0x140 then .s (c.setWidth 6)
  else match c.toNat with
  | 0x140 => .latch 0 | 0x141 => .latch 1 | 0x142 => .latch 2
  | 0x148 => .imm
  | 0x149 => .const 0 | 0x14A => .const 1 | 0x14B => .const 2 | 0x14C => .const 3
  | 0x14D => .const 4 | 0x14E => .const 5 | 0x14F => .const 6
  | _ => .reserved c

def Src.code : Src → BitVec 9
  | .v n => n.setWidth 9
  | .s n => 0x100#9 + n.setWidth 9
  | .latch n => 0x140#9 + BitVec.ofNat 9 n.val
  | .imm => 0x148#9
  | .const k => 0x149#9 + BitVec.ofNat 9 k.val
  | .reserved c => c

/-- The operand fields of a slot (R117), with the extension slot's immediate of a wide form (R112). -/
structure Fields where
  sm : Bool := false
  hold : BitVec 3 := 0      -- bit 2: source A, bit 1: B, bit 0: C
  last : BitVec 3 := 0      -- the same
  pred : BitVec 4 := 0      -- bit 3 negates
  dst : BitVec 8 := 0
  a : Src := .v 0
  b : Src := .v 0
  c : Src := .v 0
  ty : Ty := .none
  low : W32 := 0            -- IMM or MOD (R123, R124)
  wide : Option W64 := none -- IMM64 of a wide form
deriving DecidableEq, Repr

/-- MOD's common fields (R124). -/
structure Mod where
  round : BitVec 3
  sat : Bool
  scope : BitVec 3
  order : BitVec 2
  type2 : Ty
  spec : BitVec 17
deriving DecidableEq, Repr

def Mod.ofLow (w : W32) : Mod where
  round := w.extractLsb' 29 3
  sat := w.getLsbD 28
  scope := w.extractLsb' 25 3
  order := w.extractLsb' 23 2
  type2 := Ty.ofCode (w.extractLsb' 17 6)
  spec := w.extractLsb' 0 17

/-- Cause codes of a fault status (R127, R278, R322, R334, R350). -/
inductive Cause where
  | lineReserved | parity | unmarkedTarget | wideLayout | pairLayout | misalignedTarget | targetRange
  | noExecute | formatPage
  | unassignedOpcode | reservedField | illegalType | illegalOperand | illegalPair | accumulatorBound
  | illegalModifier | extension | unimplementedCombination
  | addressRange | scratchpadBound | misaligned | straddle | read | write | world | key
  | domainLost | noDomain | formatMismatch | gangInvalid | gangMismatch | gangBroken | descriptor
  | barrierMismatch | barrierCount | registerCeiling | divergenceStack
deriving DecidableEq, Repr

def Cause.code : Cause → Nat
  | .lineReserved => 0x01 | .parity => 0x02 | .unmarkedTarget => 0x03 | .wideLayout => 0x04
  | .pairLayout => 0x05 | .misalignedTarget => 0x06 | .targetRange => 0x07 | .noExecute => 0x08
  | .formatPage => 0x09
  | .unassignedOpcode => 0x10 | .reservedField => 0x11 | .illegalType => 0x12 | .illegalOperand => 0x13
  | .illegalPair => 0x14 | .accumulatorBound => 0x15 | .illegalModifier => 0x16 | .extension => 0x17
  | .unimplementedCombination => 0x18
  | .addressRange => 0x20 | .scratchpadBound => 0x21 | .misaligned => 0x22 | .straddle => 0x23
  | .read => 0x24 | .write => 0x25 | .world => 0x26 | .key => 0x27
  | .domainLost => 0x28 | .noDomain => 0x29 | .formatMismatch => 0x2A | .gangInvalid => 0x2B
  | .gangMismatch => 0x2C | .gangBroken => 0x2D | .descriptor => 0x2E
  | .barrierMismatch => 0x2F | .barrierCount => 0x30 | .registerCeiling => 0x31 | .divergenceStack => 0x32

def Mod.zero : Mod := Mod.ofLow 0

/-- Some source is coded 0x148 (R123). -/
def Fields.hasImm (o : Fields) : Bool := o.a == .imm || o.b == .imm || o.c == .imm

/-- Bits [31:0] read as MOD; a narrow immediate leaves every modifier zero (R123). -/
def Fields.md (o : Fields) : Mod :=
  if o.wide.isNone && o.hasImm then Mod.zero else Mod.ofLow o.low

/-- Issue classes (R114, R125). -/
inductive IClass where
  | S | I | F | M | X | C
deriving DecidableEq, Repr

inductive ShflMode where
  | idx | up | down | xor
deriving DecidableEq, Repr

inductive VoteMode where
  | any | all | ballot | eq
deriving DecidableEq, Repr

inductive EnrdForm where
  | ctx | kern | team
deriving DecidableEq, Repr

/-- The registers of the function windows, by name and index (R494 and the chapters that give them). -/
inductive Reg where
  | hrnClock
  | govCap | govMatbudget (d : Nat) | govShare | govRail (d : Nat)
  | stkClass (s : Nat) | stkImbal (s : Nat) | stkState (s : Nat)
  | coreSram (c : Nat) | coreRegEvents (c q : Nat) | coreMatstall (c : Nat)
  | lnkCtl (k : Nat) | lnkStatus (k : Nat) | lnkRoute (e : Nat)
  | domCtl (m : Nat) | domGroup (m j : Nat) | domExport (m : Nat) | domLimit (m : Nat)
  | parOwn (p w : Nat) | parCtl (p : Nat) | parPower (p : Nat)
  | awlCtl (d : Nat) | awlScore (k : Nat)
  | errCount (p e : Nat)
  | scrubProgress (d : Nat)
  | snpTrigger | snpSeq | snpReadAddr | snpReadData
  | rndStatus | rndDieworld (d : Nat) | rndExport (f : Nat) | rndExportDst (f : Nat)
  | pgFaultRing (f : Nat) | pgFaultIdx (f : Nat)
  | mtrWeight (k e : Nat)
  | vfCtl (f : Nat) | vfSave (f : Nat)
  | qCtl (q : Nat) | qRing (q : Nat) | qIdx (q : Nat) | qQuantum (q : Nat) | qDeficit (q : Nat)
  | qThresh (q : Nat) | qStatus (q : Nat)
  | ctxCtl (c : Nat) | ctxBucket (c : Nat) | ctxRefill (c : Nat) | ctxSave (c : Nat) | ctxPtRoot (c : Nat)
  | ctxSvcRing (c : Nat) | ctxSvcIdx (c : Nat) | ctxIrq (c : Nat) | ctxAcct (c a : Nat)
deriving DecidableEq, Repr

/-- A queue command as its 64 bytes read (R357): the queue it stands at the head of, and its fields. -/
structure Cmd where
  q : Nat
  after : Bool := false
  ctx : Nat := 0
  done : Nat := 0
  clean : Bool := true      -- no reserved flag bit or byte of the header set
  o10 : Nat := 0            -- the 8 bytes at 0x10
  o18 : Nat := 0
  o20 : Nat := 0
  rest : Bool := true       -- the bytes from 0x28 are zero
deriving DecidableEq, Repr

/-- A received flit (R416): what its header says, and whether its tag verifies (R419, log 11). -/
structure Flit where
  counter : Nat
  kind : Nat
  hops : Nat := 0
  dst : Nat := 0
  src : Nat := 0
  tagOk : Bool := true
  ackTo : Nat := 0          -- of an acknowledgement: the highest counter received in order
  payload : List Byte := []
deriving DecidableEq, Repr

/-- How a domain message comes: the epoch and the number of its pair that it carries, whether under a control key, whose epoch
is the one after the re-key, and whether its tag verifies (R423, R429). -/
structure DomHead where
  epoch : Nat := 0
  seq : Nat := 0
  ctl : Bool := false
  tagOk : Bool := true
deriving DecidableEq, Repr

/-- The rank that a control message comes from, and how it comes. -/
structure DomFrom where
  rank : Nat
  head : DomHead := {}
deriving DecidableEq, Repr

/-- A BREAK of a rank, from another (R426). -/
structure DomBreak where
  src : Nat
  rank : Nat
  head : DomHead := {}
deriving DecidableEq, Repr

/-- A window request of another chip, to be performed here (R430). -/
structure WinReq where
  src : Nat
  write : Bool
  atomic : Option (Nat × Ty) := none
  offset : Nat
  bytes : List Byte := []   -- data of a store or the operand of an atomic
  cmp : Nat := 0
  len : Nat
  elem : Bool := false      -- the element view: `bytes` holds f32 values, `len` counts 4 bytes for each
  id : Nat := 0             -- the requester's number of it, which the answer names
  ret : Bool := true        -- an atomic returns its old value
  head : DomHead := {}
deriving DecidableEq, Repr

/-- What a domain message holds once opened: data (R423), or control (R429). -/
inductive DomBody where
  | collective (tag op redop ty count ranks root : Nat) (vals : List Nat)
  | collAbort (tag : Nat)
  | window (id status : Nat) (done dead : Mask) (flags : BitVec 5) (vals : List (List Nat)) -- a window request's answer (R270)
  | request (r : WinReq)
  | arrival (value : Nat) (early : Bool)
  | leave | leaveAck
  | brk (rank : Nat)
  | heartbeat (link : Nat)
  | other
deriving DecidableEq, Repr

/-- A domain message from one rank. -/
structure DomMsg where
  src : Nat
  head : DomHead := {}
  body : DomBody := .other
deriving DecidableEq, Repr

/-- A unit that Awl leases or retires (R393, R402). -/
inductive Unit' where
  | core (c : Nat) | link (k : Nat) | hbm (ch : Nat) | lpddr (ch : Nat)
deriving DecidableEq, Repr

/-- Why a collective ends early (R433). -/
inductive CollEnd where
  | aborted | disagreed | domainLost
deriving DecidableEq, Repr

end Sys2Proof
end

