-- ==== Sys2Proof/Syntax.lean ====
section
/-! DEFINITION. The syntax: one constructor for each row of spec/opcode_table.json. The first 137 are the Turle
instructions of R125 with their slot fields (R117); the others are the steps of the machine's other agents, with what
the step names: an object in flight, a unit, a register, or a message from outside. -/

namespace Sys2Proof

inductive Instr where
  /-- SADD (R141): Scalar add with optional saturation, result in sD. -/
  | sadd (o : Fields)
  /-- SSUB (R141): Scalar subtract with optional saturation. -/
  | ssub (o : Fields)
  /-- SMIN (R141): Scalar minimum, compared by the type's signedness. -/
  | smin (o : Fields)
  /-- SMAX (R141): Scalar maximum, compared by the type's signedness. -/
  | smax (o : Fields)
  /-- SMUL (R141): Scalar multiply, low half, with optional saturation. -/
  | smul (o : Fields)
  /-- SMULH (R141): Scalar multiply, high half of the exact product. -/
  | smulh (o : Fields)
  /-- SMAD (R141): Scalar multiply-add with optional saturation. -/
  | smad (o : Fields)
  /-- SAND (R141): Scalar bitwise AND. -/
  | sand (o : Fields)
  /-- SOR (R141): Scalar bitwise OR. -/
  | sor (o : Fields)
  /-- SXOR (R141): Scalar bitwise exclusive OR. -/
  | sxor (o : Fields)
  /-- SANDN (R141): Scalar a AND NOT b. -/
  | sandn (o : Fields)
  /-- SSHL (R141): Scalar shift left by b[7:0]. -/
  | sshl (o : Fields)
  /-- SSHR (R141): Scalar logical shift right by b[7:0]. -/
  | sshr (o : Fields)
  /-- SSRA (R141): Scalar arithmetic shift right by b[7:0]. -/
  | ssra (o : Fields)
  /-- SPOPC (R141): Scalar population count. -/
  | spopc (o : Fields)
  /-- SCLZ (R141): Scalar count of leading zeros. -/
  | sclz (o : Fields)
  /-- SBFE (R141): Scalar bit-field extract. -/
  | sbfe (o : Fields)
  /-- SBFI (R141): Scalar bit-field insert. -/
  | sbfi (o : Fields)
  /-- SCMP (R142): Scalar compare writing all bits of a predicate. -/
  | scmp (o : Fields)
  /-- SSEL (R142): Scalar select by a predicate of active lanes. -/
  | ssel (o : Fields)
  /-- SMOV (R143): Scalar move. -/
  | smov (o : Fields)
  /-- SLEA (R143): Scalar address computation a + (b << k). -/
  | slea (o : Fields)
  /-- SMOVI (R143): Wide move of a 64-bit immediate into a scalar. -/
  | smovi (o : Fields)
  /-- BRA (R145): Branch of the whole PC slot to a slot-counted offset. -/
  | bra (o : Fields)
  /-- BRX (R145): Branch of the whole PC slot to an address held in a scalar. -/
  | brx (o : Fields)
  /-- CALL (R145): Call to an offset, writing the return address into a link scalar. -/
  | call (o : Fields)
  /-- CALLX (R145): Call to an address held in a scalar, writing a link scalar. -/
  | callx (o : Fields)
  /-- RET (R145): Return to an address held in a scalar. -/
  | ret (o : Fields)
  /-- BRU (R146): Uniform branch of the whole slot if any or all active lanes meet the condition. -/
  | bru (all : Bool) (o : Fields)
  /-- DBR (R68): Divergent branch that splits the lanes of a slot over both PC slots, pushing the stack when needed. -/
  | dbr (o : Fields)
  /-- RCV (R69): Reconvergence point that waits for or merges with the other slot and pops the divergence stack. -/
  | rcv (o : Fields)
  /-- LOOP (R149): Decrement a 64-bit counter and branch while it is nonzero. -/
  | loop (o : Fields)
  /-- EXIT (R150): Remove active lanes from the slot; the group retires when both slots and the stack are empty. -/
  | exit (o : Fields)
  /-- YIELD (R151): Pass over the group once in the quarter's rotation. -/
  | yield (o : Fields)
  /-- NOP (R151): No operation; with the switch marker, a wait for deferred results. -/
  | nop (o : Fields)
  /-- VADD (R174): Per-lane integer add with optional saturation. -/
  | vadd (o : Fields)
  /-- VSUB (R174): Per-lane integer subtract. -/
  | vsub (o : Fields)
  /-- VMUL (R174): Per-lane integer multiply. -/
  | vmul (o : Fields)
  /-- VMULH (R174): Per-lane high half of an integer product. -/
  | vmulh (o : Fields)
  /-- VMAD (R174): Per-lane integer multiply-add. -/
  | vmad (o : Fields)
  /-- VMADW (R175): Per-lane widening 32x32+64 multiply-add. -/
  | vmadw (o : Fields)
  /-- VDOT4 (R175): Per-lane four-byte dot product accumulated into i32. -/
  | vdot4 (o : Fields)
  /-- VABS (R174): Per-lane absolute value. -/
  | vabs (o : Fields)
  /-- VNEG (R174): Per-lane negation. -/
  | vneg (o : Fields)
  /-- VMIN (R174): Per-lane integer minimum. -/
  | vmin (o : Fields)
  /-- VMAX (R174): Per-lane integer maximum. -/
  | vmax (o : Fields)
  /-- VAND (R174): Per-lane bitwise AND. -/
  | vand (o : Fields)
  /-- VOR (R174): Per-lane bitwise OR. -/
  | vor (o : Fields)
  /-- VXOR (R174): Per-lane bitwise exclusive OR. -/
  | vxor (o : Fields)
  /-- VNOT (R174): Per-lane bitwise complement. -/
  | vnot (o : Fields)
  /-- VSHL (R174): Per-lane shift left. -/
  | vshl (o : Fields)
  /-- VSHR (R174): Per-lane logical shift right. -/
  | vshr (o : Fields)
  /-- VSRA (R174): Per-lane arithmetic shift right. -/
  | vsra (o : Fields)
  /-- VROT (R174): Per-lane rotate left. -/
  | vrot (o : Fields)
  /-- VPOPC (R174): Per-lane population count. -/
  | vpopc (o : Fields)
  /-- VCLZ (R174): Per-lane count of leading zeros. -/
  | vclz (o : Fields)
  /-- VBREV (R174): Per-lane bit reversal. -/
  | vbrev (o : Fields)
  /-- VBFE (R174): Per-lane bit-field extract. -/
  | vbfe (o : Fields)
  /-- VBFI (R174): Per-lane bit-field insert. -/
  | vbfi (o : Fields)
  /-- VSEL (R176): Per-lane select by a predicate bit. -/
  | vsel (o : Fields)
  /-- VMOV (R176): Per-lane move preserving every bit. -/
  | vmov (o : Fields)
  /-- VMOVS (R176): Move one lane of a vector register into a scalar. -/
  | vmovs (o : Fields)
  /-- VCMP (R177): Per-lane integer compare writing predicate bits of active lanes. -/
  | vcmp (o : Fields)
  /-- PAND (R178): Predicate AND for active lanes. -/
  | pand (o : Fields)
  /-- POR (R178): Predicate OR for active lanes. -/
  | por (o : Fields)
  /-- PXOR (R178): Predicate exclusive OR for active lanes. -/
  | pxor (o : Fields)
  /-- PNOT (R178): Predicate complement for active lanes. -/
  | pnot (o : Fields)
  /-- PMOV (R178): Predicate move from a predicate, scalar or immediate. -/
  | pmov (o : Fields)
  /-- PCNT (R178): Count of set predicate bits of active lanes into a scalar. -/
  | pcnt (o : Fields)
  /-- PFFS (R178): Index of the lowest set predicate bit of active lanes into a scalar. -/
  | pffs (o : Fields)
  /-- FADD (R181): Floating add rounded once by the mode, optionally packed. -/
  | fadd (o : Fields)
  /-- FSUB (R181): Floating subtract rounded once. -/
  | fsub (o : Fields)
  /-- FMUL (R181): Floating multiply rounded once. -/
  | fmul (o : Fields)
  /-- FFMA (R181): Fused multiply-add rounded once. -/
  | ffma (o : Fields)
  /-- FMIN (R182): Floating minimumNumber. -/
  | fmin (o : Fields)
  /-- FMAX (R182): Floating maximumNumber. -/
  | fmax (o : Fields)
  /-- FMIN_NAN (R182): Floating minimum propagating NaN. -/
  | fminNan (o : Fields)
  /-- FMAX_NAN (R182): Floating maximum propagating NaN. -/
  | fmaxNan (o : Fields)
  /-- FCMP (R183): Floating compare writing predicate bits. -/
  | fcmp (o : Fields)
  /-- FCLASS (R184): Floating classification into a one-hot mask. -/
  | fclass (o : Fields)
  /-- FSCALE (R185): Scale a floating value by a power of two, rounded. -/
  | fscale (o : Fields)
  /-- FRND (R185): Round a floating value to an integral value. -/
  | frnd (o : Fields)
  /-- FDIV (R187): Deferred correctly rounded division. -/
  | fdiv (o : Fields)
  /-- FSQRT (R187): Deferred correctly rounded square root. -/
  | fsqrt (o : Fields)
  /-- FRCP (R188): Deferred reciprocal within 1 ulp. -/
  | frcp (o : Fields)
  /-- FRSQ (R188): Deferred reciprocal square root within 1 ulp. -/
  | frsq (o : Fields)
  /-- FEXP2 (R188): Deferred base-2 exponential. -/
  | fexp2 (o : Fields)
  /-- FLOG2 (R188): Deferred base-2 logarithm. -/
  | flog2 (o : Fields)
  /-- FSINPI (R188): Deferred sin(pi x). -/
  | fsinpi (o : Fields)
  /-- FCOSPI (R188): Deferred cos(pi x). -/
  | fcospi (o : Fields)
  /-- CVT (R191): Conversion between integer and floating types, stochastic rounding allowed for narrow destinations. -/
  | cvt (o : Fields)
  /-- QCVT (R192): Quantise a floating value to a q8 or q4 code with a scale and zero point. -/
  | qcvt (o : Fields)
  /-- SHFL (R194): Lane shuffle by index, up, down or xor within a segment. -/
  | shfl (mode : ShflMode) (o : Fields)
  /-- VOTE (R195): Any, all, equal or ballot vote of participating lanes into a scalar. -/
  | vote (mode : VoteMode) (o : Fields)
  /-- VRED (R196): Lane reduction by the fixed pairwise tree into a scalar. -/
  | vred (o : Fields)
  /-- VSCAN (R197): Inclusive or exclusive lane scan by the fixed tree. -/
  | vscan (o : Fields)
  /-- VFIRST (R198): Value of the lowest participating lane into a scalar. -/
  | vfirst (o : Fields)
  /-- LDS (R263): Deferred load from the team's scratchpad. -/
  | lds (o : Fields)
  /-- STS (R263): Store to the team's scratchpad. -/
  | sts (o : Fields)
  /-- LDSC (R264): Deferred load through the cluster scratchpad window. -/
  | ldsc (o : Fields)
  /-- STSC (R264): Store through the cluster scratchpad window. -/
  | stsc (o : Fields)
  /-- LDG_RAW (R266): Deferred global load of stored bytes. -/
  | ldgRaw (o : Fields)
  /-- LDG_ELEM (R268): Deferred global load decoding quantised elements to f32. -/
  | ldgElem (o : Fields)
  /-- STG_RAW (R266): Global store of raw bytes, written through to the home slice. -/
  | stgRaw (o : Fields)
  /-- STG_ELEM (R269): Global store encoding f32 values into quantised codes. -/
  | stgElem (o : Fields)
  /-- ATOMS (R272): Atomic read-modify-write in the scratchpad. -/
  | atoms (o : Fields)
  /-- ATOMG (R272): Atomic read-modify-write at the home slice with return. -/
  | atomg (o : Fields)
  /-- RED (R272): Global reduction without return. -/
  | red (o : Fields)
  /-- FENCE (R274): Acquire, release or acquire-release fence at a scope. -/
  | fence (o : Fields)
  /-- WAITC (R275): Wait until a path counter is at or below a threshold. -/
  | waitc (o : Fields)
  /-- PREF (R276): Prefetch sectors into L2 or L1 without a visible result. -/
  | pref (o : Fields)
  /-- CINV (R277): Drop L1 lines of the context on the issuing core. -/
  | cinv (o : Fields)
  /-- GANG (R288): Set the group's gang register and reset its MMA sequence index. -/
  | gang (o : Fields)
  /-- MMA (R289): Arrive at the cinch with a matrix multiply-accumulate of the gang. -/
  | mma (o : Fields)
  /-- MZERO (R298): Zero a block of accumulator tiles and clear their poison bits. -/
  | mzero (o : Fields)
  /-- MLD (R299): Load memory rows into a block of accumulator tiles. -/
  | mld (o : Fields)
  /-- MST (R299): Store a block of accumulator tiles to memory with conversion. -/
  | mst (o : Fields)
  /-- MMOV (R301): Move a 512-byte tile chunk between a tile and vector registers. -/
  | mmov (o : Fields)
  /-- MFENCE (R303): Close the open matrix batch. -/
  | mfence (o : Fields)
  /-- MWAIT (R304): Wait until at most n closed batches are incomplete. -/
  | mwait (o : Fields)
  /-- CPY (R309): Hand a raw byte copy to the bulk copy engine. -/
  | cpy (o : Fields)
  /-- TCPY (R310): Hand a tensor box copy with descriptor to the bulk copy engine. -/
  | tcpy (o : Fields)
  /-- COLL (R315): Hand a collective descriptor to the die's collective engine. -/
  | coll (o : Fields)
  /-- SPAWN (R318): Place a continuation record in the kernel's pool. -/
  | spawn (o : Fields)
  /-- JDEC (R320): Atomically decrement a join object, making a record at zero. -/
  | jdec (o : Fields)
  /-- BAR (R328): Arrive at the team barrier and wait. -/
  | bar (o : Fields)
  /-- BARA (R329): Arrive at a named barrier with a count without waiting. -/
  | bara (o : Fields)
  /-- BARW (R329): Wait for the release of the phase of the group's latest named-barrier arrival. -/
  | barw (o : Fields)
  /-- BARN (R329): Arrive at a named barrier with a count and wait. -/
  | barn (o : Fields)
  /-- CBAR (R330): Arrive at the cluster barrier and wait. -/
  | cbar (o : Fields)
  /-- DBAR (R331): Arrive at the domain barrier with a sequence value and wait. -/
  | dbar (o : Fields)
  /-- SRD (R154): Read a special register into a scalar, or %lane into a vector. -/
  | srd (o : Fields)
  /-- SWR (R155): Write a writable special register. -/
  | swr (o : Fields)
  /-- TRAP (R161): Abort with status trap, or with debug write a trap record and wait for a reply. -/
  | trap (o : Fields)
  /-- SVC (R159): Write a service record, signal the host and wait for the reply. -/
  | svc (o : Fields)
  /-- ENRD (R163): Read an energy counter of the context, kernel or team into a scalar pair. -/
  | enrd (form : EnrdForm) (o : Fields)
  /-- CAPRD (R165): Read a capacity figure of the kernel's pool into a scalar. -/
  | caprd (o : Fields)
  /-- DEFERRED_RETURN (R74): A deferred result returns and binds its destination name, or is dropped by generation tag. -/
  | deferredReturn (id : Nat)
  /-- GLOBAL_ACCESS_PERFORMED (R77): A memory access completes for its lanes and lowers its path counter and log entry. -/
  | globalAccessPerformed (id : Nat)
  /-- PAGE_WALK_COMPLETE (R202): A table walk at the stack TLB ends with a translation or a fault. -/
  | pageWalkComplete (id : Nat)
  /-- FAULT_RECORD_WRITE (R216): A waiting fault is written into the function's fault ring once room exists and vector 0 is raised. -/
  | faultRecordWrite (id : Nat)
  /-- DIVERGENCE_STACK_POP_RETURN (R71): The load of a popped divergence-stack entry returns and makes the slot runnable. -/
  | divergenceStackPopReturn (core slot : Nat)
  /-- CINCH_RELEASE (R289): All gang members have arrived; arrivals are compared and every member's MMA issues. -/
  | cinchRelease (core slot : Nat)
  /-- MATRIX_FETCH_COMPLETE (R284): A matrix operation's fetch phase ends after translating, checking and reading its operands. -/
  | matrixFetchComplete (id : Nat)
  /-- MATRIX_COMPUTE_COMPLETE (R297): A compute phase ends, writing tiles, registers or memory and completing its batch part. -/
  | matrixComputeComplete (id : Nat)
  /-- COPY_COMPLETE (R245): The copy engine finishes a copy, performs its release and lowers P3. -/
  | copyComplete (id : Nat)
  /-- COLLECTIVE_COMPLETE (R317): The collective engine finishes, performs its release and writes the done word. -/
  | collectiveComplete (id : Nat)
  /-- COLLECTIVE_ABORT (R433): A collective ends early on ABORT, disagreement or a broken domain, writing done 2 or 3. -/
  | collectiveAbort (id : Nat) (why : CollEnd)
  /-- TEAM_RETIREMENT_STEP (R321): After a spawned team's accesses are performed, the Harness head performs its join step. -/
  | teamRetirementStep (kid : Nat)
  /-- POOL_RECORD_ENTRY (R320): A record waiting outside a full pool enters it when a record leaves. -/
  | poolRecordEntry (kid : Nat)
  /-- DOORBELL (R356): A producer write to a queue adds commands, retrying a blocked ring or record read. -/
  | doorbell (fn q : Nat) (producer : W32)
  /-- LAUNCH (R336): Accept a kernel by reading its launch record, or refuse it. -/
  | launch (c : Cmd)
  /-- REPLY (R358): Answer a service or trap record with a reply block. -/
  | reply (c : Cmd)
  /-- WAIT (R358): Queue command that holds later commands until a word meets its condition. -/
  | wait (c : Cmd)
  /-- WAIT_POLL (R358): Every 256 Harness head clocks a WAIT command rereads its word with an acquire. -/
  | waitPoll (q : Nat)
  /-- SIGNAL (R358): Write a value to a word as a release at .sys. -/
  | signal (c : Cmd)
  /-- INVALIDATE (R218): Privileged command broadcasting an invalidation of TLB, L1 and optionally L2 lines. -/
  | invalidate (c : Cmd)
  /-- INVALIDATION_DONE (R218): All conditions of an invalidation hold and 1 is written to its done word. -/
  | invalidationDone (id : Nat)
  /-- MIGRATE (R221): Privileged command starting a page-migration engine copy. -/
  | migrate (c : Cmd)
  /-- MIGRATION_DONE (R221): The migration engine finishes its copy, performs its release and writes done. -/
  | migrationDone (id : Nat)
  /-- RESOLVE (R362): Re-issue every waiting access of a context whose faulting address lies in a range. -/
  | resolve (c : Cmd)
  /-- ABORT (R362): Privileged command moving a kernel of a context to ABORTING. -/
  | abort (c : Cmd)
  /-- QUEUE_SELECTION (R367): When a die Harness has no set waiting, a queue is chosen by band and deficit and hands out one set. -/
  | queueSelection (die : Nat)
  /-- SET_PLACEMENT (R342): A die Harness places a set of records on an eligible stack when one exists. -/
  | setPlacement (die : Nat)
  /-- CLASS_CHANGE (R26): A stack whose pool was reassigned becomes empty and changes class on all tiers. -/
  | classChange (stk : Nat)
  /-- TEAM_EVICTION (R381): A team is settled at instruction boundaries, its image saved and its resources freed. -/
  | teamEviction (uid : Nat)
  /-- TEAM_RESTORE (R384): Rind checks an image and restores the team whole, or refuses it. -/
  | teamRestore (uid : Nat)
  /-- KERNEL_COMPLETE (R352): A kernel with no team, record or step left performs its join step and writes its done word. -/
  | kernelComplete (kid : Nat)
  /-- ABORT_CLEANUP (R351): An aborting kernel's cleanup finishes, then the report, join step and done word are written. -/
  | abortCleanup (kid : Nat)
  /-- DEADLINE_EXPIRY (R348): A hard-deadline kernel short of COMPLETING is aborted when its count reaches the deadline. -/
  | deadlineExpiry (kid : Nat)
  /-- RECONCILIATION_WINDOW (R378): At each 2^16-clock window end, corrections, filler and footprint are billed and energy limits checked. -/
  | reconciliationWindow (stk : Nat)
  /-- FOOTPRINT_SAMPLE (R378): Every 1024 clocks the bytes each context holds on the stack are sampled. -/
  | footprintSample (stk : Nat)
  /-- REFILL_TICK (R379): Every 1,024 reference clocks a context's bucket refills and images are billed footprint. -/
  | refillTick (die : Nat)
  /-- GRANT_REQUEST (R379): A core meter below 2^31 fJ asks for a grant, parking the context if refused. -/
  | grantRequest (core ctx : Nat)
  /-- CREATE (R375): Context command that creates a context and binds a key slot for a nonzero world. -/
  | create (fn ctx : Nat)
  /-- TEARDOWN (R390): Context command that aborts kernels, disables queues and starts teardown. -/
  | teardown (fn ctx : Nat)
  /-- TEARDOWN_COMPLETE (R390): Teardown cleanup and scrubs finish and the context enters DEAD. -/
  | teardownComplete (ctx : Nat)
  /-- FREE (R375): Context command that returns a DEAD context to FREE and clears its accounts. -/
  | free (fn ctx : Nat)
  /-- EVICT (R375): Context command that evicts every resident team and holds the context. -/
  | evict (fn ctx : Nat)
  /-- RESUME (R375): Context command that unholds an evicted context. -/
  | resume (fn ctx : Nat)
  /-- INTEGRITY_SWEEP (R388): At the end of each 2^30-clock period the world's hashes are compared, faulting contexts on mismatch. -/
  | integritySweep (world : Nat)
  /-- DIE_WORLD_REQUEST (R386): A write of RND_DIEWORLD target requests a change of a die's latched world. -/
  | dieWorldRequest (fn die : Nat) (target : BitVec 4)
  /-- DIE_WORLD_CHANGE (R386): Once no team of the latched world is resident, the die is scrubbed if needed and the target latched. -/
  | dieWorldChange (die : Nat)
  /-- SCRUB_COMPLETE (R387): All 64 cores of a die finish their zero-write and the scrub ends. -/
  | scrubComplete (die : Nat)
  /-- LEASE_START (R393): At each Awl interval the core, link and channels of that interval are leased. -/
  | leaseStart (die : Nat)
  /-- GRACE_WINDOW_EXPIRY (R395): The grace window ends and remaining teams on the draining core are evicted. -/
  | graceWindowExpiry (core : Nat)
  /-- CORE_DRAINED (R395): A draining core holds no team; the lease notice is posted and test begins, or the core retires. -/
  | coreDrained (core : Nat)
  /-- TEST_PASS (R391): A core passes its patterns and returns to SERVICE with a notice. -/
  | testPass (core : Nat)
  /-- TEST_FAIL (R391): A pattern fails, raising the score and restarting patterns or retiring the core. -/
  | testFail (core pattern : Nat)
  /-- PERIOD_BOUNDARY (R401): At each Awl period boundary every suspicion score of the die is halved. -/
  | periodBoundary (die : Nat)
  /-- CHANNEL_LEASE_END (R400): After 20 us a quiet channel lease ends and held requests are served. -/
  | channelLeaseEnd (u : Unit')
  /-- CONFIRM_CHANNEL_RETIREMENT (R406): The physical function writes 1 to AWL_SCORE pending, retiring the channel. -/
  | confirmChannelRetirement (fn k : Nat)
  /-- IMBAL_REFRESH (R408): Every 1024 clocks tier readings refresh and filler and throttle are set. -/
  | imbalRefresh (stk : Nat)
  /-- MATBUDGET_WINDOW (R305): Every 256 clocks the core's matrix issue count restarts. -/
  | matbudgetWindow (core : Nat)
  /-- RETENTION_ENTRY (R412): After 2^16 idle clocks a stack enters retention. -/
  | retentionEntry (stk : Nat)
  /-- RETENTION_EXIT (R412): A stack leaves retention on an event that needs it, checking parity. -/
  | retentionExit (stk : Nat) (lost : BitVec 4)
  /-- LINK_ENABLE (R415): A write of LNK_CTL enable starts training or takes the link DOWN. -/
  | linkEnable (fn k : Nat) (value : W64)
  /-- LANES_TRAINED (R415): A training link opens an SPDM session with its neighbour. -/
  | lanesTrained (k : Nat)
  /-- LINK_KEYS_INSTALLED (R415): Keys are installed in both directions and the link enters UP. -/
  | linkKeysInstalled (k : Nat) (peer : BitVec 16)
  /-- LINK_TRAIN_TIMEOUT (R415): Training or SPDM fails or gets no answer within 2^24 link clocks; the link fails. -/
  | linkTrainTimeout (k : Nat)
  /-- FLIT_RECEIVE (R419): A received flit is checked by tag and counter and accepted or dropped. -/
  | flitReceive (k : Nat) (f : Flit)
  /-- KEY_UPDATE (R418): A direction's counter reaches 2^40 and Rind performs an SPDM KEY_UPDATE. -/
  | keyUpdate (k : Nat) (sending : Bool)
  /-- HEARTBEAT_SEND (R425): Each heartbeat interval an UP link and each domain member send heartbeats. -/
  | heartbeatSend (k : Nat)
  /-- HEARTBEAT_TIMEOUT (R415): No flit arrives for hb_miss intervals and the link fails. -/
  | heartbeatTimeout (k : Nat)
  /-- LINK_LOOP_TEST_END (R415): Loopback patterns of a leased link pass or fail. -/
  | linkLoopTestEnd (k : Nat) (pass : Bool)
  /-- FLIT_RESEND (R420): Unacknowledged flits of a link that left UP are resent over another route once one exists. -/
  | flitResend (k : Nat)
  /-- FORM (R422): Domain command that starts forming a trust domain. -/
  | form (fn m : Nat)
  /-- DOMAIN_FORMED (R422): Every member has acknowledged the master secret and the slots enter UP. -/
  | domainFormed (m result : Nat)
  /-- LEAVE (R424): Domain command by which a chip leaves its domain. -/
  | leave (fn m : Nat)
  /-- LEAVE_MESSAGE (R424): A member receives LEAVE, clears the rank's live bit and enters REKEY. -/
  | leaveMessage (m : Nat) (x : DomFrom)
  /-- RANK_TIMEOUT (R426): A rank's domain heartbeats are missed for hb_miss intervals and the domain is declared broken. -/
  | rankTimeout (m rank : Nat)
  /-- BREAK (R426): A member receives BREAK naming a rank and enters BROKEN. -/
  | breakMsg (m : Nat) (x : DomBreak)
  /-- SPARE_TAKEOVER (R427): The lowest live rank re-attests a spare, distributes a new secret and the remap. -/
  | spareTakeover (m : Nat) (attested : Bool)
  /-- DBAR_ARRIVAL_MESSAGE (R331): A remote chip's domain barrier arrival is recorded. -/
  | dbarArrivalMessage (m : Nat) (x : DomFrom) (value : W32) (early : Bool)
  /-- REKEY (R428): At a DBAR release with re-key pending, after old-epoch messages drain, keys are derived for the new epoch. -/
  | rekey (m : Nat)
  /-- DOMAIN_DATA_MESSAGE (R423): An end-to-end domain payload is checked and delivered in sequence order. -/
  | domainDataMessage (m : Nat) (msg : DomMsg)
  /-- WINDOW_ACCESS_SERVICE (R430): A domain-window request is performed at the owning chip under the bound context. -/
  | windowAccessService (m : Nat) (req : WinReq)
  /-- OFFER (R435): Every 64 refill ticks a governor offers unused share to its neighbours. -/
  | offer (k unused : Nat)
  /-- TAKE (R435): A lender receives TAKE and raises lent. -/
  | take (k watts : Nat)
  /-- ACK (R435): A borrower receives ACK and raises borrowed. -/
  | ack (k watts : Nat)
  /-- RECLAIM (R435): A borrower receives RECLAIM, lowers borrowed and its cap, and sends RETURN. -/
  | reclaim (k : Nat)
  /-- RETURN (R435): A lender receives RETURN and restores lent. -/
  | returnMsg (k : Nat)
  /-- RECLAIM_TIMEOUT (R435): 1,000 clocks after RECLAIM without RETURN the lender considers the loan returned. -/
  | reclaimTimeout (k : Nat)
  /-- RAIL_STEP (R447): Each reference tick the array rail steps 5 mV toward its target. -/
  | railStep (die : Nat)
  /-- PAR_OWN_WRITE (R438): A write to an ownership word, refused whole if it breaks an ownership rule. -/
  | parOwnWrite (fn p w : Nat) (value : W64)
  /-- ACTIVATE (R443): Virtual function command that activates a function. -/
  | activate (fn f : Nat)
  /-- SUSPEND (R443): Virtual function command that stops commands and evicts every team of its contexts. -/
  | suspend (fn f : Nat)
  /-- VF_SUSPENDED (R443): The last team of a suspending function is evicted and its registers are saved. -/
  | vfSuspended (f : Nat)
  /-- VF_RESUME (R444): Virtual function command that restores registers and continues an interrupted context command. -/
  | vfResume (fn f : Nat)
  /-- DISABLE (R443): Virtual function command that turns a function OFF. -/
  | disable (fn f : Nat)
  /-- BURST_ARRIVAL (R440): A 64-byte burst arrives at a channel and takes a fair-queueing start tag. -/
  | burstArrival (ch p id : Nat)
  /-- BURST_SERVE (R440): The channel serves the held burst with the least start tag. -/
  | burstServe (ch : Nat)
  /-- SNP_TRIGGER (R451): A snapshot trigger makes every block latch its counts with a sequence number. -/
  | snpTrigger (fn : Nat)
  /-- SNP_READ (R451): Readback of latched or live block state through SNP_READ_ADDR and SNP_READ_DATA. -/
  | snpRead (fn : Nat) (addr : W64)
  /-- EXPORT_CONTEXT (R450): Meter export of kind 1 writes a signed record of a context's accounts. -/
  | exportContext (fn ctx : Nat)
  /-- EXPORT_PARTITION (R450): Meter export of kind 2 writes a signed record of a partition's summed accounts. -/
  | exportPartition (fn ctx : Nat)
  /-- COUNTER_READ_CLEAR (R448): A read of an RC counter returns and clears its copy or all copies. -/
  | counterReadClear (fn : Nat) (reg : Reg)
  /-- REGISTER_WRITE (R355): A write to a register without a row of its own, refused and counted if it breaks a limit. -/
  | registerWrite (fn : Nat) (reg : Reg) (value : W64)
  /-- FUNDAMENTAL_RESET (R458): Reset starts bring-up: Rind verifies records, dies are scrubbed and channels and links train. -/
  | fundamentalReset (bad : Nat)
  /-- BRINGUP_READY (R458): Bring-up completes, dies are released and vector 2 is raised. -/
  | bringupReady
  /-- VF_RESET (R459): Function-level reset of a virtual function tears down its contexts and turns it OFF. -/
  | vfReset (f : Nat)
  /-- PF_RESET (R459): Function-level reset of the physical function tears down every context and resets the partition table. -/
  | pfReset
  /-- UNASSIGNED_OPCODE (R126): A group issues from a slot whose (major, minor) pair is unassigned, such as an all-zero slot or major 0xFF outside an extension slot, and takes an illegal-instruction fault. -/
  | unassignedOpcode (raw : BitVec 96)
  /-- QUEUE_URGENT (R369): A band-0 queue becomes urgent when a kernel's slack, counted down on the Harness head clock, falls below Q_THRESH, and Q_STATUS.urgent sets. -/
  | queueUrgent (q : Nat)
  /-- IDE_STREAM_KEYED (R454): A function's IDE selective stream is keyed through Rind by SPDM under the host's security manager and enters or leaves the secure state. -/
  | ideStreamKeyed (f : Nat) (secure : Bool)
  /-- RETIREMENT_LOG_EXPORT (R404): The management controller exports retirement records that Rind holds while the log is full. -/
  | retirementLogExport
  /-- LEAVE_ACKNOWLEDGED (R424): The acknowledgement of LEAVE arrives after cmd 2; the slot returns to IDLE and Rind erases the master secret. -/
  | leaveAcknowledged (m : Nat) (x : DomFrom)
  /-- NEW_MASTER_SECRET (R427): A member or the spare receives the new master secret with the remap from the lowest live rank, installs the remap and enters REKEY. -/
  | newMasterSecret (m failed spare : Nat)
  /-- SEND_RECLAIM (R435): A lender governor whose demand needs its share back sends RECLAIM to its borrower. -/
  | sendReclaim (k : Nat)
deriving DecidableEq, Repr

end Sys2Proof
end

