-- ==== Sys2Proof/WellFormed.lean ====
section
/-! DEFINITION. Well-formed instructions: the issue class, operand classes, types and modifiers that each description
gives (R118 to R124 and the instruction chapters), and the checks of R127 steps 3 and 5 to 8 with their cause codes. -/

namespace Sys2Proof

/-- The type an operand is read at. -/
inductive OpTy where
  | own | type2 | half | as (t : Ty)
deriving DecidableEq, Repr

/-- Operand classes (R118), with the ranges that single descriptions narrow. -/
inductive OpCls where
  | unused
  | vec (t : OpTy)
  | vreg                 -- a vector register only (VMOVS, R173)
  | scal (t : OpTy)
  | sreg                 -- a scalar register only (R144)
  | sreg4                -- s0, s4, … (R310)
  | pred
  | predOrScal           -- PMOV (R178)
  | immOnly              -- SMOVI (R143)
  | base (t : OpTy)      -- vector class but for 0x148 (R257)
  | disp                 -- 0x148 or 0x149 to 0x14C (R257)
  | cinvBase | cinvDisp  -- as base and disp, 0x000 with .all (R277)
  | atom                 -- the operand of an atomic (R271)
  | waitThr              -- WAITC's threshold (R275)
  | mmov                 -- a tile or four vector names, by MOD bit 0 (R301)
deriving DecidableEq, Repr

/-- Destination classes (R120). -/
inductive DstCls where
  | none | vec | vecAs (t : Ty) | scal | scalPair | pred | tile | index | srd | mmov
deriving DecidableEq, Repr

/-- Whether PRED may be other than 0b0000. -/
inductive PredRule where
  | any | zero
deriving DecidableEq, Repr

structure Row where
  cls : IClass
  dst : DstCls
  a : OpCls
  b : OpCls
  c : OpCls
  tys : List Ty
  pred : PredRule
deriving DecidableEq, Repr

def tysIN : List Ty := [.i32, .i64, .n32, .n64]
def tysINB : List Ty := [.i32, .i64, .n32, .n64, .b32, .b64]
def tysInt : List Ty := [.i8, .i16, .i32, .i64, .n8, .n16, .n32, .n64]
def tysData : List Ty := tysInt ++ [.f16, .bf16, .f32, .f64, .e4m3, .e5m2, .b32, .b64]
def tysCvt : List Ty := tysInt ++ [.f16, .bf16, .f32, .f64, .e4m3, .e5m2]
def tysRed : List Ty := [.i32, .i64, .n32, .n64, .f16, .bf16, .f32, .f64, .b32, .b64]
def tysAtom : List Ty := [.i32, .i64, .n32, .n64, .b32, .b64, .f32, .f64]

/-- The slot fields of a Turle instruction; the machine's other steps have none. -/
def Instr.fields : Instr → Option Fields
  | .sadd o => some o
  | .ssub o => some o
  | .smin o => some o
  | .smax o => some o
  | .smul o => some o
  | .smulh o => some o
  | .smad o => some o
  | .sand o => some o
  | .sor o => some o
  | .sxor o => some o
  | .sandn o => some o
  | .sshl o => some o
  | .sshr o => some o
  | .ssra o => some o
  | .spopc o => some o
  | .sclz o => some o
  | .sbfe o => some o
  | .sbfi o => some o
  | .scmp o => some o
  | .ssel o => some o
  | .smov o => some o
  | .slea o => some o
  | .smovi o => some o
  | .bra o => some o
  | .brx o => some o
  | .call o => some o
  | .callx o => some o
  | .ret o => some o
  | .bru _ o => some o
  | .dbr o => some o
  | .rcv o => some o
  | .loop o => some o
  | .exit o => some o
  | .yield o => some o
  | .nop o => some o
  | .vadd o => some o
  | .vsub o => some o
  | .vmul o => some o
  | .vmulh o => some o
  | .vmad o => some o
  | .vmadw o => some o
  | .vdot4 o => some o
  | .vabs o => some o
  | .vneg o => some o
  | .vmin o => some o
  | .vmax o => some o
  | .vand o => some o
  | .vor o => some o
  | .vxor o => some o
  | .vnot o => some o
  | .vshl o => some o
  | .vshr o => some o
  | .vsra o => some o
  | .vrot o => some o
  | .vpopc o => some o
  | .vclz o => some o
  | .vbrev o => some o
  | .vbfe o => some o
  | .vbfi o => some o
  | .vsel o => some o
  | .vmov o => some o
  | .vmovs o => some o
  | .vcmp o => some o
  | .pand o => some o
  | .por o => some o
  | .pxor o => some o
  | .pnot o => some o
  | .pmov o => some o
  | .pcnt o => some o
  | .pffs o => some o
  | .fadd o => some o
  | .fsub o => some o
  | .fmul o => some o
  | .ffma o => some o
  | .fmin o => some o
  | .fmax o => some o
  | .fminNan o => some o
  | .fmaxNan o => some o
  | .fcmp o => some o
  | .fclass o => some o
  | .fscale o => some o
  | .frnd o => some o
  | .fdiv o => some o
  | .fsqrt o => some o
  | .frcp o => some o
  | .frsq o => some o
  | .fexp2 o => some o
  | .flog2 o => some o
  | .fsinpi o => some o
  | .fcospi o => some o
  | .cvt o => some o
  | .qcvt o => some o
  | .shfl _ o => some o
  | .vote _ o => some o
  | .vred o => some o
  | .vscan o => some o
  | .vfirst o => some o
  | .lds o => some o
  | .sts o => some o
  | .ldsc o => some o
  | .stsc o => some o
  | .ldgRaw o => some o
  | .ldgElem o => some o
  | .stgRaw o => some o
  | .stgElem o => some o
  | .atoms o => some o
  | .atomg o => some o
  | .red o => some o
  | .fence o => some o
  | .waitc o => some o
  | .pref o => some o
  | .cinv o => some o
  | .gang o => some o
  | .mma o => some o
  | .mzero o => some o
  | .mld o => some o
  | .mst o => some o
  | .mmov o => some o
  | .mfence o => some o
  | .mwait o => some o
  | .cpy o => some o
  | .tcpy o => some o
  | .coll o => some o
  | .spawn o => some o
  | .jdec o => some o
  | .bar o => some o
  | .bara o => some o
  | .barw o => some o
  | .barn o => some o
  | .cbar o => some o
  | .dbar o => some o
  | .srd o => some o
  | .swr o => some o
  | .trap o => some o
  | .svc o => some o
  | .enrd _ o => some o
  | .caprd o => some o
  | _ => none

/-- The row of a Turle instruction (R141 to R331, by instruction). -/
def Instr.row : Instr → Option Row
  | .sadd _ => some ⟨.S, .scal, .scal .own, .scal .own, .unused, tysIN, .any⟩
  | .ssub _ => some ⟨.S, .scal, .scal .own, .scal .own, .unused, tysIN, .any⟩
  | .smin _ => some ⟨.S, .scal, .scal .own, .scal .own, .unused, tysIN, .any⟩
  | .smax _ => some ⟨.S, .scal, .scal .own, .scal .own, .unused, tysIN, .any⟩
  | .smul _ => some ⟨.S, .scal, .scal .own, .scal .own, .unused, tysIN, .any⟩
  | .smulh _ => some ⟨.S, .scal, .scal .own, .scal .own, .unused, tysIN, .any⟩
  | .smad _ => some ⟨.S, .scal, .scal .own, .scal .own, .scal .own, tysIN, .any⟩
  | .sand _ => some ⟨.S, .scal, .scal .own, .scal .own, .unused, tysINB, .any⟩
  | .sor _ => some ⟨.S, .scal, .scal .own, .scal .own, .unused, tysINB, .any⟩
  | .sxor _ => some ⟨.S, .scal, .scal .own, .scal .own, .unused, tysINB, .any⟩
  | .sandn _ => some ⟨.S, .scal, .scal .own, .scal .own, .unused, tysINB, .any⟩
  | .sshl _ => some ⟨.S, .scal, .scal .own, .scal .own, .unused, tysINB, .any⟩
  | .sshr _ => some ⟨.S, .scal, .scal .own, .scal .own, .unused, tysINB, .any⟩
  | .ssra _ => some ⟨.S, .scal, .scal .own, .scal .own, .unused, tysINB, .any⟩
  | .spopc _ => some ⟨.S, .scal, .scal .own, .unused, .unused, tysINB, .any⟩
  | .sclz _ => some ⟨.S, .scal, .scal .own, .unused, .unused, tysINB, .any⟩
  | .sbfe _ => some ⟨.S, .scal, .scal .own, .scal .own, .unused, tysINB, .any⟩
  | .sbfi _ => some ⟨.S, .scal, .scal .own, .scal .own, .scal .own, tysINB, .any⟩
  | .scmp _ => some ⟨.S, .pred, .scal .own, .scal .own, .unused, tysIN, .any⟩
  | .ssel _ => some ⟨.S, .scal, .scal .own, .scal .own, .pred, tysINB, .any⟩
  | .smov _ => some ⟨.S, .scal, .scal .own, .unused, .unused, tysINB, .any⟩
  | .slea _ => some ⟨.S, .scal, .scal .own, .scal .own, .unused, [.i64, .n64, .b64], .any⟩
  | .smovi _ => some ⟨.S, .scal, .immOnly, .unused, .unused, [.b64], .any⟩
  | .bra _ => some ⟨.C, .none, .unused, .unused, .unused, [.none], .zero⟩
  | .brx _ => some ⟨.C, .none, .sreg, .unused, .unused, [.none], .zero⟩
  | .call _ => some ⟨.C, .scal, .unused, .unused, .unused, [.none], .zero⟩
  | .callx _ => some ⟨.C, .scal, .sreg, .unused, .unused, [.none], .zero⟩
  | .ret _ => some ⟨.C, .none, .sreg, .unused, .unused, [.none], .zero⟩
  | .bru _ _ => some ⟨.C, .none, .unused, .unused, .unused, [.none], .any⟩
  | .dbr _ => some ⟨.C, .index, .unused, .unused, .unused, [.none], .any⟩
  | .rcv _ => some ⟨.C, .index, .unused, .unused, .unused, [.none], .zero⟩
  | .loop _ => some ⟨.C, .scal, .unused, .unused, .unused, [.none], .zero⟩
  | .exit _ => some ⟨.C, .none, .unused, .unused, .unused, [.none], .any⟩
  | .yield _ => some ⟨.C, .none, .unused, .unused, .unused, [.none], .zero⟩
  | .nop _ => some ⟨.C, .none, .unused, .unused, .unused, [.none], .any⟩
  | .vadd _ => some ⟨.I, .vec, .vec .own, .vec .own, .unused, tysInt, .any⟩
  | .vsub _ => some ⟨.I, .vec, .vec .own, .vec .own, .unused, tysInt, .any⟩
  | .vmul _ => some ⟨.I, .vec, .vec .own, .vec .own, .unused, tysInt, .any⟩
  | .vmulh _ => some ⟨.I, .vec, .vec .own, .vec .own, .unused, tysInt, .any⟩
  | .vmad _ => some ⟨.I, .vec, .vec .own, .vec .own, .vec .own, tysInt, .any⟩
  | .vmadw _ => some ⟨.I, .vec, .vec .half, .vec .half, .vec .own, [.i64, .n64], .any⟩
  | .vdot4 _ => some ⟨.I, .vec, .vec (.as .b32), .vec (.as .b32), .vec (.as .i32), [.i32], .any⟩
  | .vabs _ => some ⟨.I, .vec, .vec .own, .unused, .unused, [.i8, .i16, .i32, .i64], .any⟩
  | .vneg _ => some ⟨.I, .vec, .vec .own, .unused, .unused, tysInt, .any⟩
  | .vmin _ => some ⟨.I, .vec, .vec .own, .vec .own, .unused, tysInt, .any⟩
  | .vmax _ => some ⟨.I, .vec, .vec .own, .vec .own, .unused, tysInt, .any⟩
  | .vand _ => some ⟨.I, .vec, .vec .own, .vec .own, .unused, tysINB, .any⟩
  | .vor _ => some ⟨.I, .vec, .vec .own, .vec .own, .unused, tysINB, .any⟩
  | .vxor _ => some ⟨.I, .vec, .vec .own, .vec .own, .unused, tysINB, .any⟩
  | .vnot _ => some ⟨.I, .vec, .vec .own, .unused, .unused, tysINB, .any⟩
  | .vshl _ => some ⟨.I, .vec, .vec .own, .vec .own, .unused, tysINB, .any⟩
  | .vshr _ => some ⟨.I, .vec, .vec .own, .vec .own, .unused, tysINB, .any⟩
  | .vsra _ => some ⟨.I, .vec, .vec .own, .vec .own, .unused, tysINB, .any⟩
  | .vrot _ => some ⟨.I, .vec, .vec .own, .vec .own, .unused, tysINB, .any⟩
  | .vpopc _ => some ⟨.I, .vec, .vec .own, .unused, .unused, tysINB, .any⟩
  | .vclz _ => some ⟨.I, .vec, .vec .own, .unused, .unused, tysINB, .any⟩
  | .vbrev _ => some ⟨.I, .vec, .vec .own, .unused, .unused, tysINB, .any⟩
  | .vbfe _ => some ⟨.I, .vec, .vec .own, .vec .own, .unused, tysINB, .any⟩
  | .vbfi _ => some ⟨.I, .vec, .vec .own, .vec .own, .vec .own, tysINB, .any⟩
  | .vsel _ => some ⟨.I, .vec, .vec .own, .vec .own, .pred, [.b32, .b64], .any⟩
  | .vmov _ => some ⟨.I, .vec, .vec .own, .unused, .unused, [.b32, .b64], .any⟩
  | .vmovs _ => some ⟨.I, .scal, .vreg, .scal .own, .unused, [.b32, .b64], .any⟩
  | .vcmp _ => some ⟨.I, .pred, .vec .own, .vec .own, .unused, tysInt, .any⟩
  | .pand _ => some ⟨.I, .pred, .pred, .pred, .unused, [.pred], .any⟩
  | .por _ => some ⟨.I, .pred, .pred, .pred, .unused, [.pred], .any⟩
  | .pxor _ => some ⟨.I, .pred, .pred, .pred, .unused, [.pred], .any⟩
  | .pnot _ => some ⟨.I, .pred, .pred, .unused, .unused, [.pred], .any⟩
  | .pmov _ => some ⟨.I, .pred, .predOrScal, .unused, .unused, [.pred], .any⟩
  | .pcnt _ => some ⟨.I, .scal, .pred, .unused, .unused, [.pred], .any⟩
  | .pffs _ => some ⟨.I, .scal, .pred, .unused, .unused, [.pred], .any⟩
  | .fadd _ => some ⟨.F, .vec, .vec .own, .vec .own, .unused, [.f16, .bf16, .f32, .f64], .any⟩
  | .fsub _ => some ⟨.F, .vec, .vec .own, .vec .own, .unused, [.f16, .bf16, .f32, .f64], .any⟩
  | .fmul _ => some ⟨.F, .vec, .vec .own, .vec .own, .unused, [.f16, .bf16, .f32, .f64], .any⟩
  | .ffma _ => some ⟨.F, .vec, .vec .own, .vec .own, .vec .own, [.f16, .bf16, .f32, .f64], .any⟩
  | .fmin _ => some ⟨.F, .vec, .vec .own, .vec .own, .unused, [.f16, .bf16, .f32, .f64], .any⟩
  | .fmax _ => some ⟨.F, .vec, .vec .own, .vec .own, .unused, [.f16, .bf16, .f32, .f64], .any⟩
  | .fminNan _ => some ⟨.F, .vec, .vec .own, .vec .own, .unused, [.f16, .bf16, .f32, .f64], .any⟩
  | .fmaxNan _ => some ⟨.F, .vec, .vec .own, .vec .own, .unused, [.f16, .bf16, .f32, .f64], .any⟩
  | .fcmp _ => some ⟨.F, .pred, .vec .own, .vec .own, .unused, [.f16, .bf16, .f32, .f64], .any⟩
  | .fclass _ => some ⟨.F, .vecAs .b32, .vec .own, .unused, .unused, [.f16, .bf16, .f32, .f64], .any⟩
  | .fscale _ => some ⟨.F, .vec, .vec .own, .vec (.as .i32), .unused, [.f16, .bf16, .f32, .f64], .any⟩
  | .frnd _ => some ⟨.F, .vec, .vec .own, .unused, .unused, [.f16, .bf16, .f32, .f64], .any⟩
  | .fdiv _ => some ⟨.F, .vec, .vec .own, .vec .own, .unused, [.f32, .f64], .any⟩
  | .fsqrt _ => some ⟨.F, .vec, .vec .own, .unused, .unused, [.f32, .f64], .any⟩
  | .frcp _ => some ⟨.F, .vec, .vec .own, .unused, .unused, [.f32, .f64], .any⟩
  | .frsq _ => some ⟨.F, .vec, .vec .own, .unused, .unused, [.f32, .f64], .any⟩
  | .fexp2 _ => some ⟨.F, .vec, .vec .own, .unused, .unused, [.f32, .f64], .any⟩
  | .flog2 _ => some ⟨.F, .vec, .vec .own, .unused, .unused, [.f32, .f64], .any⟩
  | .fsinpi _ => some ⟨.F, .vec, .vec .own, .unused, .unused, [.f32, .f64], .any⟩
  | .fcospi _ => some ⟨.F, .vec, .vec .own, .unused, .unused, [.f32, .f64], .any⟩
  | .cvt _ => some ⟨.F, .vec, .vec .type2, .unused, .unused, tysCvt, .any⟩
  | .qcvt _ => some ⟨.F, .vec, .vec .type2, .vec (.as .b32), .unused, [.q8, .q4], .any⟩
  | .shfl _ _ => some ⟨.I, .vec, .vec .own, .vec (.as .b32), .unused, [.b32, .b64], .any⟩
  | .vote _ _ => some ⟨.I, .scal, .pred, .unused, .unused, [.pred], .any⟩
  | .vred _ => some ⟨.I, .scal, .vec .own, .unused, .unused, tysRed, .any⟩
  | .vscan _ => some ⟨.I, .vec, .vec .own, .unused, .unused, tysRed, .any⟩
  | .vfirst _ => some ⟨.I, .scal, .vec .own, .unused, .unused, [.b32, .b64], .any⟩
  | .lds _ => some ⟨.M, .vec, .base (.as .n32), .disp, .unused, tysData, .any⟩
  | .sts _ => some ⟨.M, .none, .base (.as .n32), .disp, .vec .own, tysData, .any⟩
  | .ldsc _ => some ⟨.M, .vec, .base (.as .n32), .disp, .unused, tysData, .any⟩
  | .stsc _ => some ⟨.M, .none, .base (.as .n32), .disp, .vec .own, tysData, .any⟩
  | .ldgRaw _ => some ⟨.M, .vec, .base (.as .n64), .disp, .unused, tysData, .any⟩
  | .ldgElem _ => some ⟨.M, .vec, .base (.as .n64), .disp, .unused, [.f32], .any⟩
  | .stgRaw _ => some ⟨.M, .none, .base (.as .n64), .disp, .vec .own, tysData, .any⟩
  | .stgElem _ => some ⟨.M, .none, .base (.as .n64), .disp, .vec .own, [.f32], .any⟩
  | .atoms _ => some ⟨.M, .vec, .base (.as .n32), .disp, .atom, tysAtom, .any⟩
  | .atomg _ => some ⟨.M, .vec, .base (.as .n64), .disp, .atom, tysAtom, .any⟩
  | .red _ => some ⟨.M, .none, .base (.as .n64), .disp, .atom, tysAtom, .any⟩
  | .fence _ => some ⟨.M, .none, .unused, .unused, .unused, [.none], .zero⟩
  | .waitc _ => some ⟨.M, .none, .waitThr, .unused, .unused, [.none], .zero⟩
  | .pref _ => some ⟨.M, .none, .base (.as .n64), .disp, .unused, [.none], .any⟩
  | .cinv _ => some ⟨.M, .none, .cinvBase, .cinvDisp, .unused, [.none], .zero⟩
  | .gang _ => some ⟨.X, .none, .scal (.as .b64), .unused, .unused, [.b64], .zero⟩
  | .mma _ => some ⟨.X, .tile, .scal (.as .n64), .scal (.as .n64), .scal (.as .b64), [.f64, .f32, .f16, .bf16, .e4m3, .e5m2, .i8, .q8, .q4], .zero⟩
  | .mzero _ => some ⟨.X, .tile, .unused, .unused, .unused, [.none], .zero⟩
  | .mld _ => some ⟨.X, .tile, .scal (.as .n64), .scal (.as .n64), .unused, [.f32, .i32, .b32, .f64, .b64], .zero⟩
  | .mst _ => some ⟨.X, .tile, .scal (.as .n64), .scal (.as .n64), .unused, [.f32, .bf16, .f16, .f64, .i32, .b32, .b64], .zero⟩
  | .mmov _ => some ⟨.X, .mmov, .mmov, .scal (.as .b64), .unused, [.b32, .b64], .any⟩
  | .mfence _ => some ⟨.X, .none, .unused, .unused, .unused, [.none], .zero⟩
  | .mwait _ => some ⟨.X, .none, .unused, .unused, .unused, [.none], .zero⟩
  | .cpy _ => some ⟨.X, .none, .scal (.as .n64), .scal (.as .n64), .scal (.as .n64), [.none], .any⟩
  | .tcpy _ => some ⟨.X, .none, .scal (.as .n64), .scal (.as .n64), .sreg4, [.none], .any⟩
  | .coll _ => some ⟨.X, .none, .scal (.as .n64), .unused, .unused, [.none], .any⟩
  | .spawn _ => some ⟨.X, .none, .scal (.as .n64), .scal (.as .n64), .scal (.as .n64), [.none], .any⟩
  | .jdec _ => some ⟨.X, .none, .scal (.as .n64), .unused, .unused, [.none], .any⟩
  | .bar _ => some ⟨.X, .none, .unused, .unused, .unused, [.none], .zero⟩
  | .bara _ => some ⟨.X, .none, .scal (.as .n32), .unused, .unused, [.none], .zero⟩
  | .barw _ => some ⟨.X, .none, .unused, .unused, .unused, [.none], .zero⟩
  | .barn _ => some ⟨.X, .none, .scal (.as .n32), .unused, .unused, [.none], .zero⟩
  | .cbar _ => some ⟨.X, .none, .unused, .unused, .unused, [.none], .zero⟩
  | .dbar _ => some ⟨.X, .none, .scal (.as .n32), .unused, .unused, [.none], .zero⟩
  | .srd _ => some ⟨.C, .srd, .unused, .unused, .unused, [.none], .any⟩
  | .swr _ => some ⟨.C, .none, .scal (.as .b64), .unused, .unused, [.none], .any⟩
  | .trap _ => some ⟨.C, .none, .unused, .unused, .unused, [.none], .any⟩
  | .svc _ => some ⟨.C, .vec, .vec (.as .b32), .scal (.as .n64), .unused, [.b32], .any⟩
  | .enrd _ _ => some ⟨.C, .scalPair, .unused, .unused, .unused, [.none], .any⟩
  | .caprd _ => some ⟨.C, .scal, .unused, .unused, .unused, [.none], .any⟩
  | _ => none

/-- The opcode, major and minor, of R125. -/
def Instr.opcode : Instr → Option Nat
  | .sadd _ => some 0x010
  | .ssub _ => some 0x011
  | .smin _ => some 0x012
  | .smax _ => some 0x013
  | .smul _ => some 0x020
  | .smulh _ => some 0x021
  | .smad _ => some 0x022
  | .sand _ => some 0x030
  | .sor _ => some 0x031
  | .sxor _ => some 0x032
  | .sandn _ => some 0x033
  | .sshl _ => some 0x040
  | .sshr _ => some 0x041
  | .ssra _ => some 0x042
  | .spopc _ => some 0x050
  | .sclz _ => some 0x051
  | .sbfe _ => some 0x052
  | .sbfi _ => some 0x053
  | .scmp _ => some 0x060
  | .ssel _ => some 0x061
  | .smov _ => some 0x070
  | .slea _ => some 0x071
  | .smovi _ => some 0x080
  | .bra _ => some 0x100
  | .brx _ => some 0x110
  | .call _ => some 0x120
  | .callx _ => some 0x130
  | .ret _ => some 0x140
  | .bru false _ => some 0x150
  | .bru true _ => some 0x151
  | .dbr _ => some 0x160
  | .rcv _ => some 0x170
  | .loop _ => some 0x180
  | .exit _ => some 0x190
  | .yield _ => some 0x1A0
  | .nop _ => some 0x1B0
  | .vadd _ => some 0x200
  | .vsub _ => some 0x210
  | .vmul _ => some 0x220
  | .vmulh _ => some 0x230
  | .vmad _ => some 0x240
  | .vmadw _ => some 0x250
  | .vdot4 _ => some 0x260
  | .vabs _ => some 0x270
  | .vneg _ => some 0x280
  | .vmin _ => some 0x290
  | .vmax _ => some 0x2A0
  | .vand _ => some 0x2B0
  | .vor _ => some 0x2C0
  | .vxor _ => some 0x2D0
  | .vnot _ => some 0x2E0
  | .vshl _ => some 0x2F0
  | .vshr _ => some 0x300
  | .vsra _ => some 0x310
  | .vrot _ => some 0x320
  | .vpopc _ => some 0x330
  | .vclz _ => some 0x340
  | .vbrev _ => some 0x350
  | .vbfe _ => some 0x360
  | .vbfi _ => some 0x370
  | .vsel _ => some 0x380
  | .vmov _ => some 0x390
  | .vmovs _ => some 0x3A0
  | .vcmp _ => some 0x3B0
  | .pand _ => some 0x400
  | .por _ => some 0x410
  | .pxor _ => some 0x420
  | .pnot _ => some 0x430
  | .pmov _ => some 0x440
  | .pcnt _ => some 0x450
  | .pffs _ => some 0x460
  | .fadd _ => some 0x600
  | .fsub _ => some 0x610
  | .fmul _ => some 0x620
  | .ffma _ => some 0x630
  | .fmin _ => some 0x640
  | .fmax _ => some 0x650
  | .fminNan _ => some 0x641
  | .fmaxNan _ => some 0x651
  | .fcmp _ => some 0x660
  | .fclass _ => some 0x670
  | .fscale _ => some 0x680
  | .frnd _ => some 0x690
  | .fdiv _ => some 0x700
  | .fsqrt _ => some 0x710
  | .frcp _ => some 0x720
  | .frsq _ => some 0x730
  | .fexp2 _ => some 0x740
  | .flog2 _ => some 0x750
  | .fsinpi _ => some 0x760
  | .fcospi _ => some 0x770
  | .cvt _ => some 0x800
  | .qcvt _ => some 0x810
  | .shfl .idx _ => some 0xA00
  | .shfl .up _ => some 0xA01
  | .shfl .down _ => some 0xA02
  | .shfl .xor _ => some 0xA03
  | .vote .any _ => some 0xA10
  | .vote .all _ => some 0xA11
  | .vote .ballot _ => some 0xA12
  | .vote .eq _ => some 0xA13
  | .vred _ => some 0xA20
  | .vscan _ => some 0xA30
  | .vfirst _ => some 0xA40
  | .lds _ => some 0xB00
  | .sts _ => some 0xB10
  | .ldsc _ => some 0xB20
  | .stsc _ => some 0xB30
  | .ldgRaw _ => some 0xB40
  | .ldgElem _ => some 0xB41
  | .stgRaw _ => some 0xB50
  | .stgElem _ => some 0xB51
  | .atoms _ => some 0xB60
  | .atomg _ => some 0xB70
  | .red _ => some 0xB80
  | .fence _ => some 0xB90
  | .waitc _ => some 0xBA0
  | .pref _ => some 0xBB0
  | .cinv _ => some 0xBC0
  | .gang _ => some 0xD00
  | .mma _ => some 0xD10
  | .mzero _ => some 0xD20
  | .mld _ => some 0xD30
  | .mst _ => some 0xD40
  | .mmov _ => some 0xD50
  | .mfence _ => some 0xD60
  | .mwait _ => some 0xD70
  | .cpy _ => some 0xE00
  | .tcpy _ => some 0xE10
  | .coll _ => some 0xE20
  | .spawn _ => some 0xE30
  | .jdec _ => some 0xE40
  | .bar _ => some 0xE80
  | .bara _ => some 0xE90
  | .barw _ => some 0xEA0
  | .barn _ => some 0xEB0
  | .cbar _ => some 0xEC0
  | .dbar _ => some 0xED0
  | .srd _ => some 0xF00
  | .swr _ => some 0xF10
  | .trap _ => some 0xF20
  | .svc _ => some 0xF30
  | .enrd .ctx _ => some 0xF40
  | .enrd .kern _ => some 0xF41
  | .enrd .team _ => some 0xF42
  | .caprd _ => some 0xF50
  | _ => none

/-- BRA, CALL, BRU, DBR and LOOP hold a slot offset in IMM (R123). -/
def Instr.isBranch : Instr → Bool
  | .bra _ | .call _ | .bru _ _ | .dbr _ | .loop _ => true
  | _ => false

def OpTy.of (o : Fields) : OpTy → Ty
  | .own => o.ty
  | .type2 => o.md.type2
  | .half => if o.ty.isSigned then .i32 else .n32
  | .as t => t

/-- The type at which a class reads its immediate or constant. -/
def OpCls.ty (o : Fields) : OpCls → Ty
  | .vec t | .scal t | .base t => t.of o
  | .disp | .cinvDisp => .i64
  | .cinvBase | .waitThr => .n64
  | .immOnly => .b64
  | .atom => o.ty
  | .predOrScal | .vreg | .mmov => .b32
  | .unused | .sreg | .sreg4 | .pred => .none

/-- A constant code that the type can hold (R119); `lane` admits %lane. -/
def constOk (t : Ty) (k : Fin 7) (lane : Bool) : Bool :=
  match k.val with
  | 0 | 1 | 2 | 3 => true
  | 4 => t.isFloat
  | 5 => !t.isFloat
  | _ => !t.isFloat && lane

/-- The bits of an immediate above a narrow type are zero (R123). -/
def immOk (t : Ty) (o : Fields) : Bool :=
  match o.wide with
  | none => if t.width < 32 then o.low.toNat < 2 ^ t.width else true
  | some x => if t.width < 64 then x.toNat < 2 ^ t.width else true

/-- MOD bits that the instruction's description uses (R124). -/
def Instr.modMask : Instr → W32
  | .sadd _ | .ssub _ | .smul _ | .smad _ => 0x10000000
  | .scmp _ | .slea _ | .vcmp _ | .fcmp _ => 0x7
  | .vadd _ | .vsub _ | .vmul _ | .vmad _ | .vabs _ | .vneg _ => 0x10000000
  | .vdot4 _ => 0x107E0001
  | .fadd _ | .fsub _ | .fmul _ | .ffma _ => 0xE0000001
  | .fmin _ | .fmax _ | .fminNan _ | .fmaxNan _ => 0x1
  | .fscale _ | .frnd _ | .fdiv _ | .fsqrt _ => 0xE0000000
  | .cvt _ => 0xF07E0000
  | .qcvt _ => 0xE07E0000
  | .shfl _ _ => 0x7
  | .vred _ => 0xE0000007
  | .vscan _ => 0xE000000F
  | .lds _ | .sts _ | .ldsc _ | .stsc _ | .ldgRaw _ | .ldgElem _ | .stgRaw _ | .stgElem _ => 0x0F800003
  | .atoms _ => 0x0F80001F
  | .atomg _ | .red _ => 0x0F80000F
  | .fence _ => 0x0F800000
  | .waitc _ => 0x3
  | .pref _ | .cinv _ | .mmov _ => 0x1
  | .mma _ => 0x007E0003
  | .mzero _ => 0x3F
  | .mld _ => 0x7
  | .mst _ => 0xE07E0007
  | .mwait _ => 0x7
  | .cpy _ => 0x3FF
  | .tcpy _ => 0x1FF
  | .bara _ | .barw _ | .barn _ => 0xF
  | .srd _ | .swr _ => 0xFF
  | .trap _ | .svc _ => 0xFFFF
  | .enrd _ _ | .caprd _ => 0x7
  | _ => 0

/-- Types that an atomic's op accepts (R271). -/
def atomTys : Nat → List Ty
  | 0 | 1 | 2 => [.i32, .i64, .n32, .n64]
  | 3 | 4 | 5 => [.i32, .i64, .n32, .n64, .b32, .b64]
  | 6 => [.i32, .i64, .n32, .n64, .b32, .b64, .f32, .f64]
  | 7 => [.b32, .b64]
  | 8 | 9 => [.n32]
  | 10 | 11 | 12 => [.f32, .f64]
  | _ => tysAtom

def atomOpOf (o : Fields) : Nat := o.md.spec.toNat % 16

/-- Types that a reduction's op accepts (R196). -/
def redTys : Nat → List Ty
  | 0 | 1 | 2 => [.i32, .i64, .n32, .n64, .f16, .bf16, .f32, .f64]
  | 3 | 4 | 5 => [.i32, .i64, .n32, .n64, .b32, .b64]
  | _ => [.f16, .bf16, .f32, .f64]

/-- The combinations of element types that MMA implements (R293). -/
def mmaCombo (ta tb : Ty) : Bool :=
  match ta, tb with
  | .f64, .f64 | .f32, .f32 | .bf16, .bf16 | .f16, .f16 | .q8, .bf16 | .q4, .bf16
  | .e4m3, .e4m3 | .e4m3, .e5m2 | .e5m2, .e4m3 | .e5m2, .e5m2
  | .i8, .i8 | .q8, .i8 | .q4, .i8 => true
  | _, _ => false

/-- MST's pairs of tile view and memory type (R300). -/
def mstPair (tt tm : Ty) : Bool :=
  match tt, tm with
  | .f32, .f32 | .f32, .bf16 | .f32, .f16 | .f64, .f64 | .f64, .f32 | .i32, .i32 | .b32, .b32 | .b64, .b64 => true
  | _, _ => false

/-- Elements per lane of a load or store (R258); code 3 is reserved and counts as one here. -/
def vecCount (o : Fields) : Nat :=
  match o.md.spec.toNat % 4 with
  | 1 => 2
  | 2 => 4
  | _ => 1

def Instr.isVecMem : Instr → Bool
  | .lds _ | .sts _ | .ldsc _ | .stsc _ | .ldgRaw _ | .ldgElem _ | .stgRaw _ | .stgElem _ => true
  | _ => false

/-- The packed form of R180 is selected. -/
def Instr.isX2 : Instr → Bool
  | .fadd o | .fsub o | .fmul o | .ffma o | .fmin o | .fmax o | .fminNan o | .fmaxNan o => o.md.spec.getLsbD 0
  | _ => false

/-- Step 3 of R127 (R112, R123). -/
def Instr.checkWide (i : Instr) (o : Fields) (r : Row) : Option Cause :=
  let smovi := match i with | .smovi _ => true | _ => false
  if o.wide.isSome && (i.isBranch || !(smovi || o.hasImm)) then some .extension
  else if smovi && (o.wide.isNone || o.a != .imm) then some .extension
  else if [(r.a, o.a), (r.b, o.b), (r.c, o.c)].any
      (fun (c, s) => s == .imm && c.ty o != .none && !immOk (c.ty o) o) then some .reservedField
  else none

/-- Step 5 of R127: where PRED must be 0b0000, any other value is reserved-field, 0b1000 too (R260, R326). -/
def checkPred (o : Fields) (r : Row) : Option Cause :=
  if r.pred == .zero && o.pred != 0 then some .reservedField
  else if o.pred == 8 then some .illegalOperand
  else none

/-- Step 6 of R127 (R122, R271, R291, R300). -/
def Instr.checkType (i : Instr) (o : Fields) (r : Row) : Option Cause :=
  let t2 := o.md.type2
  let bad : Option Cause := some .illegalType
  match i with
  | .atoms _ | .atomg _ | .red _ => if (atomTys (atomOpOf o)).contains o.ty then none else bad
  | .cvt _ => if r.tys.contains o.ty && tysCvt.contains t2 then none else bad
  | .qcvt _ => if r.tys.contains o.ty && [Ty.f16, .bf16, .f32, .f64].contains t2 then none else bad
  | .vdot4 _ => if r.tys.contains o.ty && (t2 == .i8 || t2 == .n8) then none else bad
  | .mma _ =>
    if !(r.tys.contains o.ty && [Ty.f64, .f32, .f16, .bf16, .e4m3, .e5m2, .i8].contains t2) then bad
    else if mmaCombo o.ty t2 then none else some .unimplementedCombination
  | .mst _ => if mstPair t2 o.ty then none else bad
  | _ => if r.tys.contains o.ty then none else bad

/-- A source lies in its operand's class (R118, R119, R257, R271). -/
def srcOk (i : Instr) (o : Fields) (c : OpCls) (s : Src) : Bool :=
  let even (n : BitVec 8) (t : Ty) : Bool := !(t.isWide && n.getLsbD 0)
  match c, s with
  | .unused, s => s == .v 0
  | .vec t, .v n =>
    even n (t.of o) && !(i.isX2 && o.ty == .f32 && n.getLsbD 0)
  | .vec _, .s _ => true
  | .vec _, .latch _ => true
  | .vec _, .imm => !i.isX2
  | .vec t, .const k => constOk (t.of o) k true
  | .vreg, .v n => even n o.ty
  | .scal _, .s _ => true
  | .scal _, .imm => true
  | .scal t, .const k => constOk (t.of o) k false
  | .sreg, .s _ => true
  | .sreg4, .s n => n.toNat % 4 == 0
  | .pred, .v n => n.toNat < 8
  | .predOrScal, .v n => n.toNat < 8
  | .predOrScal, .s _ => true
  | .predOrScal, .imm => true
  | .immOnly, .imm => true
  | .base t, .v n => even n (t.of o)
  | .base _, .s _ => true
  | .base _, .latch _ => true
  | .base t, .const k => constOk (t.of o) k true
  | .disp, .imm => true
  | .disp, .const k => k.val < 4
  | .cinvBase, .v n => if o.md.spec.getLsbD 0 then n == 0 else !n.getLsbD 0
  | .cinvBase, .s _ => !o.md.spec.getLsbD 0
  | .cinvBase, .latch _ => !o.md.spec.getLsbD 0
  | .cinvBase, .const k => !o.md.spec.getLsbD 0 && constOk .n64 k true
  | .cinvDisp, .v n => o.md.spec.getLsbD 0 && n == 0
  | .cinvDisp, .imm => !o.md.spec.getLsbD 0
  | .cinvDisp, .const k => !o.md.spec.getLsbD 0 && k.val < 4
  | .atom, .v n =>
    if atomOpOf o == 7 then (if o.ty == .b32 then !n.getLsbD 0 else n.toNat % 4 == 0) else even n o.ty
  | .atom, .s _ => !(atomOpOf o == 7 && o.ty == .b64)
  | .atom, .latch _ => atomOpOf o != 7
  | .atom, .imm => atomOpOf o != 7
  | .atom, .const k => atomOpOf o != 7 && constOk o.ty k true
  | .waitThr, .s _ => true
  | .waitThr, .imm => true
  | .waitThr, .const k => k.val < 3
  | .mmov, .v n =>
    if o.md.spec.getLsbD 0 then n.toNat ≤ 0xFC && even n o.ty else n.toNat < 32
  | _, _ => false

/-- A class whose vector register may carry LAST (R94, R121). -/
def OpCls.frees (o : Fields) : OpCls → Bool
  | .vec _ | .vreg | .base _ | .atom => true
  | .cinvBase => !o.md.spec.getLsbD 0
  | .mmov => o.md.spec.getLsbD 0
  | _ => false

/-- HOLD and LAST on a source are legal (R100, R94, R121, R144, R283, R326). -/
def markOk (o : Fields) (r : Row) (c : OpCls) (s : Src) (hold last : Bool) : Bool :=
  let isV := match s with | .v _ => true | _ => false
  let held := match s with | .v _ | .s _ | .latch _ => true | _ => false
  let control := r.cls == .X || c == .sreg
  let mayHold := !control && held && (match c with
    | .unused | .pred | .immOnly | .mmov | .disp | .cinvDisp => false
    | .predOrScal => !isV
    | .cinvBase => !o.md.spec.getLsbD 0
    | _ => true)
  (!hold || mayHold) && (!last || (isV && c.frees o))

/-- The destination lies in its class (R120, R258, R301, R153, R163, R144). -/
def Instr.dstOk (i : Instr) (o : Fields) (r : Row) : Bool :=
  let d := o.dst.toNat
  match r.dst with
  | .none => d == 0
  | .vec =>
    let w := o.ty.isWide || (i.isX2 && o.ty == .f32)
    let n := if w then 2 else 1
    let k := if i.isVecMem then vecCount o else 1
    match i with
    | .atoms _ => if o.md.spec.getLsbD 4 then d == 0 else !(w && d % 2 == 1)
    | _ => d + k * n ≤ 256 && !(w && d % 2 == 1)
  | .vecAs _ => true
  | .scal => d < 64
  | .scalPair => d < 63 && d % 2 == 0
  | .pred => d < 8
  | .tile =>
    match i with
    | .mma _ => d < 32 && d % (if o.ty == .f64 then 4 else 2) == 0
    | _ => d < 32
  | .index => d < 255
  | .srd => o.md.spec.toNat % 256 == 0 || d < 64
  | .mmov => if o.md.spec.getLsbD 0 then d < 32 else d ≤ 0xFC && !(o.ty.isWide && d % 2 == 1)

/-- Store data of several elements is a run of vector registers without HOLD (R258). -/
def Instr.runOk (i : Instr) (o : Fields) (r : Row) : Bool :=
  if i.isVecMem && vecCount o > 1 && r.c != .unused then
    match o.c with
    | .v n => !o.hold.getLsbD 0 && n.toNat + vecCount o * (if o.ty.isWide then 2 else 1) ≤ 256
    | _ => false
  else true

/-- Step 7 of R127 (R118 to R121). -/
def Instr.checkOperands (i : Instr) (o : Fields) (r : Row) : Option Cause :=
  if i.dstOk o r && i.runOk o r &&
     srcOk i o r.a o.a && srcOk i o r.b o.b && srcOk i o r.c o.c &&
     markOk o r r.a o.a (o.hold.getLsbD 2) (o.last.getLsbD 2) &&
     markOk o r r.b o.b (o.hold.getLsbD 1) (o.last.getLsbD 1) &&
     markOk o r r.c o.c (o.hold.getLsbD 0) (o.last.getLsbD 0)
  then none else some .illegalOperand

/-- Orders a memory instruction admits (R259). -/
def Instr.orderOk (i : Instr) (order : Nat) : Bool :=
  match i with
  | .lds _ | .ldsc _ | .ldgRaw _ | .ldgElem _ => order == 0 || order == 1
  | .sts _ | .stsc _ | .stgRaw _ | .stgElem _ | .red _ => order == 0 || order == 2
  | .fence _ => order != 0
  | _ => true

/-- The round field is used by this form (R190, R196, R300). -/
def Instr.usesRound (i : Instr) (o : Fields) : Bool :=
  match i with
  | .cvt _ => !(o.ty.isInt && o.md.type2.isInt)
  | .vred _ | .vscan _ => o.md.spec.toNat % 8 == 0 && o.ty.isFloat
  | .mst _ => o.ty != o.md.type2
  | _ => true

/-- sr is legal here (R47, R190, R192). -/
def Instr.srOk (i : Instr) (o : Fields) : Bool :=
  match i with
  | .cvt _ => [Ty.f16, .bf16, .e4m3, .e5m2, .i8, .i16, .n8, .n16].contains o.ty
  | .qcvt _ => true
  | _ => false

/-- Special-register codes (R104): 0x00 to 0x0F, of which SWR may name %dead, %fflags and %srseed. -/
def srdOk (code : Nat) : Bool := code < 16
def swrOk (code : Nat) : Bool := code == 0x09 || code == 0x0B || code == 0x0C

/-- The specific field of MOD holds no reserved code of the instruction's description. -/
def Instr.specOk (i : Instr) (o : Fields) : Bool :=
  let x := o.md.spec.toNat
  match i with
  | .scmp _ | .vcmp _ => x % 8 < 6
  | .fadd _ | .fsub _ | .fmul _ | .ffma _ | .fmin _ | .fmax _ | .fminNan _ | .fmaxNan _ =>
    !(x % 2 == 1 && o.ty == .f64)
  | .cvt _ => !o.md.sat || o.ty.isInt || o.ty == .e4m3 || o.ty == .e5m2
  | .shfl _ _ => x % 8 < 5
  | .vred _ | .vscan _ => (redTys (x % 8)).contains o.ty
  | .lds _ | .sts _ | .ldsc _ | .stsc _ | .ldgRaw _ | .ldgElem _ | .stgRaw _ | .stgElem _ => x % 4 != 3
  | .atoms _ | .atomg _ => x % 16 < 13
  | .red _ => x % 16 < 13 && x % 16 != 6 && x % 16 != 7
  | .mma _ => !(x % 2 == 1 && (o.ty == .q8 || o.ty == .q4))
  | .mzero _ => 1 ≤ x % 64 && x % 64 ≤ 32
  | .mld _ | .mst _ => x % 4 != 3
  | .srd _ => srdOk (x % 256)
  | .swr _ => swrOk (x % 256)
  | .enrd f _ =>
    match f with
    | .ctx => x % 8 < 5
    | .kern => x % 8 < 6 && x % 8 != 4
    | .team => x % 8 == 0
  | .caprd _ => x % 8 < 6
  | _ => true

/-- A scope on a clear copy flag (R308): reserved-field. -/
def Instr.clearFlagScope (i : Instr) (o : Fields) : Bool :=
  let x := o.md.spec.toNat
  match i with
  | .cpy _ | .tcpy _ => (x % 2 == 0 && bitsN x 3 1 != 0) || (bitsN x 4 4 == 0 && bitsN x 7 5 != 0)
  | _ => false

/-- A reserved scope code on a set copy flag (R308): illegal-modifier. -/
def Instr.setFlagScope (i : Instr) (o : Fields) : Bool :=
  let x := o.md.spec.toNat
  match i with
  | .cpy _ | .tcpy _ => (x % 2 == 1 && bitsN x 3 1 > 5) || (bitsN x 4 4 == 1 && bitsN x 7 5 > 5)
  | _ => false

/-- Step 8 of R127 (R124, R46, R47, R260). A set bit of an unused field is looked for before a reserved code. -/
def Instr.checkMod (i : Instr) (o : Fields) : Option Cause :=
  if i.isBranch then none else
  let m := o.md
  let low : W32 := if o.wide.isNone && o.hasImm then 0 else o.low
  if low &&& ~~~ i.modMask != 0 then some .reservedField
  else if m.round != 0 && !i.usesRound o then some .reservedField
  else if i.clearFlagScope o then some .reservedField
  else if m.round.toNat > 4 || (m.round == 4 && !i.srOk o) then some .illegalModifier
  else if i.modMask &&& 0x0F800000 == 0x0F800000 &&
      (m.scope.toNat > 5 || !i.orderOk m.order.toNat || (m.order == 0 && m.scope != 0)) then some .illegalModifier
  else if i.setFlagScope o then some .illegalModifier
  else if !i.specOk o then some .illegalModifier
  else none

def firstCause : List (Option Cause) → Option Cause
  | [] => none
  | some c :: _ => some c
  | none :: r => firstCause r

/-- Steps 5 to 8 of R127, the first failure. -/
def Instr.checkFields (i : Instr) (o : Fields) (r : Row) : Option Cause :=
  firstCause [checkPred o r, i.checkType o r, i.checkOperands o r, i.checkMod o]

/-- The first failure of steps 3 and 5 to 8 of R127; none for a well-formed instruction. -/
def Instr.check (i : Instr) : Option Cause :=
  match i.fields, i.row with
  | some o, some r => firstCause [i.checkWide o r, i.checkFields o r]
  | _, _ => none

/-- A well-formed instruction passes every check of R127 that its words alone decide. -/
abbrev Instr.WellFormed (i : Instr) : Prop := i.check = none

/-- The registers, predicates and tiles an instruction writes (R114): kind 0 vector, 1 scalar, 2 predicate, 3 tile. DESIGN CHOICE:
a destination p0, which holds nothing, is none of them, so two of them do not conflict (log 18). -/
def Instr.dests (i : Instr) : List (Nat × Nat) :=
  match i.fields, i.row with
  | some o, some r =>
    let d := o.dst.toNat
    let run (k n : Nat) : List (Nat × Nat) := (List.range n).map fun j => (k, d + j)
    match r.dst with
    | .none | .index => []
    | .vec =>
      match i with
      | .atoms _ => if o.md.spec.getLsbD 4 then [] else run 0 (if o.ty.isWide then 2 else 1)
      | _ =>
        let w := if o.ty.isWide || (i.isX2 && o.ty == .f32) then 2 else 1
        run 0 (if i.isVecMem then w * vecCount o else w)
    | .vecAs _ => run 0 1
    | .scal => run 1 1
    | .scalPair => run 1 2
    | .pred => if d == 0 then [] else run 2 1
    | .tile => run 3 1
    | .srd => if o.md.spec.toNat % 256 == 0 then run 0 1 else run 1 1
    | .mmov => if o.md.spec.getLsbD 0 then run 3 1 else run 0 4
  | _, _ => []

/-- A legal pair (R114). -/
def pairLegal (i j : Instr) : Bool :=
  let second := match j with | .bra _ | .bru _ _ | .loop _ => true | _ => false
  let alone (k : Instr) : Bool := match k with | .fence _ | .waitc _ | .cinv _ => true | _ => false
  match i.row, j.row with
  | some a, some b =>
    let sifm (c : IClass) : Bool := c == .S || c == .I || c == .F || c == .M
    sifm a.cls && ((sifm b.cls && a.cls != b.cls) || second) && !alone i && !alone j &&
      (i.dests.all fun x => !j.dests.contains x)
  | _, _ => false

end Sys2Proof
end

