-- ==== Sys2Proof/Decode.lean ====
section
/-! DEFINITION. Decoding: slots and fetch lines (R106 to R127), queue commands (R357, R358), total on any bits; and
the encoder written from the same tables. -/

namespace Sys2Proof

def opTable0 : List (Nat × (Fields → Instr)) :=
  [(0x010, fun o => .sadd o), (0x011, fun o => .ssub o), (0x012, fun o => .smin o),
   (0x013, fun o => .smax o), (0x020, fun o => .smul o), (0x021, fun o => .smulh o),
   (0x022, fun o => .smad o), (0x030, fun o => .sand o), (0x031, fun o => .sor o),
   (0x032, fun o => .sxor o), (0x033, fun o => .sandn o), (0x040, fun o => .sshl o),
   (0x041, fun o => .sshr o), (0x042, fun o => .ssra o), (0x050, fun o => .spopc o),
   (0x051, fun o => .sclz o), (0x052, fun o => .sbfe o), (0x053, fun o => .sbfi o),
   (0x060, fun o => .scmp o), (0x061, fun o => .ssel o), (0x070, fun o => .smov o),
   (0x071, fun o => .slea o), (0x080, fun o => .smovi o), (0x100, fun o => .bra o)]

def opTable1 : List (Nat × (Fields → Instr)) :=
  [(0x110, fun o => .brx o), (0x120, fun o => .call o), (0x130, fun o => .callx o),
   (0x140, fun o => .ret o), (0x150, fun o => .bru false o), (0x151, fun o => .bru true o),
   (0x160, fun o => .dbr o), (0x170, fun o => .rcv o), (0x180, fun o => .loop o),
   (0x190, fun o => .exit o), (0x1A0, fun o => .yield o), (0x1B0, fun o => .nop o),
   (0x200, fun o => .vadd o), (0x210, fun o => .vsub o), (0x220, fun o => .vmul o),
   (0x230, fun o => .vmulh o), (0x240, fun o => .vmad o), (0x250, fun o => .vmadw o),
   (0x260, fun o => .vdot4 o), (0x270, fun o => .vabs o), (0x280, fun o => .vneg o),
   (0x290, fun o => .vmin o), (0x2A0, fun o => .vmax o), (0x2B0, fun o => .vand o)]

def opTable2 : List (Nat × (Fields → Instr)) :=
  [(0x2C0, fun o => .vor o), (0x2D0, fun o => .vxor o), (0x2E0, fun o => .vnot o),
   (0x2F0, fun o => .vshl o), (0x300, fun o => .vshr o), (0x310, fun o => .vsra o),
   (0x320, fun o => .vrot o), (0x330, fun o => .vpopc o), (0x340, fun o => .vclz o),
   (0x350, fun o => .vbrev o), (0x360, fun o => .vbfe o), (0x370, fun o => .vbfi o),
   (0x380, fun o => .vsel o), (0x390, fun o => .vmov o), (0x3A0, fun o => .vmovs o),
   (0x3B0, fun o => .vcmp o), (0x400, fun o => .pand o), (0x410, fun o => .por o),
   (0x420, fun o => .pxor o), (0x430, fun o => .pnot o), (0x440, fun o => .pmov o),
   (0x450, fun o => .pcnt o), (0x460, fun o => .pffs o), (0x600, fun o => .fadd o)]

def opTable3 : List (Nat × (Fields → Instr)) :=
  [(0x610, fun o => .fsub o), (0x620, fun o => .fmul o), (0x630, fun o => .ffma o),
   (0x640, fun o => .fmin o), (0x650, fun o => .fmax o), (0x641, fun o => .fminNan o),
   (0x651, fun o => .fmaxNan o), (0x660, fun o => .fcmp o), (0x670, fun o => .fclass o),
   (0x680, fun o => .fscale o), (0x690, fun o => .frnd o), (0x700, fun o => .fdiv o),
   (0x710, fun o => .fsqrt o), (0x720, fun o => .frcp o), (0x730, fun o => .frsq o),
   (0x740, fun o => .fexp2 o), (0x750, fun o => .flog2 o), (0x760, fun o => .fsinpi o),
   (0x770, fun o => .fcospi o), (0x800, fun o => .cvt o), (0x810, fun o => .qcvt o),
   (0xA00, fun o => .shfl .idx o), (0xA01, fun o => .shfl .up o), (0xA02, fun o => .shfl .down o)]

def opTable4 : List (Nat × (Fields → Instr)) :=
  [(0xA03, fun o => .shfl .xor o), (0xA10, fun o => .vote .any o), (0xA11, fun o => .vote .all o),
   (0xA12, fun o => .vote .ballot o), (0xA13, fun o => .vote .eq o), (0xA20, fun o => .vred o),
   (0xA30, fun o => .vscan o), (0xA40, fun o => .vfirst o), (0xB00, fun o => .lds o),
   (0xB10, fun o => .sts o), (0xB20, fun o => .ldsc o), (0xB30, fun o => .stsc o),
   (0xB40, fun o => .ldgRaw o), (0xB41, fun o => .ldgElem o), (0xB50, fun o => .stgRaw o),
   (0xB51, fun o => .stgElem o), (0xB60, fun o => .atoms o), (0xB70, fun o => .atomg o),
   (0xB80, fun o => .red o), (0xB90, fun o => .fence o), (0xBA0, fun o => .waitc o),
   (0xBB0, fun o => .pref o), (0xBC0, fun o => .cinv o), (0xD00, fun o => .gang o)]

def opTable5 : List (Nat × (Fields → Instr)) :=
  [(0xD10, fun o => .mma o), (0xD20, fun o => .mzero o), (0xD30, fun o => .mld o),
   (0xD40, fun o => .mst o), (0xD50, fun o => .mmov o), (0xD60, fun o => .mfence o),
   (0xD70, fun o => .mwait o), (0xE00, fun o => .cpy o), (0xE10, fun o => .tcpy o),
   (0xE20, fun o => .coll o), (0xE30, fun o => .spawn o), (0xE40, fun o => .jdec o),
   (0xE80, fun o => .bar o), (0xE90, fun o => .bara o), (0xEA0, fun o => .barw o),
   (0xEB0, fun o => .barn o), (0xEC0, fun o => .cbar o), (0xED0, fun o => .dbar o),
   (0xF00, fun o => .srd o), (0xF10, fun o => .swr o), (0xF20, fun o => .trap o),
   (0xF30, fun o => .svc o), (0xF40, fun o => .enrd .ctx o), (0xF41, fun o => .enrd .kern o)]

def opTable6 : List (Nat × (Fields → Instr)) :=
  [(0xF42, fun o => .enrd .team o), (0xF50, fun o => .caprd o)]

/-- The assigned opcodes of R125 and the instruction each names. -/
def opTable : List (Nat × (Fields → Instr)) :=
  opTable0 ++ opTable1 ++ opTable2 ++ opTable3 ++ opTable4 ++ opTable5 ++ opTable6
/-- The fields of a slot (R117). -/
def fieldsOf (raw : BitVec 96) (ext : Option W64) : Fields where
  sm := raw.getLsbD 83
  hold := raw.extractLsb' 80 3
  last := raw.extractLsb' 77 3
  pred := raw.extractLsb' 73 4
  dst := raw.extractLsb' 65 8
  a := Src.ofCode (raw.extractLsb' 56 9)
  b := Src.ofCode (raw.extractLsb' 47 9)
  c := Src.ofCode (raw.extractLsb' 38 9)
  ty := Ty.ofCode (raw.extractLsb' 32 6)
  low := raw.extractLsb' 0 32
  wide := ext

def lookupOp : List (Nat × (Fields → Instr)) → Nat → Option (Fields → Instr)
  | [], _ => none
  | (k, mk) :: r, n => if n = k then some mk else lookupOp r n

/-- Step 2 of R127: the instruction a slot names; an unlisted (major, minor) pair is UNASSIGNED_OPCODE (R126). -/
def slotInstr (raw : BitVec 96) (ext : Option W64) : Instr :=
  match lookupOp opTable (raw.extractLsb' 84 12).toNat with
  | some mk => mk (fieldsOf raw ext)
  | none => .unassignedOpcode raw

/-- What decoding one slot answers: an instruction, or the cause of an illegal-instruction fault. -/
inductive Decoded where
  | ok (i : Instr)
  | illegal (c : Cause)
deriving DecidableEq, Repr

/-- A slot with its extension slot's immediate, through steps 2, 3 and 5 to 8 of R127. -/
def decode (raw : BitVec 96) (ext : Option W64) : Decoded :=
  let i := slotInstr raw ext
  match i.check with
  | none => .ok i
  | some c => .illegal c

/-- The slot's bits from its fields and opcode (R117). -/
def slotOf (opcode : Nat) (o : Fields) : BitVec 96 :=
  BitVec.ofNat 12 opcode ++ BitVec.ofBool o.sm ++ o.hold ++ o.last ++ o.pred ++ o.dst ++
    o.a.code ++ o.b.code ++ o.c.code ++ o.ty.code ++ o.low

/-- The extension slot of a wide instruction (R112). -/
def extSlot (x : W64) : BitVec 96 := 0xFF0#12 ++ 0#20 ++ x

/-- The words of an instruction: its slot and, for a wide form, the immediate of its extension slot. Steps that are
no Turle instruction have no slot. -/
def encode (i : Instr) : Option (BitVec 96 × Option W64) :=
  match i with
  | .unassignedOpcode raw => some (raw, none)
  | _ =>
    match i.fields, i.opcode with
    | some o, some n => some (slotOf n o, o.wide)
    | _, _ => none

/-- The words of an instruction in one number: bits [95:0] its slot, bits [191:96] its extension slot. -/
def encodeNat (i : Instr) : Option Nat :=
  (encode i).map fun (raw, x) =>
    match x with
    | none => raw.toNat
    | some x => raw.toNat + (extSlot x).toNat * 2 ^ 96

/-- The instruction read from its bits, numbered from the first word's least significant bit: a slot, or with more
than 96 bits a slot and its extension slot. -/
def decodeTableWord (nbits w : Nat) : Option Instr :=
  let raw := BitVec.ofNat 96 w
  if nbits ≤ 96 then
    match decode raw none with
    | .ok i => some i
    | .illegal _ => none
  else
    let e := BitVec.ofNat 96 (w / 2 ^ 96)
    if e == extSlot (e.setWidth 64) then
      match decode raw (some (e.setWidth 64)) with
      | .ok i => some i
      | .illegal _ => none
    else none

/-! ## Fetch lines -/

/-- Slot `i` of a line read as a 512-bit number (R106). -/
def lineSlot (line i : Nat) : BitVec 96 := BitVec.ofNat 96 (line >>> (96 * i))

/-- The line word (R106). -/
def lineWord (line : Nat) : Nat := bitsN line 511 480

def lineTarget (line i : Nat) : Bool := (lineWord line).testBit (19 + i)
def linePair (line i : Nat) : Bool := i < 4 && (lineWord line).testBit (15 + i)
def lineWide (line i : Nat) : Bool := i < 4 && (lineWord line).testBit (11 + i)

/-- Slot `i` is the extension slot of the slot before it (R112). -/
def lineExt (line i : Nat) : Bool := i != 0 && lineWide line (i - 1)

/-- The even-parity bit of chunk `k`, the parity field taken as zero (R107). -/
def chunkParity (line k : Nat) : Bool :=
  let l := line % 2 ^ 504
  popNat 64 (bitsN l (64 * k + 63) (64 * k)) % 2 == 1

/-- The line word's parity field for a line (R107). -/
def parityField (line : Nat) : Nat :=
  ((List.range 8).map fun k => if chunkParity line k then 2 ^ k else 0).sum

def parityOk (line : Nat) : Bool := bitsN line 511 504 == parityField line

/-- The wide layout of a line (R112). -/
def wideOk (line : Nat) : Bool :=
  (List.range 4).all fun i =>
    !lineWide line i ||
      (!lineWide line (i + 1) && !lineTarget line (i + 1) &&
        (lineSlot line (i + 1)).extractLsb' 64 32 == 0xFF000000#32)

/-- The pair layout of a line (R113). -/
def pairOk (line : Nat) : Bool :=
  (List.range 4).all fun i =>
    !linePair line i ||
      (!linePair line (i + 1) && !lineWide line i && !lineWide line (i + 1) && !lineExt line i)

/-- The line checks in the order R108 lists them: parity, reserved bits, wide layout, pair layout. -/
def lineCheck (line : Nat) : Option Cause :=
  if !parityOk line then some .parity
  else if bitsN (lineWord line) 10 0 != 0 then some .lineReserved
  else if !wideOk line then some .wideLayout
  else if !pairOk line then some .pairLayout
  else none

/-- The immediate of the extension slot after slot `i`, where the line marks slot `i` wide. -/
def lineImm (line i : Nat) : Option W64 :=
  if lineWide line i then some ((lineSlot line (i + 1)).setWidth 64) else none

/-! ## Instruction addresses (R109, R110) -/

/-- The slot of an instruction address, by its bits [5:0]; none where they hold another value (R109). -/
def slotIndex (pc : Nat) : Option Nat :=
  match pc % 64 with
  | 0 => some 0
  | 12 => some 1
  | 24 => some 2
  | 36 => some 3
  | 48 => some 4
  | _ => none

/-- The linear slot index of an instruction address (R110). -/
def linearIndex (pc : Nat) : Nat := (pc / 64) * 5 + (pc % 64) / 12

/-- The address of a linear slot index (R110). -/
def slotAddr (t : Nat) : Nat := (t / 5) * 64 + 12 * (t % 5)

/-- The address `n` slots on (R109: slot 4 is followed by slot 0 of the next line). DESIGN CHOICE: past the top of the 57-bit
space it wraps to address 0 (log 18). -/
def nextSlot (pc n : Nat) : Nat := slotAddr (linearIndex pc + n) % 2 ^ 57

/-- The slot before. -/
def prevSlot (pc : Nat) : Nat := slotAddr ((linearIndex pc + (5 * 2 ^ 51 - 1)) % (5 * 2 ^ 51))

/-- The target of a slot-counted offset; none where it leaves the 57-bit space (R110). -/
def branchTarget (pc : Nat) (offset : W32) : Option Nat :=
  let t : Int := (linearIndex pc : Int) + offset.toInt
  if t < 0 then none
  else
    let a := slotAddr t.toNat
    if a < 2 ^ 57 then some a else none

/-! ## Queue commands (R357, R358) -/

/-- The fields of a 64-byte command read from the ring of queue `q` (R357). -/
def cmdOf (q : Nat) (bytes : List Byte) : Cmd :=
  let at_ (o n : Nat) : Nat := leNat ((bytes.drop o).take n)
  { q := q
    after := (at_ 1 1) % 2 == 1
    ctx := at_ 2 2
    done := at_ 8 8
    clean := (at_ 1 1) / 2 == 0 && at_ 4 4 == 0
    o10 := at_ 0x10 8
    o18 := at_ 0x18 8
    o20 := at_ 0x20 8
    rest := at_ 0x28 24 == 0 }

/-- The command that 64 bytes hold; none for an op that R358 does not list. -/
def decodeCommand (q : Nat) (bytes : List Byte) : Option Instr :=
  let c := cmdOf q bytes
  match (bytes.getD 0 0).toNat with
  | 0x01 => some (.launch c)
  | 0x02 => some (.reply c)
  | 0x03 => some (.wait c)
  | 0x04 => some (.signal c)
  | 0x10 => some (.invalidate c)
  | 0x11 => some (.migrate c)
  | 0x12 => some (.resolve c)
  | 0x13 => some (.abort c)
  | _ => none

/-- The 64 bytes of a command (R357). -/
def encodeCommand (i : Instr) : Option (List Byte) :=
  let body (op : Nat) (c : Cmd) : List Byte :=
    leBytes 1 op ++ leBytes 1 (if c.after then 1 else 0) ++ leBytes 2 c.ctx ++ leBytes 4 0 ++ leBytes 8 c.done ++
      leBytes 8 c.o10 ++ leBytes 8 c.o18 ++ leBytes 8 c.o20 ++ leBytes 24 0
  match i with
  | .launch c => some (body 0x01 c)
  | .reply c => some (body 0x02 c)
  | .wait c => some (body 0x03 c)
  | .signal c => some (body 0x04 c)
  | .invalidate c => some (body 0x10 c)
  | .migrate c => some (body 0x11 c)
  | .resolve c => some (body 0x12 c)
  | .abort c => some (body 0x13 c)
  | _ => none

end Sys2Proof
end

