-- ==== Sys2Proof/Config.lean ====
section
/-! DEFINITION. Configuration: what moves next, the free values the spec leaves open, and the constants of the signed
records. An opaque constant has no body: no proof can learn a value of it. -/

namespace Sys2Proof

/-- The clocks and timers that only count (R32): a tick of one advances its counters by one clock. -/
inductive ClockId where
  | head | stack (s : Nat) | awl (d : Nat) | ref (d : Nat) | link (k : Nat) | chan (ch : Nat)
deriving DecidableEq, Repr

/-- Where an error strikes (R84, R107, R279, R280, R401): a sector of memory or of L2, a scratchpad word, an L1 line, a register
that lanes of a group read, a fetched line on its way to a core. -/
inductive EccAt where
  | memory (pa : Nat) | sram (core word : Nat) | l1 (core vline : Nat) | reg (core slot : Nat) (lanes : Mask) | fetch (core : Nat)
deriving DecidableEq, Repr

/-- One move of one agent: what the machine does next (log 1). -/
inductive Move where
  | quarter (core q : Nat)              -- one clock of a quarter's issue (R372)
  | head (q : Nat)                      -- the Harness head takes the head command of queue `q` (R360)
  | op (i : Instr)                      -- one step of another agent, by its row of the table
  | tick (c : ClockId)                  -- one clock of a counter (R32)
  | hostWrite (pa : Nat) (bytes : List Byte)
  | winRead (fn off : Nat)              -- a read or write of a function's window (R453)
  | winWrite (fn off : Nat) (value : W64)
  | ecc (at_ : EccAt) (uncorrectable : Bool)
  | l1Evict (core vline : Nat)          -- replacement in an L1, a TLB or L2 (R210, R211)
  | tlbEvict (stack vnum : Nat)
  | l2Evict (line : Nat)
  | fetchAhead (core slot pcs half : Nat) -- a sector of a slot's line is fetched ahead of need (R108, R116)
  | raceByte (kid : Nat) (team : Option Nat) (va : Nat) (b : Byte) -- what a racing kernel may see or suffer (R244)
  | raceAbort (kid cause : Nat)
  | scrubCore (die : Nat)               -- a scrub has zero-written one more core (R387)
deriving DecidableEq, Repr, Inhabited

namespace Config

/-- The move of an empty agenda: free (log 1). -/
opaque freeMove : Nat → Move

/-- The free values of log 4: the `n`-th value drawn. -/
opaque freeNat : Nat → Nat

/-- The weight columns of classes 0, 1 and 3, which the signed record alone sets (R28, R377): free (log 7). -/
opaque weightRecord : Nat → Nat → Nat

/-- Result choice of the approximate functions within the bounds of R188, by opcode and source bits (log 6). -/
opaque sfuChoice : Nat → Nat → Nat

/-- What a reader under key `k` sees at byte `i` of sector `x` that was written under key `w` with the bytes `v`, where the two
keys differ: free (R207, R388; log 11). Key 0 is none: it reads the ciphertext, and what it wrote is taken as ciphertext. -/
opaque cipherByte (k w x v i : Nat) : Nat

/-- This device's fabric identity and module serial, which its configuration record holds (R414, R450; log 4). -/
opaque fabricId : Nat

opaque moduleSerial : Nat

/-- Records that the retirement log holds, less one, when it is full (R404 gives no figure): free (log 14). -/
opaque logRoom : Nat

/-- The class-2 column of the weight record as Sormicor issues it (R377). -/
def class2 : List Nat :=
  [2000, 1500, 6000, 400, 6500, 90, 350, 1400, 1200, 4000, 9000, 3000, 3500, 1500, 18000, 45000,
   1100000, 1800000, 2600000, 3100000, 1229000, 600000, 123000, 61000, 33000, 1707000, 2, 9000, 48000, 1000]

/-- MTR_WEIGHT[k][e] (R28, R377): 24 bits, entries 30 and 31 zero. -/
def weight (k e : Nat) : Nat :=
  if e ≥ 30 then 0
  else if k = 2 then class2.getD e 0
  else weightRecord k e % 2 ^ 24

end Config

end Sys2Proof
end

