-- ==== Sys2Proof/Machine/State.lean ====
section
/-! DEFINITION. The state of the machine: plain data, every piece the spec names (INVENTORY.md lists each with its rule
and reset value), and State.reset. A table holds only what differs from the reset value of its entries. -/

namespace Sys2Proof.Machine

/-! ## Groups -/

/-- What holds a PC slot after issue (R65): waits at issue (R105) are not held, they are asked again at each scan. -/
inductive Held where
  | no
  | rcv (n : Nat)                  -- waiting at an RCV n (R69)
  | pop (id : Nat)                 -- the load of a popped entry has not returned (R71)
  | bar                            -- the team barrier (R328)
  | barp (n : Nat)                 -- named barrier n, the group's arrival not yet counted (R324)
  | barw (n : Nat) (phase : Bool)  -- the phase of named barrier n (R329)
  | cbar                           -- the cluster barrier (R330)
  | dbar                           -- the domain barrier (R331)
  | cinch (seq : Nat)              -- arrived at the cinch with this sequence index (R289)
  | fence (order scope : Nat)      -- a fence whose earlier accesses have not all performed (R234, R274)
  | waitc (path n : Nat)           -- WAITC: the counter is above its threshold (R275)
  | mwait (n : Nat)                -- MWAIT: more than n closed batches are incomplete (R304)
  | reply                          -- an SVC or TRAP awaits its reply (R159)
  | fetch (id : Nat)               -- the fetched page is not present or locked (R115)
deriving DecidableEq, Repr

/-- One PC slot (R64). An empty slot has mask zero. -/
structure PcSlot where
  pc : Nat := 0
  mask : Mask := 0
  index : Nat := 0xFF              -- reconvergence index, 0xFF none
  held : Held := .no
  entered : Bool := false          -- reached by a transfer that checks the target bit (R111)
  line : Option Nat := none        -- the fetch line it last issued from (R108)
  ahead : List (Nat × Nat) := []   -- sectors of its line fetched ahead of need, with their bits (R116)
  seen : List Nat := []            -- numbers of the accesses in flight that precede its next one (R225, log 9)
deriving DecidableEq, Repr

/-- A valid latch entry (R90, R100). -/
structure LatchEntry where
  vals : List W64
  wide : Bool
  left : Nat                       -- instructions that can still read it
deriving DecidableEq, Repr

/-- The lanes recorded for an arrival that is not complete (R324). -/
structure Arrival where
  op : Nat                         -- opcode of the barrier instruction
  n : Nat                          -- named barrier, or 0
  val : Nat                        -- count or sequence value
  lanes : Mask
  prior : List Nat                 -- numbers of the accesses that it is a release for (R325)
  pcs : Nat := 0                   -- the slot that recorded lanes last, and its instruction's address (R353)
  pc : Nat := 0
deriving DecidableEq, Repr

/-- A service or trap record that awaits its reply (R159 to R162). -/
structure SvcWait where
  seq : Option Nat                 -- none until the record is written
  lanes : Mask                     -- lanes whose requests the record holds
  dst : Nat
  trap : Bool
  pc : Nat := 0                    -- the instruction's address
deriving DecidableEq, Repr

/-- An MMA's arrival at the cinch (R289). -/
structure CinchArr where
  seq : Nat
  ins : Instr
  gang : W64
  batch : Nat
  a : Nat
  b : Nat
  c : Nat
  upto : Nat                       -- the group's accesses numbered below precede it (R246)
  pc : Nat                         -- the MMA's address
deriving DecidableEq, Repr

/-- A group and the state of its slot (R64). -/
structure Group where
  team : Nat := 0
  idx : Nat := 0
  tag : Nat := 0                   -- generation tag (R102)
  slot0 : PcSlot := {}
  slot1 : PcSlot := {}
  depth : Nat := 0                 -- divergence stack pointer (R64)
  gone : Mask := 0                 -- lanes that have exited (R70, R324)
  parked : Tbl Held := []          -- by stack depth: the wait of a slot pushed while it waited (log 15)
  below : Tbl (List Nat) := []     -- by stack depth: the accesses that precede a pushed slot's next one (R225)
  pathc : List Nat := [0, 0, 0, 0] -- P0 to P3 (R77)
  v : Tbl VReg := []               -- the name map: an absent name is unmapped (R93)
  sreg : Tbl W64 := []             -- s0 to s63; absent reads zero
  preds : Tbl W32 := []            -- p1 to p7; absent reads zero
  latch : List (Option LatchEntry) := [none, none, none]
  srseed : W32 := 1
  fflags : BitVec 5 := 0
  dead : Mask := 0
  deadRead : Bool := false
  gang : W64 := 0
  mmaSeq : Nat := 0
  cinch : Tbl CinchArr := []       -- arrivals that wait at the cinch, by PC slot, or 2 + depth for a pushed slot
  gangLeft : List (W64 × Nat) := [] -- gang registers given up, with the sequence index reached (R290)
  batch : Nat := 0                 -- open batch number (R302)
  arrival : Option Arrival := none
  named : Tbl Bool := []           -- pending named barriers and the phase of the latest arrival (R329)
  svc : Option SvcWait := none
  yielded : Bool := false          -- to be passed over once (R151)
  lastPcs : Nat := 1               -- the slot that issued last (R67)
deriving DecidableEq, Repr

/-! ## Accesses in flight and the operand log (R73 to R79, R261) -/

inductive Space where
  | scratch | cluster | global | sfu
deriving DecidableEq, Repr

inductive AccOp where
  | load | elemLoad | store | elemStore | atom (op : Nat) (ret : Bool) | jdec | spawn | fetch | record
  | push                           -- a divergence-stack store (R71)
  | pop (pcs : Nat)                -- a divergence-stack load, filling a PC slot (R69, R71)
deriving DecidableEq, Repr

/-- A replayable fault of an access (R79, R216). -/
structure PageFault where
  va : Nat
  cause : Nat
  detail : Nat
  level : Nat
  kind : Nat
  lanes : Mask
  recorded : Bool := false
  stuck : Mask := 0                -- the lanes that met it: the others go on (R79)
deriving DecidableEq, Repr

/-- One access in flight: for global accesses, the operand-log entry (R78). -/
structure Access where
  core : Nat
  slot : Nat
  pcs : Nat
  tag : Nat
  team : Nat
  gidx : Nat := 0                  -- index of its group in the team
  kid : Nat := 0
  ctx : Nat
  pc : Nat := 0
  prior : List Nat := []           -- numbers of the accesses in flight that preceded it in program order (R225)
  space : Space
  op : AccOp
  path : Option Nat := none        -- the counter it raised (R77)
  order : Nat := 0                 -- 0 plain, 1 acq, 2 rel, 3 acqrel
  scope : Nat := 0
  ty : Ty := .none
  count : Nat := 1                 -- elements per lane
  dst : Option Nat := none         -- first vector name written
  lanes : Mask := 0                -- lanes that take part
  left : Mask := 0                 -- lanes not yet performed
  dying : Mask := 0                -- lanes that consumed poison (R280)
  ea : List Nat := []              -- per lane
  data : List (List Nat) := []     -- per lane: store data or atomic operands
  got : Tbl (List Nat) := []       -- per lane: values to be written
  raised : BitVec 5 := 0           -- flags to be ORed at the return
  fault : Option PageFault := none
  done : Bool := false             -- performed for every lane; counter not yet lowered or result not yet written
  hits : List Nat := []            -- sectors that its core's L1 held, fit to serve it, when it was issued (R210, log 15)
  paid : List Nat := []            -- sectors already charged, and sectors of scale records (R282)
  paidR : List Nat := []
  sent : Mask := 0                 -- lanes of `left` whose window request awaits its answer (R250, R270)
  req : Tbl Nat := []              -- by rank: the number of the request sent last
  served : Bool := false           -- performed here for another chip: no core's L1 takes part (R250, R430)
deriving DecidableEq, Repr

/-! ## Matrix, copy and collective work -/

/-- A member of a matrix operation: the group whose batch it belongs to (R302). -/
structure Member where
  slot : Nat
  tag : Nat
  idx : Nat                        -- group index in the team
  batch : Nat
  a : Nat := 0                     -- its A address
  upto : Nat := 0                  -- the group's accesses numbered below precede the operation (R246)
deriving DecidableEq, Repr

/-- A matrix operation of a core (R284). -/
structure MatOp where
  core : Nat
  team : Nat
  kid : Nat
  ctx : Nat
  pcs : Nat := 0
  pc : Nat := 0
  ins : Instr
  members : List Member            -- gang members in rank order; one for MZERO, MLD, MST, MMOV
  b : Nat := 0                     -- value of source B; the address of MLD and MST is in the member
  c : Nat := 0                     -- value of source C
  lanes : Mask := 0                -- MMOV's active lanes
  vals : List VReg := []           -- MMOV.vr's source values
  fetched : Bool := false          -- the fetch phase has ended
  pages : List (Nat × Nat × Nat) := [] -- its pages: unit, level, leaf
  adata : List (List Nat) := []    -- fetched operands: rows of A by member, or rows of MLD
  bdata : List (List Nat) := []    -- rows of B
  scales : List (List Nat) := []   -- scale records of A's elements, by row
  poisonA : List Nat := []         -- members, or tiles of MLD, that met poison
  poisonB : Bool := false
  fault : Option PageFault := none
  pins : List Nat := []            -- L2 lines pinned (R296)
  unpinned : List Nat := []        -- sectors, by virtual address, of lines read again at consumption
deriving DecidableEq, Repr

/-- A CPY or TCPY in flight (R308). -/
structure CopyOp where
  core : Nat
  team : Nat
  gidx : Nat
  kid : Nat
  ctx : Nat
  pcs : Nat
  prior : List Nat                 -- as for an access (R225)
  pc : Nat
  ins : Instr
  a : Nat
  b : Nat
  c : List Nat
  fault : Option PageFault := none
  fin : Bool := false              -- performed whole; P3 not yet lowered
deriving DecidableEq, Repr

/-- A collective accepted by an engine (R315 to R317). -/
structure CollOp where
  die : Nat
  core : Nat
  team : Nat
  gidx : Nat
  kid : Nat
  ctx : Nat
  op : Nat
  redop : Nat
  ty : Ty
  flags : Nat
  root : Nat
  count : Nat
  ranks : Nat
  send : Nat
  recv : Nat
  doneW : Nat
  ctag : Nat
  pcs : Nat := 0                   -- the slot that issued it, and its address (R353)
  pc : Nat := 0
  sent : Bool := false             -- its contribution has been read and sent
  vals : List Nat := []            -- that contribution
  inputs : Tbl (List Nat) := []    -- contributions received from other ranks, by rank
  bad : Bool := false              -- some rank's descriptor disagrees
  fault : Option PageFault := none
deriving DecidableEq, Repr

/-! ## Teams and kernels -/

structure Named where
  counting : Bool := false
  expected : Nat := 0
  arrivals : Nat := 0
  phase : Bool := false
deriving DecidableEq, Repr

/-- A continuation record (R318, R342). -/
structure Rec where
  idx : Nat                        -- %team
  code : Nat
  frame : Nat
  join : Nat
  spawned : Bool
deriving DecidableEq, Repr

/-- What an image holds of a team (R64, R382). -/
structure Image where
  groups : List (Nat × Group)      -- by group index
  log : List (Nat × Access)        -- operand-log entries with lanes unfinished, in log order
  mats : List (Nat × MatOp)
  copies : List (Nat × CopyOp)
  scratch : List (Nat × Byte)      -- scratchpad bytes not zero
  tiles : List (Nat × Byte)
  tpoison : List Nat               -- poisoned tiles, and scratchpad words
  spoison : List Nat
  addr : Nat                       -- where the image lies
  len : Nat
  counter : Nat                    -- the save counter that seals it (R383)
  body : Nat                       -- number of the first free value of its body's bytes (log 10)
deriving DecidableEq, Repr

structure Team where
  kid : Nat := 0
  ctx : Nat := 0
  idx : Nat := 0                   -- %team
  cluster : Option Nat := none
  rank : Nat := 0
  core : Nat := 0
  slots : List Nat := []           -- group slots by group index while resident
  live : List Nat := []            -- indices of groups not retired
  scratchAt : Nat := 0
  scratchLen : Nat := 0
  tileAt : Nat := 0
  tiles : Nat := 0
  frame : Nat := 0
  join : Nat := 0
  spawned : Bool := false
  barArr : Nat := 0                -- arrivals at the team barrier
  clusArr : Nat := 0               -- of these teams' groups, arrivals at the cluster barrier
  named : Tbl Named := []
  charge : Nat := 0                -- running charge (R164)
  posted : Nat := 0                -- part of it already added to the kernel total (R347)
  corr : Int := 0                  -- its correction, footprint and filler (R347, R368)
  foot : Int := 0
  fill : Int := 0
  prov : Nat := 0                  -- provisional charge (R368)
  image : Option Image := none     -- evicted
  retired : Bool := false          -- kept for its cluster's scratchpad (R264)
  evict : Bool := false            -- its eviction is ordered: its groups issue nothing more (R381)
  band : Nat := 1                  -- band of its queue at placement (R373)
  placedAt : Nat := 0              -- number of its last placement or restore, in order (R371)
deriving DecidableEq, Repr

inductive KState where
  | queued | dispatching | running | completing | aborting | done
deriving DecidableEq, Repr

/-- The launch record's fields (R335). -/
structure Launch where
  entry : Nat := 0
  regs : Nat := 0
  team : Nat := 0
  cluster : Nat := 0
  scratch : Nat := 0
  acc : Nat := 0
  class_ : Nat := 0
  flags : Nat := 0
  paramBytes : Nat := 0
  limit : Nat := 0
  params : Nat := 0
  gridTeams : Nat := 0
  clusterTeams : Nat := 0
  frameBase : Nat := 0
  frameStride : Nat := 0
  srSeed : Nat := 0
  done : Nat := 0
  join : Nat := 0
  report : Nat := 0
  notice : Nat := 0
  deadline : Nat := 0
deriving DecidableEq, Repr

/-- What an abort records (R350, R353). -/
structure AbortInfo where
  status : Nat
  cause : Nat := 0
  core : Nat := 0xFFFF
  slot : Nat := 0xFFFF
  pcSlot : Nat := 0
  lanes : Mask := 0
  team : Nat := 0
  pc : Nat := 0
  address : Nat := 0
  value : Nat := 0
deriving DecidableEq, Repr

structure Kernel where
  ctx : Nat := 0
  queue : Nat := 0
  rec_ : Launch := {}
  st : KState := .queued
  accepted : Nat := 0              -- HRN_CLOCK at acceptance
  nextTeam : Nat := 0              -- grid teams handed out
  placed : Nat := 0                -- grid teams placed
  spawnedN : Nat := 0              -- records that entered the pool
  pool : List Rec := []
  outside : List (Rec × Option Nat) := []   -- records waiting to enter, with the JDEC access that made each (R320)
  joins : List (Nat × Nat) := []   -- retirement steps pending (R321): team and join address
  charged : Nat := 0               -- totals (R347)
  correction : Int := 0
  footprint : Nat := 0
  filler : Nat := 0
  notices : Nat := 0
  lastChange : Nat := 0
  noted : Bool := false            -- registered for notices (R354)
  abort : Option AbortInfo := none
  total : Int := 0                 -- the total at the abort
  after : Bool := false            -- later commands wait for it (R360)
  overDone : Bool := false         -- the first observation above the limit has counted
deriving DecidableEq, Repr

/-! ## Memory, L1, L2 and the TLB -/

/-- A line in an L1 (R210): its bytes are a copy, which may be older than the home slice's. -/
structure L1Line where
  core : Nat
  vline : Nat                      -- virtual address div 128
  ctx : Nat
  world : Nat
  key : Nat := 0                   -- key slot of its page, 0 where its world is 0
  pline : Nat
  read : Bool
  write : Bool
  order : Nat
  format : Nat
  tier : Nat
  valid : Nat := 0                 -- sectors held, one bit each
  bytes : List Byte
deriving DecidableEq, Repr

/-- A TLB entry (R211): a leaf or a non-leaf, with the virtual number at its level. -/
structure TlbEntry where
  stack : Nat
  ctx : Nat
  level : Nat
  vnum : Nat                       -- virtual address div 2^(12 + 9 level)
  pte : Nat
  wr : Bool := false               -- installed for a write (R214)
deriving DecidableEq, Repr

/-- A line present in its home slice (R21). -/
structure L2Line where
  valid : Nat := 0                 -- sectors held, one bit each
  dirtyS : Nat := 0                -- sectors not yet in memory, one bit each
  way : Nat := 0                   -- its way of the set (R222, R439)
  dirty : Option Nat := none       -- the context whose write last dirtied it (R282)
  copy : Option (List Byte) := none -- host lines: the bytes held, which may be older than host memory (R233)
deriving DecidableEq, Repr

/-! ## Blocks -/

inductive CoreState where
  | service | drain | test | retired
deriving DecidableEq, Repr

structure CoreSt where
  scratch : Nat := 8               -- CORE_SRAM.scratch (R19)
  st : CoreState := .service
  issues : Nat := 0                -- matrix issues of the window (R305)
  spent : Bool := false            -- the budget was reached in this window (R306)
  budWin : Nat := 0                -- windows of 256 clocks begun (R305)
  removed : List Nat := [0, 0, 0, 0] -- vector registers the repair map removes, per quarter (R35, log 14)
  lastQ : List Nat := [255, 255, 255, 255] -- slot last selected, per quarter (R372, log 5)
  busy : List Nat := [0, 0, 0, 0]  -- clocks the operand stage is still busy (R99)
  issuedAt : List (Option Nat) := [none, none, none, none] -- %clock of the last issue (R410)
  tags : Tbl Nat := []             -- generation tag of each slot (R102)
  retiring : Bool := false         -- drains to be retired
  retBy : Option Nat := none       -- the partition that owned the core when it retired (R165)
  grace : Nat := 0                 -- clocks of the stack at which the grace window ends (R395)
  forced : Bool := false           -- a forced lease of R413
  notified : Bool := false         -- the lease notice has been posted (R165)
  flip : Bool := false             -- a bit of the next fetched line to be checked is wrong (R107)
deriving DecidableEq, Repr

structure StackSt where
  clock : Nat := 0                 -- %clock (R32)
  pool : Nat := 2                  -- STK_CLASS (R27)
  cls : Nat := 2
  imbal : List Int := [0, 0, 0, 0] -- STK_IMBAL (R407)
  mean : Nat := 0                  -- the mean current of the last refresh, which a tier under test draws (R398)
  throttle : Nat := 0              -- STK_STATE (R410)
  throttled : Nat := 0
  fill : Nat := 0
  calm : Int := 0                  -- R408
  shunt : Nat := 0
  retention : Bool := false        -- STK_STATE (R410, R412)
  retired : Bool := false
  heldOut : Bool := false          -- out of placement until its forced leases end (R413)
  idle : Nat := 0                  -- clocks idle (R412)
  charges : Tbl Nat := []          -- C(i) of the window (R378)
  fillerE : Nat := 0               -- Fl of the window
  samples : Tbl Nat := []          -- B(i) of the window
  kernC : Tbl Nat := []            -- the window's charges and sampled bytes by kernel (R347)
  kernB : Tbl Nat := []
  sampled : Nat := 0               -- multiples of 1024 sampled, refreshed; windows reconciled
  refreshed : Nat := 0
  reconciled : Nat := 0
deriving DecidableEq, Repr

structure DieSt where
  awl : Nat := 0                   -- Awl clock (R393)
  interval : Nat := 0              -- the next interval to lease
  boundary : Nat := 0              -- Awl clock of the last period boundary
  period : Nat := 40               -- period_log2 in force
  periodNew : Nat := 40            -- AWL_CTL (R394)
  graceLog : Nat := 24
  overdue : Nat := 0
  late : List Nat := []            -- deferred leases: the units by their index in AWL_SCORE (R396, R399)
  ref : Nat := 0                   -- reference oscillator (R379)
  refills : Nat := 0               -- refill ticks taken
  budget : Nat := 0x20             -- GOV_MATBUDGET (R305)
  rail : Nat := 110                -- GOV_RAIL (R447), units of 5 mV
  railTo : Nat := 110              -- its target, and the partition that holds the highest vote
  railBy : Nat := 0
  railSteps : Nat := 0             -- reference ticks taken by the rail
  cap : Nat := 2800                -- the package cap the governor applies (R31)
  capShare : Nat := 700            -- the die's share of it, in W (R30)
  paced : Bool := false            -- demand is above that share: refills and grants are held back (R30)
  pacedParts : Nat := 0            -- a bit per partition whose draw would pass its cap: its own are held back (R445)
  latched : Nat := 0               -- RND_DIEWORLD (R386)
  target : Nat := 0
  changing : Bool := false
  busy : Bool := false             -- SCRUB_PROGRESS (R387)
  scrubDone : Bool := true
  cores : Nat := 64
  scrubFor : Option Nat := none    -- the torn-down context that pays the scrub
  account : Int := 0               -- the die's own account (R376)
deriving DecidableEq, Repr

/-- A unit's suspicion score (R401, R402). -/
structure Score where
  score : Nat := 0
  retired : Bool := false
  pending : Bool := false
  leased : Bool := false           -- a link or channel under lease
  lastFail : Nat := 0xFFFF         -- index of the last failing pattern (R404)
deriving DecidableEq, Repr

/-! ## Contexts and queues -/

inductive CtxState where
  | free | ready | active | parked | evicted | faulted | teardown | dead
deriving DecidableEq, Repr

structure Ctx where
  st : CtxState := .free
  world : Nat := 0
  keySlot : Nat := 0
  result : Nat := 0
  level : Int := 0                 -- CTX_BUCKET
  cap : Nat := 0                   -- CTX_REFILL
  rate : Nat := 0
  resume : Nat := 1
  saveSize : Nat := 0              -- CTX_SAVE
  saveBase : Nat := 0
  charged : Nat := 0               -- CTX_ACCT
  correction : Int := 0
  footprint : Nat := 0
  filler : Nat := 0
  root : Nat := 0                  -- CTX_PT_ROOT
  enable : Bool := false
  svcBase : Nat := 0               -- CTX_SVC_RING
  svcLog : Nat := 0
  svcCons : Nat := 0               -- CTX_SVC_IDX
  svcProd : Nat := 0
  irqEnable : Bool := false        -- CTX_IRQ
  irqVector : Nat := 3
  fn : Nat := 0                    -- the function that created it
  held : Bool := false
  cmd : Nat := 0                   -- the evict command under way, 4 (R375, R444)
  cmdTeams : Nat := 0              -- teams it has evicted so far
  saves : Nat := 0                 -- save counter (R383)
  stage : Nat := 0                 -- 1 once a teardown has come to its scrubs (step 5 of R390)
deriving DecidableEq, Repr

/-- A command started and not complete (R360). -/
inductive Running where
  | launch (kid : Nat) | wait (addr value cond done : Nat) (polled : Nat) | inval (id : Nat) | migr (id : Nat)
  | abort (kid done : Nat)
  | reply (team idx seq done : Nat) -- its block is held for an evicted team (R162, R358)
deriving DecidableEq, Repr

structure Queue where
  ctx : Nat := 0
  band : Nat := 1
  priv : Bool := false
  enable : Bool := false
  base : Nat := 0
  log2 : Nat := 0
  cons : Nat := 0
  prod : Nat := 0
  quantum : Nat := 0x3B9ACA00
  deficit : Int := 0
  thresh : Nat := 0
  urgent : Bool := false
  fault : Nat := 0                 -- a standing cause 1 or 7 (R366)
  head : Option Nat := none        -- the kernel of a LAUNCH started and not yet taken (R360)
  running : List Running := []
  pend : Bool := false             -- the head command waits for earlier ones (cause 2)
  idle : Bool := true              -- in IDLE, or DISABLED (R363)
deriving DecidableEq, Repr

/-- A set of records handed to a die Harness and not yet placed (R342). -/
structure PlaceSet where
  q : Nat
  kid : Nat
  die : Nat
  prov : Nat := 0                  -- provisional charge of each team (R368)
  recs : List Rec := []            -- grid or pool records
  restore : List Nat := []         -- or the teams of a restore set (R346)
  deadlineFor : Bool := false      -- handed out on a deadline eviction (R371)
deriving DecidableEq, Repr

/-- A reply held for an evicted team's group (R162). -/
structure HeldReply where
  q : Nat                          -- the queue of the REPLY
  team : Nat
  idx : Nat
  seq : Nat
  bytes : List Byte
deriving DecidableEq, Repr

structure FaultRing where
  base : Nat := 0
  log2 : Nat := 0
  cons : Nat := 0
  prod : Nat := 0
deriving DecidableEq, Repr

/-- An invalidation under way (R218). -/
structure Inval where
  q : Nat
  start : Nat
  pages : Nat
  ctx : Nat
  phys : Bool
  wb : Bool
  doneW : Nat
  waits : List Nat := []           -- accesses that used a dropped translation or line
  mats : List Nat := []            -- matrix operations that pin lines of the range
  copies : List Nat := []
  lines : List Nat := []           -- L2 lines to be written back and dropped
deriving DecidableEq, Repr

/-- A migration under way (R221). -/
structure Migr where
  q : Nat
  src : Nat
  dst : Nat
  pages : Nat
  ctx : Nat
  key : Nat
  doneW : Nat
deriving DecidableEq, Repr

/-! ## Links, domains, partitions, functions -/

inductive LinkState where
  | down | train | secure | up | loop | failed | retired
deriving DecidableEq, Repr

/-- A message sent in flits: what it carries and where it goes (R416). -/
structure Sent where
  counter : Nat := 0               -- hop counter of its first flit (R418)
  kind : Nat                       -- by the model's numbers (log 1)
  hops : Nat := 0
  dst : Nat := 0
  src : Nat := 0
  flits : Nat := 1
  dom : Option Nat := none         -- the domain slot it belongs to (R420)
  rank : Nat := 64                 -- the rank there, from 64 on none
  epoch : Nat := 0
  ctl : Bool := false              -- under a control key (R429)
  seq : Option Nat := none         -- end-to-end sequence number, taken when it is sent (R423)
  words : List Nat := []           -- the message in the model's words (log 1)
  payer : Option (Nat × Nat × Nat) := none -- context, core and team that pay each flit and hop when it is sent (R323, R327)
deriving DecidableEq, Repr

structure LinkSt where
  st : LinkState := .down
  enable : Bool := false           -- LNK_CTL (R414)
  hbMiss : Nat := 4
  hbLog : Nat := 20
  peer : Nat := 0                  -- LNK_STATUS
  retries : Nat := 0
  tagFail : Nat := 0
  sendCtr : Nat := 0               -- hop counter of the next flit sent (R418)
  lastAcc : Nat := 0               -- last accepted counter plus one
  inOrder : Nat := 0               -- counters below it have all been received (R419)
  unacked : List Sent := []
  clock : Nat := 0                 -- link clock
  sinceFlit : Nat := 0             -- link clocks since a flit arrived
  inState : Nat := 0               -- link clocks in the state
  badCtr : Nat := 0                -- counter of the flit whose check last failed, and how often it has (R419)
  badRun : Nat := 0
  lastAck : Nat := 0               -- what the last acknowledgement received named
  hbAt : Nat := 0                  -- link clock of the last heartbeat sent (R425)
  offers : Nat := 0                -- offers made, one per 64 refill ticks (R435)
  asked : Nat := 0                 -- taken from the neighbour's offer and not yet acknowledged
  borrowed : Nat := 0              -- power lent or borrowed over the link (R435)
  lent : Nat := 0
  offered : Nat := 0
  reclaimAt : Option Nat := none   -- reference count at which RECLAIM was sent
  leased : Bool := false           -- its lease waits for its flits' acknowledgements (R415)
deriving DecidableEq, Repr

inductive DomState where
  | idle | forming | up | rekey | broken
deriving DecidableEq, Repr

structure DomEntry where
  fabric : Nat := 0
  self : Bool := false
  spare : Bool := false
  live : Bool := false
  valid : Bool := false
deriving DecidableEq, Repr

structure DomSt where
  st : DomState := .idle
  ctx : Nat := 0
  rank : Nat := 0
  epoch : Nat := 0
  result : Nat := 0
  group : Tbl DomEntry := []       -- DOM_GROUP, by entry
  export_ : Nat := 0               -- DOM_EXPORT, DOM_LIMIT
  limit : Nat := 0
  sendSeq : Tbl Nat := []          -- next end-to-end sequence number per rank (R423)
  recvSeq : Tbl Nat := []
  ctlSend : Tbl Nat := []          -- and the control sequence numbers of a re-key (R429)
  ctlRecv : Tbl Nat := []
  early : List DomMsg := []        -- arrived ahead of their turn, or under a key still to come (R423, R428, R429)
  inbox : List DomMsg := []        -- delivered, and kept for a collective (R432)
  barVal : Option Nat := none      -- DBAR phase (R331)
  barLocal : Bool := false
  barRanks : List Nat := []
  barEarly : Tbl Nat := []         -- next-phase arrivals of ranks counted in this one (R331, log 15)
  rekeyPending : Bool := false
  leaving : List Nat := []         -- ranks whose acknowledgement of LEAVE is awaited (R424)
  failed : List Nat := []          -- ranks timed out or named by BREAK (R426)
  secret : Bool := false           -- a master secret is held
  newSecret : Bool := false        -- and the one of the pending re-key (R428, R429)
  rekeyed : Bool := false          -- some re-key has taken place
  hbLink : Tbl Nat := []           -- per rank: the link its last heartbeat came by, and that link's clock then (R425)
  hbSince : Tbl Nat := []
deriving DecidableEq, Repr

structure Part where
  own : Tbl Nat := []              -- ownership words (R437)
  sfq : Nat := 16                  -- PAR_CTL (R441)
  railVote : Nat := 110
  worlds : Nat := 1
  band0 : Bool := false
  borrowed : Nat := 0              -- PAR_POWER (R445)
  lent : Nat := 0
  reserve : Nat := 0
  share : Nat := 0
deriving DecidableEq, Repr

/-- A burst held at a channel (R440). -/
structure Burst where
  p : Nat
  id : Nat
  start : Nat
deriving DecidableEq, Repr

structure Chan where
  v : Nat := 0                     -- virtual clock V
  f : Tbl Nat := []                -- finish tag F of each partition
  held : List Burst := []
  clock : Nat := 0                 -- the channel's own clock
  leaseEnd : Option Nat := none
deriving DecidableEq, Repr

inductive VfState where
  | off | active | suspending | suspended
deriving DecidableEq, Repr

structure Vf where
  st : VfState := .off
  qcount : Nat := 0
  qbase : Nat := 0
  part : Nat := 0
  result : Nat := 0
  save : Nat := 0                  -- VF_SAVE
  progress : Nat := 0              -- progress word (R444)
  wasHeld : List Nat := []         -- contexts held before the suspend (R443)
  expCtx : Nat := 0                -- RND_EXPORT
  expStatus : Nat := 0
  expDst : Nat := 0
  secure : Bool := false           -- IDE stream (R454)
deriving DecidableEq, Repr

/-- A retirement record held or logged (R404). -/
structure RetRec where
  seq : Nat
  kind : Nat
  cause : Nat
  unit : Nat
  score : Nat
  pattern : Nat
  awlClock : Nat
  snapshot : Nat
deriving DecidableEq, Repr

/-- What blocks latch at a snapshot trigger: the counts and clocks of each (R33, R451). -/
structure Snap where
  seq : Nat
  headClock : Nat
  errs : Tbl Nat
  regEvents : Tbl Nat
  matStall : Tbl Nat
  stks : Tbl StackSt
  dies : Tbl DieSt
  links : Tbl LinkSt
  ctxs : Tbl Ctx
  cores : Tbl CoreSt
  queues : Tbl Queue
  chans : Tbl Chan
  scores : Tbl Score
  doms : Tbl DomSt
deriving DecidableEq, Repr

/-! ## The machine -/

/-- Why a step stops. -/
inductive Fault where
  /-- Raised by exec of a Turle instruction when `cur` names no resident group: there is nothing to issue it. Safe. -/
  | noIssuer
  /-- Raised by a host write to a physical address that R204 reserves: no such byte exists. Safe. -/
  | noSuchAddress
deriving DecidableEq, Repr

/-- Why an instruction has no meaning. -/
inductive Refusal where
  /-- Raised by exec for a row that has no meaning yet. Safe. -/
  | notModelled (mnemonic : String)
deriving DecidableEq, Repr

/-- The PC slot whose instruction exec runs. -/
structure Issuer where
  core : Nat := 0
  slot : Nat := 0
  pcs : Nat := 0
deriving DecidableEq, Repr

structure State where
  agenda : List Move := []
  cur : Issuer := {}
  pair : Option Group := none
  free : Nat := 0
  next : Nat := 0
  groups : Tbl Group := []         -- by 1024 core + slot
  acc : Tbl Access := []
  mats : Tbl MatOp := []
  copies : Tbl CopyOp := []
  colls : Tbl CollOp := []
  teams : Tbl Team := []
  kernels : Tbl Kernel := []
  mem : List Host.Cell := []       -- physical bytes (R204)
  sram : List Host.Cell := []      -- scratchpad bytes at 2^32 core + byte
  tile : List Host.Cell := []      -- tile bytes at 2^32 core + byte
  poison : List Nat := []          -- poisoned 32-byte sectors of memory (R280)
  sramPoison : List Nat := []      -- poisoned 8-byte words of the arrays
  tilePoison : List Nat := []      -- poisoned tiles at 2^16 core + tile (R287)
  l1 : List L1Line := []
  tlb : List TlbEntry := []
  l2 : Tbl L2Line := []
  cores : Tbl CoreSt := []
  stks : Tbl StackSt := []
  dies : Tbl DieSt := []
  regEvents : Tbl Nat := []        -- CORE_REG_EVENTS: 128 (4 core + quarter) + 64 part-halves (R103)
  matStall : Tbl Nat := []         -- CORE_MATSTALL (R306)
  allow : Tbl Nat := []            -- allowance of a context on a core, at 4096 core + ctx (R379)
  ctxs : Tbl Ctx := []
  queues : Tbl Queue := []
  sets : List PlaceSet := []
  lastDie : Nat := 3               -- die of the last set (R342, log 5)
  rot : Tbl Nat := []              -- at 4 partition + band: the queue last selected, plus one; absent 1024 (R367, log 5)
  headClock : Nat := 0             -- HRN_CLOCK (R370)
  replies : List HeldReply := []
  dbarHeld : List Nat := []        -- teams for which a DBAR release is held (R333)
  rings : Tbl FaultRing := []
  invals : Tbl Inval := []
  migrs : Tbl Migr := []
  links : Tbl LinkSt := []         -- links 0 to 15; from 16, the dealings of partitions (R445, log 15)
  heldFlits : List Sent := []      -- kept until a route reaches their destination (R420)
  routes : Tbl Nat := []           -- LNK_ROUTE (R460); absent 0x100
  doms : Tbl DomSt := []
  parts : Tbl Part := []
  chans : Tbl Chan := []           -- HBM4 0 to 255, LPDDR6 256 to 303
  vfs : Tbl Vf := []
  errs : Tbl Nat := []             -- ERR_COUNT[p][e] at 64 p + e (R449)
  scores : Tbl Score := []         -- AWL_SCORE (R402)
  cap : Nat := 2800                -- GOV_CAP (R31)
  share : Part := { reserve := 100, share := 2800 } -- GOV_SHARE (R434)
  snpSeq : Nat := 0
  snpAddr : Nat := 0
  snap : Option Snap := none       -- latched counts (R451)
  log : List RetRec := []          -- retirement log in module flash (R404)
  logHeld : List RetRec := []
  logSeq : Nat := 0
  rndKind : Nat := 0               -- RND_STATUS (R457)
  rndPhase : Nat := 0
  resets : List Nat := []          -- function-level resets held until READY (R459)
  expSeq : Nat := 0
  sweeps : Tbl Nat := []           -- integrity sweeps done, by world (R388)
  touched : Tbl Nat := []          -- sectors of protected pages served since their sweep, with the page's key, by number (R388)
  keys : Tbl Nat := []             -- Rind key slots in use: slot to world (R206, R375)
  keyIds : Tbl Nat := []           -- the key that each slot in use holds, by number (R207, R375)
  sealKey : Tbl Nat := []             -- sectors held under a key, by number; none listed is plaintext (R207, log 11)
  stackCopy : Tbl (List Int) := [] -- the totals ENRD reads (R164)
  outbox : List Sent := []
  irqs : List (Nat × Nat) := []    -- function and vector (R455)
deriving DecidableEq, Repr

/-- The machine right after reset: dies not yet released, nothing placed; partition 0 owns every unit (R436). -/
def State.reset : State := {}

end Sys2Proof.Machine
end

