-- ==== Sys2Proof/Machine/Flags.lean ====
section
/-! DEFINITION. Floating-point arithmetic and the flags it raises (R38 to R42, R46 to R52, R181 to R192): each operation
is computed exactly, or with a sticky bit where it has no finite expansion, and rounded once. -/

namespace Sys2Proof.Machine

open Sys2Proof

/-- The flags of %fflags (R62), in bit order. -/
abbrev FFlags := BitVec 5

def flInvalid : FFlags := 1
def flDivzero : FFlags := 2
def flOverflow : FFlags := 4
def flUnderflow : FFlags := 8
def flInexact : FFlags := 16

/-- A floating format (R38): fraction bits, exponent bits, bias. -/
structure Fmt where
  m : Nat
  e : Nat
  bias : Nat
deriving DecidableEq, Repr

def fmtOf : Ty → Fmt
  | .f64 => ⟨52, 11, 1023⟩
  | .f16 => ⟨10, 5, 15⟩
  | .bf16 => ⟨7, 8, 127⟩
  | .e4m3 => ⟨3, 4, 7⟩
  | .e5m2 => ⟨2, 5, 15⟩
  | _ => ⟨23, 8, 127⟩

def Fmt.width (f : Fmt) : Nat := 1 + f.e + f.m

/-- e4m3 has no infinity, and its all-ones exponent is a normal one but for fraction 0b111 (R38, R39). -/
def Fmt.noInf (f : Fmt) : Bool := f.m == 3

/-- A floating value: a NaN, an infinity, or (-1)^neg × man × 2^exp. -/
inductive FVal where
  | nan (signalling : Bool)
  | inf (neg : Bool)
  | fin (neg : Bool) (man : Nat) (exp : Int)
deriving DecidableEq, Repr

/-- The exponent of a subnormal's last place. -/
def Fmt.q0 (f : Fmt) : Int := 1 - (f.bias : Int) - f.m

def unpackF (f : Fmt) (x : Nat) : FVal :=
  let neg := x.testBit (f.e + f.m)
  let ex := x / 2 ^ f.m % 2 ^ f.e
  let fr := x % 2 ^ f.m
  if ex = 2 ^ f.e - 1 ∧ !f.noInf then
    if fr = 0 then .inf neg else .nan (f.m ≥ 7 && !fr.testBit (f.m - 1))
  else if f.noInf && ex == 2 ^ f.e - 1 && fr == 7 then .nan false
  else if ex = 0 then .fin neg fr f.q0
  else .fin neg (2 ^ f.m + fr) (f.q0 + ex - 1)

/-- The default NaN (R39). -/
def Fmt.nan (f : Fmt) : Nat :=
  if f.noInf then 0x7F else (2 ^ f.e - 1) * 2 ^ f.m + 2 ^ (f.m - 1)

def Fmt.sign (f : Fmt) (neg : Bool) : Nat := if neg then 2 ^ (f.e + f.m) else 0

def Fmt.inf (f : Fmt) (neg : Bool) : Nat := f.sign neg + (2 ^ f.e - 1) * 2 ^ f.m

/-- The largest finite value (R38). -/
def Fmt.maxFin (f : Fmt) (neg : Bool) : Nat :=
  f.sign neg + (if f.noInf then 0x7E else (2 ^ f.e - 1) * 2 ^ f.m - 1)

def Fmt.zero (f : Fmt) (neg : Bool) : Nat := f.sign neg

def isNaNF (f : Fmt) (x : Nat) : Bool := match unpackF f x with | .nan _ => true | _ => false
def isSNaN (f : Fmt) (x : Nat) : Bool := match unpackF f x with | .nan sg => sg | _ => false

/-- Invalid where an operand is a signalling NaN (R40). -/
def snanFlag (f : Fmt) (xs : List Nat) : FFlags := if xs.any (isSNaN f) then flInvalid else 0

/-- Rounding modes (R46); `sr` carries the lane's random word. -/
inductive RMode where
  | rne | rtz | rdn | rup | sr (rnd : Nat)
deriving DecidableEq, Repr

def RMode.ofCode (c : BitVec 3) : RMode :=
  match c.toNat with
  | 1 => .rtz | 2 => .rdn | 3 => .rup | 4 => .sr 0 | _ => .rne

/-- Round `man / 2^sh`, with more below where `sticky`, to an integer: the integer and whether it changed (R46, R52). -/
def roundShift (m : RMode) (neg : Bool) (man sh : Nat) (sticky : Bool) : Nat × Bool :=
  let k := man / 2 ^ sh
  let r := man % 2 ^ sh
  let inexact := r != 0 || sticky
  let up := match m with
    | .rne => 2 * r > 2 ^ sh || (2 * r == 2 ^ sh && (sticky || k % 2 == 1))
    | .rtz => false
    | .rdn => neg && inexact
    | .rup => !neg && inexact
    | .sr rnd => inexact && (r * 2 ^ 32 / 2 ^ sh) + rnd ≥ 2 ^ 32
  (if up && sh != 0 then k + 1 else k, inexact)

/-- The result of an overflow (R42): the table of the 8-bit formats, or IEEE 754 for the mode. -/
def overflowF (f : Fmt) (m : RMode) (neg satf : Bool) : Nat :=
  if f.m ≤ 3 then
    if satf then f.maxFin neg else if f.noInf then f.nan else f.inf neg
  else
    match m with
    | .rtz => f.maxFin neg
    | .rdn => if neg then f.inf neg else f.maxFin neg
    | .rup => if neg then f.maxFin neg else f.inf neg
    | _ => f.inf neg

/-- Round (-1)^neg × man × 2^exp, a little more in magnitude where `sticky`, to the format (R38, R41, R42). A sticky
value has a last place below the format's. -/
def roundF (f : Fmt) (m : RMode) (satf neg : Bool) (man : Nat) (exp : Int) (sticky : Bool := false) : Nat × FFlags :=
  if man = 0 ∧ !sticky then (f.zero neg, 0)
  else
    let top : Int := exp + Nat.log2 man                       -- exponent of the leading bit
    let q : Int := max (top - f.m) f.q0
    let (man, exp) := if exp > q then (man * 2 ^ (exp - q).toNat, q) else (man, exp)
    let (k, inexact) := roundShift m neg man (q - exp).toNat sticky
    let qu : Int := top - f.m                                 -- as with an unbounded exponent (R41)
    let ku := if exp > qu then man * 2 ^ (exp - qu).toNat else (roundShift m neg man (qu - exp).toNat sticky).1
    let tiny := qu < f.q0 && (qu + 1 < f.q0 || ku < 2 ^ (f.m + 1))
    let (k, q) := if k = 2 ^ (f.m + 1) then (2 ^ f.m, q + 1) else (k, q)
    let ex : Nat := if k < 2 ^ f.m then 0 else (q - f.q0 + 1).toNat
    let isOver := if f.noInf then ex > 15 || (ex == 15 && k - 2 ^ f.m == 7) else ex ≥ 2 ^ f.e - 1
    let fr := if k < 2 ^ f.m then k else k - 2 ^ f.m
    if isOver then (overflowF f m neg satf, flOverflow ||| flInexact)
    else
      (f.sign neg + ex * 2 ^ f.m + fr,
       (if inexact then flInexact else 0) ||| (if tiny && inexact then flUnderflow else 0))

/-- The exact sum of two finite values, as a signed integer and a common exponent. -/
def alignAdd (n1 : Bool) (m1 : Nat) (e1 : Int) (n2 : Bool) (m2 : Nat) (e2 : Int) : Int × Int :=
  let e := min e1 e2
  let a : Int := (m1 * 2 ^ (e1 - e).toNat : Nat)
  let b : Int := (m2 * 2 ^ (e2 - e).toNat : Nat)
  ((if n1 then -a else a) + (if n2 then -b else b), e)

/-- The sign of an exact zero sum (IEEE 754-2019, R181). -/
def zeroSumSign (m : RMode) (n1 n2 : Bool) : Bool := if n1 == n2 then n1 else m == .rdn

/-- a + b of unpacked values, rounded once. -/
def addVals (f : Fmt) (m : RMode) (a b : FVal) : Nat × FFlags :=
  match a, b with
  | .nan x, .nan y => (f.nan, if x || y then flInvalid else 0)
  | .nan x, _ => (f.nan, if x then flInvalid else 0)
  | _, .nan y => (f.nan, if y then flInvalid else 0)
  | .inf x, .inf y => if x == y then (f.inf x, 0) else (f.nan, flInvalid)
  | .inf x, _ => (f.inf x, 0)
  | _, .inf y => (f.inf y, 0)
  | .fin n1 m1 e1, .fin n2 m2 e2 =>
    let (s, e) := alignAdd n1 m1 e1 n2 m2 e2
    if s = 0 then (f.zero (zeroSumSign m n1 n2), 0)
    else roundF f m false (s < 0) s.natAbs e

def negVal : FVal → FVal
  | .nan x => .nan x
  | .inf n => .inf (!n)
  | .fin n m e => .fin (!n) m e

/-- The exact product of two values, and invalid for 0 × ∞ or a signalling NaN (R181). -/
def mulVals (a b : FVal) : FVal × FFlags :=
  match a, b with
  | .nan x, .nan y => (.nan false, if x || y then flInvalid else 0)
  | .nan x, _ => (.nan false, if x then flInvalid else 0)
  | _, .nan y => (.nan false, if y then flInvalid else 0)
  | .inf x, .inf y => (.inf (x != y), 0)
  | .inf x, .fin n mm _ => if mm = 0 then (.nan false, flInvalid) else (.inf (x != n), 0)
  | .fin n mm _, .inf y => if mm = 0 then (.nan false, flInvalid) else (.inf (n != y), 0)
  | .fin n1 m1 e1, .fin n2 m2 e2 => (.fin (n1 != n2) (m1 * m2) (e1 + e2), 0)

/-- Round an unpacked value to a format. -/
def packF (f : Fmt) (m : RMode) (v : FVal) : Nat × FFlags :=
  match v with
  | .nan _ => (f.nan, 0)
  | .inf n => (f.inf n, 0)
  | .fin n mm e => roundF f m false n mm e

def fAdd (f : Fmt) (m : RMode) (a b : Nat) : Nat × FFlags := addVals f m (unpackF f a) (unpackF f b)
def fSub (f : Fmt) (m : RMode) (a b : Nat) : Nat × FFlags := addVals f m (unpackF f a) (negVal (unpackF f b))

def fMul (f : Fmt) (m : RMode) (a b : Nat) : Nat × FFlags :=
  let (v, fl) := mulVals (unpackF f a) (unpackF f b)
  let (r, fl2) := packF f m v
  (r, fl ||| fl2)

/-- a × b + c, the product not rounded (R181). -/
def fFma (f : Fmt) (m : RMode) (a b c : Nat) : Nat × FFlags :=
  let (v, fl) := mulVals (unpackF f a) (unpackF f b)
  let (r, fl2) := addVals f m v (unpackF f c)
  (r, fl ||| fl2 ||| snanFlag f [a, b, c])

/-- The order of two values that are no NaN, −0 below +0 where `zeros`: negative, zero or positive. -/
def cmpVals (zeros : Bool) (a b : FVal) : Int :=
  match a, b with
  | .inf x, .inf y => if x == y then 0 else if x then -1 else 1
  | .inf x, _ => if x then -1 else 1
  | _, .inf y => if y then 1 else -1
  | .fin n1 m1 e1, .fin n2 m2 e2 =>
    let (s, _) := alignAdd n1 m1 e1 (!n2) m2 e2
    if s ≠ 0 then s
    else if zeros && n1 != n2 then (if n1 then -1 else 1)
    else 0
  | _, _ => 0

/-- FMIN, FMAX and their .nan forms (R182). -/
def fMinMax (f : Fmt) (isMax nanForm : Bool) (a b : Nat) : Nat × FFlags :=
  let fl := snanFlag f [a, b]
  match isNaNF f a, isNaNF f b with
  | true, true => (f.nan, fl)
  | true, false => (if nanForm then f.nan else b, fl)
  | false, true => (if nanForm then f.nan else a, fl)
  | false, false =>
    let c := cmpVals true (unpackF f a) (unpackF f b)
    (if isMax then (if c ≥ 0 then a else b) else (if c ≤ 0 then a else b), fl)

/-- FCMP (R183). -/
def fCmp (f : Fmt) (cond a b : Nat) : Bool × FFlags :=
  let un := isNaNF f a || isNaNF f b
  let c := cmpVals false (unpackF f a) (unpackF f b)
  let fl := if 2 ≤ cond ∧ cond ≤ 5 then (if un then flInvalid else 0) else snanFlag f [a, b]
  let r := match cond with
    | 0 => !un && c == 0
    | 1 => un || c != 0
    | 2 => !un && c < 0
    | 3 => !un && c ≤ 0
    | 4 => !un && c > 0
    | 5 => !un && c ≥ 0
    | 6 => !un
    | _ => un
  (r, fl)

/-- FCLASS: the one bit set (R184). -/
def fClass (f : Fmt) (a : Nat) : Nat :=
  match unpackF f a with
  | .nan true => 1
  | .nan false => 2
  | .inf true => 4
  | .inf false => 2 ^ 9
  | .fin n m _ =>
    if m = 0 then (if n then 2 ^ 5 else 2 ^ 6)
    else if m < 2 ^ f.m then (if n then 2 ^ 4 else 2 ^ 7)
    else (if n then 2 ^ 3 else 2 ^ 8)

/-- FSCALE (R185); exponents beyond any format's range are clamped before the exact scaling. -/
def fScale (f : Fmt) (m : RMode) (a : Nat) (b : Int) : Nat × FFlags :=
  match unpackF f a with
  | .nan sg => (f.nan, if sg then flInvalid else 0)
  | .inf n => (f.inf n, 0)
  | .fin n mm e => roundF f m false n mm (e + max (-5000) (min 5000 b))

/-- FRND: to an integral value of the format, the sign of zero kept, no inexact (R185). -/
def fRnd (f : Fmt) (m : RMode) (a : Nat) : Nat × FFlags :=
  match unpackF f a with
  | .nan sg => (f.nan, if sg then flInvalid else 0)
  | .inf n => (f.inf n, 0)
  | .fin n mm e =>
    if e ≥ 0 then (a, 0)
    else ((roundF f .rne false n (roundShift m n mm (-e).toNat false).1 0).1, 0)

/-- FDIV (R187): 70 bits more than the format, and a sticky bit. -/
def fDiv (f : Fmt) (m : RMode) (a b : Nat) : Nat × FFlags :=
  match unpackF f a, unpackF f b with
  | .nan x, .nan y => (f.nan, if x || y then flInvalid else 0)
  | .nan x, _ => (f.nan, if x then flInvalid else 0)
  | _, .nan y => (f.nan, if y then flInvalid else 0)
  | .inf _, .inf _ => (f.nan, flInvalid)
  | .inf x, .fin n _ _ => (f.inf (x != n), 0)
  | .fin n _ _, .inf y => (f.zero (n != y), 0)
  | .fin n1 m1 e1, .fin n2 m2 e2 =>
    let n := n1 != n2
    if m2 = 0 then (if m1 = 0 then (f.nan, flInvalid) else (f.inf n, flDivzero))
    else if m1 = 0 then (f.zero n, 0)
    else
      let sh := 2 * f.m + 70
      let num := m1 * 2 ^ sh
      roundF f m false n (num / m2) (e1 - e2 - sh) (num % m2 != 0)

/-- The integer square root by bits: `n` bits of the root of `x`, from the root `r` found so far. -/
def isqrt : Nat → Nat → Nat → Nat
  | 0, _, r => r
  | n + 1, x, r => let t := r + 2 ^ n; isqrt n x (if t * t ≤ x then t else r)

/-- FSQRT (R187). -/
def fSqrt (f : Fmt) (m : RMode) (a : Nat) : Nat × FFlags :=
  match unpackF f a with
  | .nan sg => (f.nan, if sg then flInvalid else 0)
  | .inf true => (f.nan, flInvalid)
  | .inf false => (f.inf false, 0)
  | .fin n mm e =>
    if mm = 0 then (f.zero n, 0)
    else if n then (f.nan, flInvalid)
    else
      let (mm, e) := if e % 2 = 0 then (mm, e) else (2 * mm, e - 1)
      let x := mm * 2 ^ (2 * (f.m + 35))
      let r := isqrt (2 * f.m + 70) x 0
      roundF f m false false r (e / 2 - ((f.m + 35 : Nat) : Int)) (r * r != x)

/-! ## Integers and conversions (R48, R49, R190 to R192) -/

def tyMin (t : Ty) : Int := if t.isSigned then -(2 ^ (t.width - 1)) else 0
def tyMax (t : Ty) : Int := if t.isSigned then 2 ^ (t.width - 1) - 1 else 2 ^ t.width - 1

/-- A number's value read at a type (R36). -/
def intOf (t : Ty) (x : Nat) : Int := if t.isSigned then sxt t.width x else ((x % 2 ^ t.width : Nat) : Int)

def clampTo (t : Ty) (x : Int) : Int := max (tyMin t) (min (tyMax t) x)

/-- A result as a 32- or 64-bit lane holds it: narrow integers extended by R37. -/
def laneInt (t : Ty) (x : Int) : Nat :=
  if t.width < 32 then (if t.isSigned then wrapN 32 (sxt t.width (wrapN t.width x)) else wrapN t.width x)
  else wrapN t.width x

/-- Floating to integer (R48). -/
def cvtFI (f : Fmt) (m : RMode) (t : Ty) (x : Nat) : Nat × FFlags :=
  match unpackF f x with
  | .nan _ => (0, flInvalid)
  | .inf n => (laneInt t (if n then tyMin t else tyMax t), flInvalid)
  | .fin n mm e =>
    let (k, inexact) := if e ≥ 0 then (mm * 2 ^ e.toNat, false) else roundShift m n mm (-e).toNat false
    let v : Int := if n then -(k : Int) else k
    if v < tyMin t ∨ tyMax t < v then (laneInt t (clampTo t v), flInvalid)
    else (laneInt t v, if inexact then flInexact else 0)

/-- Integer to floating (R48). -/
def cvtIF (f : Fmt) (m : RMode) (satf : Bool) (t : Ty) (x : Nat) : Nat × FFlags :=
  let v := intOf t x
  roundF f m satf (v < 0) v.natAbs 0

/-- Floating to floating (R40 to R42, R191). DESIGN CHOICE: under satf an infinity of e5m2 converted to e5m2 becomes the largest
finite value, as R42 and R191's pseudocode have it, though R191 says that such a CVT returns the value unchanged (log 18). -/
def cvtFF (fs fd : Fmt) (m : RMode) (satf : Bool) (x : Nat) : Nat × FFlags :=
  match unpackF fs x with
  | .nan sg => (fd.nan, if sg then flInvalid else 0)
  | .inf n =>
    if fd.m ≤ 3 then
      if satf then (fd.maxFin n, 0)
      else if fd.noInf then (fd.nan, flInvalid) else (fd.inf n, 0)
    else (fd.inf n, 0)
  | .fin n mm e => roundF fd m satf n mm e

/-- The scale and zero point of a scale record (R44). -/
def recScale (r : Nat) : Nat := r % 2 ^ 16
def recZero (r : Nat) : Nat := r / 2 ^ 16 % 256
def recBad (r : Nat) : Bool := r / 2 ^ 24 % 256 != 0

def f16 : Fmt := ⟨10, 5, 15⟩
def f32 : Fmt := ⟨23, 8, 127⟩
def f64 : Fmt := ⟨52, 11, 1023⟩
def bf16 : Fmt := ⟨7, 8, 127⟩

/-- Encode a value into a code of `cmax` by a scale record (R49, R192, R269). -/
def quantise (f : Fmt) (m : RMode) (cmax rec : Nat) (x : Nat) : Nat × FFlags :=
  let z := min (recZero rec) cmax
  match unpackF f x, unpackF f16 (recScale rec) with
  | _, .nan _ => (z, flInvalid)
  | _, .inf _ => (z, flInvalid)
  | .nan _, _ => (z, flInvalid)
  | .inf n, .fin sn sm _ =>
    if recBad rec || sm == 0 then (z, flInvalid)
    else (if n != sn then 0 else cmax, flInvalid)
  | .fin n mm e, .fin sn sm se =>
    if recBad rec || sm == 0 then (z, flInvalid)
    else
      let neg := n != sn
      let d := e - se
      let num := if d ≥ 0 then mm * 2 ^ d.toNat else mm
      let den := if d ≥ 0 then sm else sm * 2 ^ (-d).toNat
      let sh := 34
      let (k, inexact) := roundShift m neg (num * 2 ^ sh / den) sh (num * 2 ^ sh % den != 0)
      let v : Int := (if neg then -(k : Int) else k) + recZero rec
      if v < 0 then (0, flInvalid ||| (if inexact then flInexact else 0))
      else if v > cmax then (cmax, flInvalid ||| (if inexact then flInexact else 0))
      else (v.toNat, if inexact then flInexact else 0)

/-- Decode a code by a scale record: exact in f32, a zero product with the sign of the scale (R43, R45, R268). -/
def dequantise (rec code : Nat) : Nat :=
  let d : Int := (code : Int) - recZero rec
  match unpackF f16 (recScale rec) with
  | .nan _ => f32.nan
  | .inf n => if d = 0 then f32.nan else f32.inf (n != (d < 0))
  | .fin n mm e => if d = 0 ∨ mm = 0 then f32.zero n else (roundF f32 .rne false (n != (d < 0)) (mm * d.natAbs) e).1

/-- xorshift32 (R51). -/
def xorshift32 (x : W32) : W32 :=
  let x := x ^^^ (x <<< 13)
  let x := x ^^^ (x >>> 17)
  x ^^^ (x <<< 5)

/-! ## The approximate functions (R188, R189): any value within the bound may be the result (log 6) -/

/-- π and ln 2 times 2^200, rounded down. -/
def pi200 : Nat := 5048344754617993871973410141242436836214643421488662971535368
def ln2_200 : Nat := 1113844574712631719546256151097547306333272293549090750737802

/-- A real near an exact result: (-1)^neg × man × 2^exp. -/
structure Near where
  neg : Bool
  man : Nat
  exp : Int

/-- Sum of x^k/k! terms from `k`: fixed point with 200 fraction bits; `sgn` alternates and `two` steps k by two. -/
def taylor (x : Nat) (step : Nat) (alt : Bool) : Nat → Nat → Nat → Int
  | 0, _, _ => 0
  | n + 1, k, term =>
    let next := (List.range step).foldl (fun t i => t * x / 2 ^ 200 / (k + i + 1)) term
    (term : Int) + (if alt then -1 else 1) * taylor x step alt n (k + step) next

/-- 2^(x) for 0 ≤ x < 1, x with 200 fraction bits. -/
def exp2Frac (x : Nat) : Nat := (taylor (x * ln2_200 / 2 ^ 200) 1 false 60 0 (2 ^ 200)).toNat

/-- sin(πr) for 0 < r ≤ 1/2, r = man × 2^exp: small arguments keep their relative precision. -/
def sinNear (man : Nat) (exp : Int) : Nat × Int :=
  if exp + Nat.log2 man < -70 then (man * pi200, exp - 200)
  else
    let r := if exp + 200 ≥ 0 then man * 2 ^ (exp + 200).toNat else man / 2 ^ (-(exp + 200)).toNat
    let x := r * pi200 / 2 ^ 200
    ((taylor x 2 true 40 1 x).toNat, -200)

/-- The fraction bits of log2 of `y` in [1, 2) with 200 fraction bits, `n` of them, by repeated squaring. -/
def log2Bits : Nat → Nat → Nat → Nat
  | 0, _, acc => acc
  | n + 1, y, acc =>
    let z := y * y / 2 ^ 200
    if z ≥ 2 ^ 201 then log2Bits n (z / 2) (2 * acc + 1) else log2Bits n z (2 * acc)

/-- A value within `ulps` units in the last place of `v`, or within 2^-abs of it: the free choice, where rounding
carries it outside the bound the nearest value (R188). -/
def pickNear (f : Fmt) (ulps : Nat) (absBits : Option Nat) (choice : Nat) (v : Near) : Nat :=
  let (man, exp) := (v.man * 2 ^ 80, v.exp - 80)
  let q : Int := max (exp + Nat.log2 man - f.m) f.q0
  let relB : Nat := ulps * 2 ^ (q - exp).toNat
  let absB : Nat := match absBits with
    | some n => if -(n : Int) - exp ≥ 0 then 2 ^ (-(n : Int) - exp).toNat else 0
    | none => 0
  let b := max relB absB
  let y : Int := if v.neg then -(man : Int) else man
  let t : Int := ((choice % (2 * b + 1) : Nat) : Int) - b
  let near := (roundF f .rne false v.neg man exp).1
  let c := (roundF f .rne false (decide (y + t < 0) || (y + t == 0 && v.neg)) (y + t).natAbs exp).1
  match unpackF f c with
  | .fin n mm e =>
    let (d, e2) := alignAdd n mm e (!v.neg) man exp
    if (d.natAbs * 2 ^ (e2 - min e2 exp).toNat) ≤ b * 2 ^ (exp - min e2 exp).toNat then c else near
  | _ => near

/-- Inexact for every approximate result, underflow where it is tiny (R188). -/
def approxFlags (f : Fmt) (r : Nat) : FFlags :=
  flInexact ||| (if r % 2 ^ (f.e + f.m) < 2 ^ f.m then flUnderflow else 0)

def approx (f : Fmt) (ulps : Nat) (absBits : Option Nat) (choice : Nat) (v : Near) : Nat × FFlags :=
  let (_, fl) := roundF f .rne false v.neg v.man v.exp
  if fl &&& flOverflow != 0 then (f.inf v.neg, flOverflow ||| flInexact)
  else let r := pickNear f ulps absBits choice v; (r, approxFlags f r)

/-- FRCP (R188, R189). -/
def fRcp (f : Fmt) (ch a : Nat) : Nat × FFlags :=
  match unpackF f a with
  | .nan sg => (f.nan, if sg then flInvalid else 0)
  | .inf n => (f.zero n, 0)
  | .fin n mm e =>
    if mm = 0 then (f.inf n, flDivzero)
    else
      let one := Nat.log2 mm
      if mm = 2 ^ one ∧ (roundF f .rne false n 1 (-e - one)).2 = 0 then roundF f .rne false n 1 (-e - one)
      else approx f 1 none ch ⟨n, 2 ^ 200 / mm, -e - 200⟩

/-- FRSQ (R188, R189). -/
def fRsq (f : Fmt) (ch a : Nat) : Nat × FFlags :=
  match unpackF f a with
  | .nan sg => (f.nan, if sg then flInvalid else 0)
  | .inf true => (f.nan, flInvalid)
  | .inf false => (f.zero false, 0)
  | .fin n mm e =>
    if mm = 0 then (f.inf n, flDivzero)
    else if n then (f.nan, flInvalid)
    else
      let k := Nat.log2 mm
      if mm = 2 ^ k ∧ (e + k) % 2 = 0 then roundF f .rne false false 1 (-(e + k) / 2)
      else
        let (mm, e) := if e % 2 = 0 then (mm, e) else (2 * mm, e - 1)
        approx f 1 none ch ⟨false, isqrt 200 (2 ^ 320 / mm) 0, -(e / 2) - 160⟩

/-- FEXP2 (R188, R189). DESIGN CHOICE: between the format's largest exponent and the overflow of 2^x, where one sentence of
R188 gives +∞ with overflow and its bound a finite result, either one, by the free choice (log 6). -/
def fExp2 (f : Fmt) (ch a : Nat) : Nat × FFlags :=
  match unpackF f a with
  | .nan sg => (f.nan, if sg then flInvalid else 0)
  | .inf true => (f.zero false, 0)
  | .inf false => (f.inf false, 0)
  | .fin n mm e =>
    if mm = 0 then roundF f .rne false false 1 0
    else if e + Nat.log2 mm ≥ 12 then
      if n then (let r := ch % 3; (r, flInexact ||| flUnderflow)) else (f.inf false, flOverflow ||| flInexact)
    else
      let d := 2 ^ (-(e + 200)).toNat
      let x : Int :=
        if e + 200 ≥ 0 then (if n then -1 else 1) * (mm * 2 ^ (e + 200).toNat : Nat)
        else if n then -(((mm + d - 1) / d : Nat) : Int) else (mm / d : Nat)
      let k := x / 2 ^ 200
      let fr := (x % 2 ^ 200).toNat
      let isInt := fr = 0 ∧ (e ≥ 0 ∨ mm % 2 ^ (-e).toNat = 0)
      if isInt ∧ (roundF f .rne false false 1 k).2 = 0 then roundF f .rne false false 1 k
      else if k ≥ f.bias ∧ ch % 2 = 1 then (f.inf false, flOverflow ||| flInexact)
      else approx f 2 none ch ⟨false, exp2Frac fr, k - 200⟩

/-- FLOG2 (R188, R189). -/
def fLog2 (f : Fmt) (ch a : Nat) : Nat × FFlags :=
  match unpackF f a with
  | .nan sg => (f.nan, if sg then flInvalid else 0)
  | .inf true => (f.nan, flInvalid)
  | .inf false => (f.inf false, 0)
  | .fin n mm e =>
    if mm = 0 then (f.inf true, flDivzero)
    else if n then (f.nan, flInvalid)
    else
      let k := Nat.log2 mm
      let w : Int := e + k
      if mm = 2 ^ k then
        if w = 0 then (f.zero false, 0) else roundF f .rne false (w < 0) w.natAbs 0
      else
        let v : Int := w * 2 ^ 160 + log2Bits 160 (mm * 2 ^ (200 - k)) 0
        approx f 2 (some (if f.m = 52 then 53 else 24)) ch ⟨v < 0, v.natAbs, -160⟩

/-- sin(πx) for finite x = man × 2^exp, from its residue modulo 2. -/
def sinPi (f : Fmt) (ch : Nat) (n : Bool) (mm : Nat) (e : Int) (zero : Nat) : Nat × FFlags :=
  if e ≥ 0 then (zero, 0)
  else
    let one := 2 ^ (-e).toNat                 -- 1.0 in units of 2^e
    let r := mm % (2 * one)                   -- |x| mod 2
    let half := r ≥ one
    let r := if half then r - one else r      -- in [0, 1)
    if r = 0 then (zero, 0)
    else if 2 * r = one then ((roundF f .rne false (n != half) 1 0).1, 0)
    else
      let r := if 2 * r > one then one - r else r
      let (m, x) := sinNear r e
      approx f 2 none ch ⟨n != half, m, x⟩

/-- FSINPI (R188, R189). -/
def fSinpi (f : Fmt) (ch a : Nat) : Nat × FFlags :=
  match unpackF f a with
  | .nan sg => (f.nan, if sg then flInvalid else 0)
  | .inf _ => (f.nan, flInvalid)
  | .fin n mm e => if mm = 0 then (f.zero n, 0) else sinPi f ch n mm e (f.zero n)

/-- FCOSPI (R188, R189): cos πx = sin π(|x| + 1/2). -/
def fCospi (f : Fmt) (ch a : Nat) : Nat × FFlags :=
  match unpackF f a with
  | .nan sg => (f.nan, if sg then flInvalid else 0)
  | .inf _ => (f.nan, flInvalid)
  | .fin _ mm e =>
    if mm = 0 then roundF f .rne false false 1 0
    else if e ≥ 0 then roundF f .rne false (e = 0 && mm % 2 == 1) 1 0
    else if e + Nat.log2 mm < -600 then approx f 2 none ch ⟨false, 2 ^ 600 - 1, -600⟩
    else sinPi f ch false (2 * mm + 2 ^ (-e).toNat) (e - 1) (f.zero false)

end Sys2Proof.Machine
end

