-- ==== Sys2Proof/Machine/Ops.lean ====
section
/-! DEFINITION. The named operations: the geometry of the device, access to every block's state, memory bytes, energy
charges, counts, and the one operation by which a kernel is aborted (the machine's exception entry). -/

namespace Sys2Proof.Machine

open Sys2Proof

/-! ## Geometry (R14) -/

def dieOfCore (c : Nat) : Nat := c / 64
def stackOfCore (c : Nat) : Nat := 16 * (c / 64) + 4 * (((c % 64) / 8) / 2) + (c % 8) / 2
def tierOfCore (c : Nat) : Nat := 2 * (((c % 64) / 8) % 2) + c % 2

/-- The core at tier `t` of stack `k`. -/
def coreOf (k t : Nat) : Nat :=
  64 * (k / 16) + 8 * (2 * ((k % 16) / 4) + t / 2) + 2 * (k % 4) + t % 2

def dieOfStack (k : Nat) : Nat := k / 16

/-- The exclusive OR of the successive `n`-bit fields of `x` (R222); `m` fields are enough. -/
def foldX (m n x : Nat) : Nat :=
  match m with
  | 0 => 0
  | m + 1 => (x % 2 ^ n) ^^^ foldX m n (x / 2 ^ n)

/-- Memory tier of a physical address: 0 HBM4, 1 LPDDR6, 2 host; none where R204 reserves it. -/
def tierOfPa (pa : Nat) : Option Nat :=
  if pa < 2 ^ 39 then some 0
  else if 2 ^ 40 ≤ pa ∧ pa ≤ 0x27FFFFFFFFF then some 1
  else if 2 ^ 51 ≤ pa ∧ pa < 2 ^ 52 then some 2
  else none

/-- HBM4 channel of a physical address (R222). -/
def hbmChan (pa : Nat) : Nat := foldX 4 8 (pa % 2 ^ 39 / 2 ^ 12)

/-- The channel of a physical address: HBM4 0 to 255, LPDDR6 256 to 303 (R222). -/
def chanOf (pa : Nat) : Option Nat :=
  match tierOfPa pa with
  | some 0 => some (hbmChan pa)
  | some 1 => some (256 + ((pa - 2 ^ 40) / 2 ^ 12) % 48)
  | _ => none

/-- The home slice of a physical address (R222). -/
def sliceOf (pa : Nat) : Nat :=
  match tierOfPa pa with
  | some 0 =>
    let ch := hbmChan pa
    64 * (ch / 64) + ((pa / 128 % 64) ^^^ (ch % 64))
  | some 1 => foldX 5 8 ((pa - 2 ^ 40) / 128)
  | _ => foldX 6 8 (pa % 2 ^ 51 / 128)

/-- The set of the line in its slice (R222). -/
def setOf (pa : Nat) : Nat :=
  match tierOfPa pa with
  | some 0 => foldX 3 10 (pa % 2 ^ 39 / 2 ^ 13)
  | some 1 => foldX 3 10 ((pa - 2 ^ 40) / 2 ^ 15)
  | _ => foldX 4 10 (pa % 2 ^ 51 / 2 ^ 15)

/-! ## Access to the blocks -/

def State.coreSt (s : State) (c : Nat) : CoreSt := s.cores.get {} c
def State.setCore (s : State) (c : Nat) (x : CoreSt) : State := { s with cores := s.cores.set {} c x }
def State.stackSt (s : State) (k : Nat) : StackSt := s.stks.get {} k
def State.setStack (s : State) (k : Nat) (x : StackSt) : State := { s with stks := s.stks.set {} k x }
def State.dieSt (s : State) (d : Nat) : DieSt := s.dies.get {} d
def State.setDie (s : State) (d : Nat) (x : DieSt) : State := { s with dies := s.dies.set {} d x }
def State.ctx (s : State) (c : Nat) : Ctx := s.ctxs.get {} c
def State.setCtx (s : State) (c : Nat) (x : Ctx) : State := { s with ctxs := s.ctxs.set {} c x }
def State.queue (s : State) (q : Nat) : Queue := s.queues.get {} q
def State.setQueue (s : State) (q : Nat) (x : Queue) : State := { s with queues := s.queues.set {} q x }
def State.link (s : State) (k : Nat) : LinkSt := s.links.get {} k
def State.setLink (s : State) (k : Nat) (x : LinkSt) : State := { s with links := s.links.set {} k x }
def State.dom (s : State) (m : Nat) : DomSt := s.doms.get {} m
def State.setDom (s : State) (m : Nat) (x : DomSt) : State := { s with doms := s.doms.set {} m x }
def State.vf (s : State) (f : Nat) : Vf := s.vfs.get {} f
def State.setVf (s : State) (f : Nat) (x : Vf) : State := { s with vfs := s.vfs.set {} f x }
def State.chan (s : State) (c : Nat) : Chan := s.chans.get {} c
def State.setChan (s : State) (c : Nat) (x : Chan) : State := { s with chans := s.chans.set {} c x }
def State.ring (s : State) (f : Nat) : FaultRing := s.rings.get {} f
def State.setRing (s : State) (f : Nat) (x : FaultRing) : State := { s with rings := s.rings.set {} f x }
def State.scoreOf (s : State) (k : Nat) : Score := s.scores.get {} k
def State.setScore (s : State) (k : Nat) (x : Score) : State := { s with scores := s.scores.set {} k x }
def State.kern (s : State) (k : Nat) : Kernel := s.kernels.get {} k
def State.setKern (s : State) (k : Nat) (x : Kernel) : State := { s with kernels := s.kernels.put k x }
def State.team (s : State) (t : Nat) : Team := s.teams.get {} t
def State.setTeam (s : State) (t : Nat) (x : Team) : State := { s with teams := s.teams.put t x }

/-- The words of PAR_OWN that R437 defines, all ones: what partition 0 owns at reset (R436). -/
def ownAll (w : Nat) : Nat :=
  if w = 9 then 2 ^ 48 - 1 else if w = 10 then 2 ^ 20 - 1 else if w < 27 then 2 ^ 64 - 1 else 0

/-- A partition's entry: partition 0 owns every unit at reset (R436) and holds the share of R445. -/
def State.part (s : State) (p : Nat) : Part :=
  s.parts.get
    (if p = 0 then { own := (List.range 27).map fun w => (w, ownAll w), reserve := 100, share := 2800 } else {}) p
def State.setPart (s : State) (p : Nat) (x : Part) : State := { s with parts := s.parts.put p x }

/-- Bit `i` of the units that word `w` and its followers cover (R437). -/
def Part.owns (x : Part) (w i : Nat) : Bool := (x.own.get 0 (w + i / 64)).testBit (i % 64)

def Part.ownsStack (x : Part) (k : Nat) : Bool := x.owns 0 k
def Part.ownsLink (x : Part) (k : Nat) : Bool := x.owns 10 k
def Part.ownsEngine (x : Part) (d : Nat) : Bool := x.owns 10 (16 + d)
def Part.ownsQueue (x : Part) (q : Nat) : Bool := x.owns 11 q
def Part.ownsChan (x : Part) (c : Nat) : Bool := if c < 256 then x.owns 5 c else x.owns 9 (c - 256)

/-- The partition a function is bound to: the physical function to partition 0 (R436, R442). -/
def State.partOfFn (s : State) (f : Nat) : Nat := if f = 0 then 0 else (s.vf f).part

/-- The partition of a context: that of the function that created it (R374). -/
def State.partOfCtx (s : State) (c : Nat) : Nat := s.partOfFn (s.ctx c).fn

/-- The partition that owns a unit, the lowest if the table gives several. -/
def State.ownerOf (s : State) (w i : Nat) : Option Nat := (List.range 64).find? fun p => (s.part p).owns w i

def gkey (core slot : Nat) : Nat := 1024 * core + slot

def State.group? (s : State) (core slot : Nat) : Option Group := s.groups.find? (gkey core slot)
def State.setGroup (s : State) (core slot : Nat) (g : Group) : State :=
  { s with groups := s.groups.put (gkey core slot) g }
def State.dropGroup (s : State) (core slot : Nat) : State := { s with groups := s.groups.erase (gkey core slot) }

/-- Change the group of a slot, where one is resident. -/
def State.modGroup (s : State) (core slot : Nat) (f : Group → Group) : State :=
  match s.group? core slot with
  | some g => s.setGroup core slot (f g)
  | none => s

/-- The groups resident on a core, by slot. -/
def State.groupsOn (s : State) (core : Nat) : List (Nat × Group) :=
  s.groups.filterMap fun (k, g) => if k / 1024 = core then some (k % 1024, g) else none

def Group.slotAt (g : Group) (x : Nat) : PcSlot := if x = 0 then g.slot0 else g.slot1
def Group.setSlot (g : Group) (x : Nat) (p : PcSlot) : Group := if x = 0 then { g with slot0 := p } else { g with slot1 := p }

/-- Lanes of the group that have neither exited nor died. -/
def Group.liveLanes (g : Group) : Mask := ~~~(g.gone ||| g.dead)

/-- A fresh number for an object in flight. -/
def State.fresh (s : State) : Nat × State := (s.next, { s with next := s.next + 1 })

/-- A free value below `n`, drawn and counted (log 4). -/
def State.draw (s : State) (n : Nat) : Nat × State :=
  (Config.freeNat s.free % max n 1, { s with free := s.free + 1 })

/-! ## Counts and interrupts -/

/-- Count event `e` in the copy of partition `p`; 64 for events without a context tag (R449). -/
def State.countErr (s : State) (p e : Nat) : State :=
  { s with errs := s.errs.set 0 (64 * p + e) (satAdd 0xFFFFFFFF (s.errs.get 0 (64 * p + e)) 1) }

def State.countErrCtx (s : State) (c e : Nat) : State := s.countErr (s.partOfCtx c) e

/-- Index of the copy of partition `p` of CORE_REG_EVENTS[c][q]: half 0 unmapped_reads, half 1 dropped_returns. -/
def regEvKey (core q p half : Nat) : Nat := ((4 * core + q) * 64 + p) * 2 + half

def State.countRegEv (s : State) (core q c half n : Nat) : State :=
  let k := regEvKey core q (s.partOfCtx c) half
  { s with regEvents := s.regEvents.set 0 k (satAdd 0xFFFFFFFF (s.regEvents.get 0 k) n) }

/-- Index of the copy of partition `p` of CORE_MATSTALL[c]: half 0 skipped, half 1 windows_spent (R306). -/
def matKey (core p half : Nat) : Nat := (core * 64 + p) * 2 + half

def State.countMat (s : State) (core c half : Nat) : State :=
  let k := matKey core (s.partOfCtx c) half
  { s with matStall := s.matStall.set 0 k (satAdd 0xFFFFFFFF (s.matStall.get 0 k) 1) }

def State.raiseIrq (s : State) (fn vec : Nat) : State := { s with irqs := s.irqs ++ [(fn, vec)] }

def State.send (s : State) (m : Sent) : State := { s with outbox := s.outbox ++ [m] }

/-! ## Energy charges (R28, R376, R379) -/

/-- Who pays a charge: the context, where it ran, and the team whose account it joins. The Harness head's own reads and
writes of rings, records and done words are charged to nobody (R336, R475; log 15). -/
structure Payer where
  ctx : Nat
  core : Option Nat := none
  team : Option Nat := none
  pays : Bool := true
  die : Option Nat := none         -- of an engine outside the stacks: its die
deriving DecidableEq, Repr

/-- The class whose weights apply where a charge runs (R28); the I/O die's events use class 2 (log 7). -/
def State.clsOf (s : State) (c : Option Nat) : Nat :=
  match c with
  | some c => (s.stackSt (stackOfCore c)).cls
  | none => 2

def State.wt (s : State) (p : Payer) (e : Nat) : Nat := Config.weight (s.clsOf p.core) e

def Ctx.unmetered (c : Ctx) : Bool := c.rate == 0xFFFFFF

/-- The lowest level of a bucket: it is a signed 64-bit register (R374). -/
def clampLevel (x : Int) : Int := max (-(2 ^ 63)) (min (2 ^ 63 - 1) x)

/-- The allowance of the payer's context on its core (R379). -/
def State.allowOf (s : State) (p : Payer) : Nat :=
  match p.core with
  | some k => s.allow.get 0 (4096 * k + p.ctx)
  | none => 0

/-- Take `n` fJ from the allowance. -/
def State.takeAllowance (s : State) (p : Payer) (n : Nat) : State :=
  match p.core with
  | some k => { s with allow := s.allow.set 0 (4096 * k + p.ctx) (s.allowOf p - n) }
  | none => s

/-- Lower the level of a metered context. -/
def State.lowerLevel (s : State) (c n : Nat) : State :=
  let x := s.ctx c
  if x.unmetered then s else s.setCtx c { x with level := clampLevel (x.level - (n : Int)) }

/-- Debit `n` fJ: the allowance of the context on the core first, then the level (R379). -/
def State.debit (s : State) (p : Payer) (n : Nat) : State :=
  let k := min (s.allowOf p) n
  (s.takeAllowance p k).lowerLevel p.ctx (n - k)

/-- Add to CTX_ACCT charged (R376). -/
def State.addCharged (s : State) (c n : Nat) : State :=
  s.setCtx c { s.ctx c with charged := ((s.ctx c).charged + n) % 2 ^ 96 }

/-- Add to a team's running charge, where the team is still known (R164). -/
def State.addTeamCharge (s : State) (t n : Nat) : State :=
  if s.teams.has t then s.setTeam t { s.team t with charge := ((s.team t).charge + n) % 2 ^ 96 } else s

/-- Add to the charges of the window of a core's stack, by context and by kernel (R378). -/
def State.addWindow (s : State) (core c : Nat) (kid : Option Nat) (n : Nat) : State :=
  let k := stackOfCore core
  let st := s.stackSt k
  s.setStack k { st with
    charges := st.charges.set 0 c (st.charges.get 0 c + n)
    kernC := match kid with | some i => st.kernC.set 0 i (st.kernC.get 0 i + n) | none => st.kernC }

/-- Charge `n` fJ to the payer: the bucket, CTX_ACCT charged, the team's running charge; `row` marks an event that
ran in the stack's cores and so joins C(i) of the window (R376, R378). -/
def State.charge (s : State) (p : Payer) (n : Nat) (row : Bool := true) : State :=
  if !p.pays then s
  else
    let s := (s.debit p n).addCharged p.ctx n
    let s := match p.team with
      | some t => s.addTeamCharge t n
      | none => s
    match p.core, row with
    | some k, true => s.addWindow k p.ctx ((p.team.bind s.teams.find?).map fun t => t.kid) n
    | _, _ => s

/-- Charge to the account of a die (R376). -/
def State.chargeDie (s : State) (d n : Nat) : State :=
  s.setDie d { s.dieSt d with account := (s.dieSt d).account + n }

/-- The context may issue on the core: it is unmetered, or allowance is left there (R65, R379). -/
def State.hasAllowance (s : State) (core c : Nat) : Bool :=
  (s.ctx c).unmetered || s.allow.get 0 (4096 * core + c) > 0

/-! ## Memory bytes (R204, R224) -/

/-- `n` bytes of a byte array from `a`; a byte not listed reads 0 (log 3). -/
def readBytes (t : Tbl Byte) (a : Nat) : Nat → List Byte
  | 0 => []
  | n + 1 => t.get 0 a :: readBytes t (a + 1) n

/-- The canonical form of an array after writing bytes from `a`. -/
def writeBytes (t : Tbl Byte) (a : Nat) : List Byte → Tbl Byte
  | [] => t
  | b :: r => writeBytes (t.set 0 a b) (a + 1) r

def readNat (t : Tbl Byte) (a n : Nat) : Nat := leNat (readBytes t a n)

/-- The canonical form of a byte array: keys strictly rising, no entry equal to what an unlisted address reads as. -/
def Memory.sorted : Tbl Byte → Bool
  | [] => true
  | [_] => true
  | (a, _) :: (b, y) :: r => a < b && Memory.sorted ((b, y) :: r)

def Memory.wf (t : Tbl Byte) : Bool := Memory.sorted t && t.all fun e => e.2 != 0

def sramKey (core a : Nat) : Nat := 2 ^ 32 * core + a
def tileKey (core tile a : Nat) : Nat := 2 ^ 32 * core + 2 ^ 14 * tile + a

/-- Add or remove one element of a sorted list without repeats. -/
def setIns : List Nat → Nat → List Nat
  | [], k => [k]
  | x :: r, k => if k < x then k :: x :: r else if k = x then x :: r else x :: setIns r k

def setDel (l : List Nat) (k : Nat) : List Nat := l.filter (· != k)

/-! ## Suspicion scores and retirement (R401, R403, R404) -/

/-- Rind records a retirement: in the log, or held while the log is full (R404). `k` is the score's index. A log that
becomes full changes RND_STATUS, which raises vector 2 (R455). -/
def State.recordRetirement (s : State) (die kind cause unit k : Nat) : State :=
  let x := s.scoreOf k
  let r : RetRec := { seq := s.logSeq, kind := kind, cause := cause, unit := unit, score := x.score,
                      pattern := x.lastFail, awlClock := (s.dieSt die).awl, snapshot := s.snpSeq }
  let s := { s with logSeq := s.logSeq + 1 }
  if s.log.length < Config.logRoom then { s with log := s.log ++ [r] }
  else if s.log.length = Config.logRoom then ({ s with log := s.log ++ [r] } : State).raiseIrq 0 2
  else { s with logHeld := s.logHeld ++ [r] }

/-- Tiers of a stack in DRAIN or TEST (R392). -/
def State.leasing (s : State) (k : Nat) : Bool :=
  (List.range 4).any fun t => let x := (s.coreSt (coreOf k t)).st; x == .drain || x == .test

/-- The die and the record kind of a scored unit (R402, R404). -/
def scoreDie (k : Nat) : Nat :=
  if k < 256 then k / 64 else if k < 272 then (k - 256) / 4 else if k < 528 then (k - 272) / 64 else 0

/-- A score rises; at 4096 a core drains to be retired, a link is retired at once, a channel waits for the driver
(R391, R401, R403). -/
def State.addScore (s : State) (k n : Nat) (cause : Nat := 2) : State :=
  let x := s.scoreOf k
  if x.retired then s
  else
    let v := satAdd 0xFFFF x.score n
    let s := s.setScore k { x with score := v }
    if v < 4096 then s
    else if k < 256 then
      let c := s.coreSt k
      if c.st == .service && !s.leasing (stackOfCore k) then
        s.setCore k { c with st := .drain, retiring := true,
                             grace := (s.stackSt (stackOfCore k)).clock + 2 ^ (s.dieSt (dieOfCore k)).graceLog }
      else s.setCore k { c with retiring := true }
    else if k < 272 then
      let s := s.recordRetirement (scoreDie k) 2 cause (k - 256) k
      let s := s.setScore k { s.scoreOf k with retired := true }
      s.setLink (k - 256) { s.link (k - 256) with st := .retired }
    else s.setScore k { s.scoreOf k with pending := true }

/-- A corrected or uncorrectable error of a unit (R279, R401, R449). -/
def State.unitError (s : State) (k : Nat) (uncorrectable : Bool) : State :=
  if uncorrectable then (s.countErr 64 4).addScore k 512 else (s.countErr 64 3).addScore k 1

/-! ## Killing groups and aborting kernels (R65, R350, R351) -/

/-- The next generation tag of a slot: the next value modulo 256 that no outstanding request of the slot carries
(R102). `n` bounds the search. -/
def nextTagFrom (used : List Nat) : Nat → Nat → Nat
  | 0, t => t % 256
  | n + 1, t => if used.contains (t % 256) then nextTagFrom used n (t + 1) else t % 256

def State.tagsOut (s : State) (core slot : Nat) : List Nat :=
  s.acc.filterMap fun (_, a) => if a.core = core ∧ a.slot = slot then some a.tag else none

def State.newTag (s : State) (core slot : Nat) : Nat × State :=
  let c := s.coreSt core
  let t := nextTagFrom (s.tagsOut core slot) 256 (c.tags.get 0 slot + 1)
  (t, s.setCore core { c with tags := c.tags.set 0 slot t })

/-- Kill or free the group of a slot: the slot takes a new tag and is empty (R65, R102). -/
def State.killGroup (s : State) (core slot : Nat) : State := ((s.newTag core slot).2).dropGroup core slot

def State.killGroups (s : State) (core : Nat) : List Nat → State
  | [] => s
  | x :: r => (s.killGroup core x).killGroups core r

/-- Teams of a kernel, by their numbers. -/
def State.teamsOf (s : State) (kid : Nat) : List (Nat × Team) := s.teams.filter fun e => e.2.kid == kid

def Kernel.total_ (k : Kernel) : Int := (k.charged : Int) + k.correction + k.footprint + k.filler

/-- The part of a team's running charge that its kernel's total does not hold yet (R347): a 96-bit count (R163). -/
def Team.unposted (t : Team) : Nat := (t.charge + 2 ^ 96 - t.posted) % 2 ^ 96

/-- The team holds something of its core: groups, or its scratchpad for copies and matrix work in flight (log 16) or for its
cluster (R264). A killed team holds nothing (R351). -/
def Team.here (t : Team) : Bool := t.image.isNone && (!t.live.isEmpty || t.scratchLen != 0)

/-- The kernel's total over every team of it, with what its resident teams have not yet posted (R347, log 15). -/
def State.totalNow (s : State) (kid : Nat) (k : Kernel) : Int :=
  (s.teamsOf kid).foldl (fun n e => n + (e.2.unposted : Int)) k.total_

/-- A queue in IDLE whose kernel has a record to place, or a team to restore, leaves IDLE (R363). -/
def State.leaveIdle (s : State) (q : Nat) : State :=
  let x := s.queue q
  if x.enable && x.idle then s.setQueue q { x with idle := false } else s

/-- A PARKED context whose level has come back to `resume` is ACTIVE again (R375). -/
def State.unpark (s : State) (c : Nat) : State :=
  let x := s.ctx c
  if x.st == .parked && (x.unmetered || decide (x.level ≥ (x.resume * 2 ^ 30 : Nat))) then s.setCtx c { x with st := .active }
  else s

/-- The allowance of a context returns to its bucket when the core holds no more groups of it (R379). -/
def State.returnAllowance (s : State) (core c : Nat) : State :=
  if (s.groupsOn core).any fun e => (s.team e.2.team).ctx == c then s
  else
    let n := s.allow.get 0 (4096 * core + c)
    let x := s.ctx c
    let s := { s with allow := s.allow.erase (4096 * core + c) }
    if n = 0 ∨ x.unmetered then s else (s.setCtx c { x with level := clampLevel (x.level + n) }).unpark c

/-- Accesses that serve only the group's own issue: they end with it. -/
def AccOp.endsWithGroup : AccOp → Bool
  | .fetch | .record | .spawn | .pop _ => true
  | _ => false

/-- Step 2 of R351 for one team: its groups are killed, its matrix work and copies end (R307, R314), its image is
discarded. Its outstanding returns will be dropped by tag; its stores already issued are performed; an access that waits on a
fault is never re-issued (R362). -/
def State.killTeam (s : State) (uid : Nat) : State :=
  let t := s.team uid
  let s := s.killGroups t.core t.slots
  let s := { s with
    acc := s.acc.filter fun e => !(e.2.team == uid && (e.2.fault.isSome || e.2.op.endsWithGroup))
    mats := s.mats.filter fun e => e.2.team != uid
    copies := s.copies.filter fun e => e.2.team != uid
    replies := s.replies.filter fun r => r.team != uid
    dbarHeld := s.dbarHeld.filter (· != uid) }
  let s := s.setTeam uid { t with slots := [], image := none, live := [], evict := false, scratchLen := 0, tiles := 0 }
  s.returnAllowance t.core t.ctx

def State.killTeams (s : State) : List Nat → State
  | [] => s
  | u :: r => (s.killTeam u).killTeams r

/-- Kernel states from which an abort event acts (R349). -/
def KState.abortable : KState → Bool
  | .queued | .dispatching | .running => true
  | _ => false

/-- An abort event reaches a kernel (R349, R350, R351): the first recorded sets status and report; the kernel enters
ABORTING, its groups are KILLED, its pool is emptied and no further record or retirement step is taken; later events
are counted and ignored. ABORT_CLEANUP finishes it. -/
def abortKernel (s : State) (kid : Nat) (info : AbortInfo) : State :=
  match s.kernels.find? kid with
  | none => s
  | some k =>
    if k.st.abortable then
      let s := s.setKern kid { k with st := .aborting, abort := some info, pool := [], outside := [], joins := [],
                                      total := s.totalNow kid k }
      let s := { s with sets := s.sets.filter fun x => x.kid != kid }
      s.killTeams ((s.teamsOf kid).map Prod.fst)
    else s.countErrCtx k.ctx 2

end Sys2Proof.Machine
end

