-- ==== Sys2Proof/Machine/Mem.lean ====
section
/-! DEFINITION. Memory: page table entries and the walk (R202 to R206, R211, R214), L2 and its charges (R21, R282), L1
(R210, R212), and the reading and writing of bytes at the home slice with poison (R280). -/

namespace Sys2Proof.Machine

open Sys2Proof

/-! ## Page table entries (R203) -/

def pteValid (e : Nat) : Bool := e.testBit 0
def pteLeaf (e : Nat) : Bool := e.testBit 1
def pteRead (e : Nat) : Bool := e.testBit 2
def pteWrite (e : Nat) : Bool := e.testBit 3
def pteExec (e : Nat) : Bool := e.testBit 4
def pteOrder (e : Nat) : Nat := bitsN e 6 5
def pteMlock (e : Nat) : Bool := e.testBit 7
def pteTier (e : Nat) : Nat := bitsN e 11 10
def ptePa (e : Nat) : Nat := bitsN e 51 12
def pteFormat (e : Nat) : Nat := bitsN e 65 64
def pteGroup (e : Nat) : Nat := bitsN e 67 66
def pteScale (e : Nat) : Nat := bitsN e 115 68 * 16
def pteWorld (e : Nat) : Nat := bitsN e 119 116
def pteKey (e : Nat) : Nat := bitsN e 127 120

/-- Elements per scale group (R203). -/
def groupSize (e : Nat) : Nat := 32 * 2 ^ pteGroup e

def pageSize (level : Nat) : Nat := 2 ^ (12 + 9 * level)

/-- A range lies wholly in HBM4 or wholly in LPDDR6. -/
def inDevice (a n : Nat) : Bool :=
  match tierOfPa a, tierOfPa (a + n - 1) with
  | some x, some y => x == y && x < 2
  | _, _ => false

/-- Some retired channel holds part of the page (R406). -/
def State.inRetired (s : State) (pa size : Nat) : Bool :=
  s.scores.any fun (k, x) => x.retired && 272 ≤ k &&
    (List.range (size / 4096)).any fun i => chanOf (pa + 4096 * i) == some (k - 272)

/-- A valid entry is malformed (R205, R406). -/
def State.malformed (s : State) (e level : Nat) : Bool :=
  let size := pageSize level
  let pa := ptePa e * 4096
  bitsN e 63 52 != 0 || pteTier e == 3 || pteOrder e == 3 || pteFormat e == 3 || pteGroup e == 3 ||
  if pteLeaf e then
    level > 2 || pa % size != 0 ||
    tierOfPa pa != some (pteTier e) || tierOfPa (pa + size - 1) != some (pteTier e) ||
    (pteFormat e == 0 && (pteGroup e != 0 || pteScale e != 0)) ||
    (pteFormat e != 0 &&
      !inDevice (pteScale e) (4 * ((if pteFormat e == 2 then 2 * size else size) / groupSize e))) ||
    (pteWorld e == 0) != (pteKey e == 0) ||
    s.inRetired pa size
  else
    level == 0 || bitsN e 11 2 != 0 || e / 2 ^ 64 != 0 || ptePa e % 2 != 0 || !inDevice pa 8192

/-! ## L2 (R21, R282) -/

/-- The event of MTR_WEIGHT for an L2 sector: local die or another; the I/O die lies apart from every slice (R323). -/
def l2Event (p : Payer) (pa : Nat) : Nat :=
  match (match p.core with | some c => some (dieOfCore c) | none => p.die) with
  | some d => if d = sliceOf pa / 64 then 14 else 15
  | none => 15

/-- The burst weight's event of a tier (R282). -/
def burstEvent (pa : Nat) : Nat :=
  match tierOfPa pa with
  | some 0 => 16
  | some 1 => 17
  | _ => 18

inductive L2Mode where
  | read | full | part
deriving DecidableEq, Repr

/-- Write a line back to memory and drop it: the bursts are charged to the context that last dirtied it (R282). -/
def State.dropL2 (s : State) (line : Nat) : State :=
  match s.l2.find? line with
  | none => s
  | some e =>
    let n := (if e.dirtyS % 4 == 0 then 0 else 1) + (if e.dirtyS / 4 == 0 then 0 else 1)
    let s := match e.dirty with
      | some c => s.charge { ctx := c } (n * Config.weight 2 (burstEvent (line * 128))) false
      | none => s
    { s with l2 := s.l2.erase line }

def State.dropL2s (s : State) : List Nat → State
  | [] => s
  | x :: r => (s.dropL2 x).dropL2s r

/-- An acquire at .sys drops L2's lines of host memory (R233). -/
def State.dropHost (s : State) : State := s.dropL2s ((s.l2.map Prod.fst).filter fun l => tierOfPa (l * 128) == some 2)

/-- The lines held in the set of `pa` in its slice (R222). -/
def State.setMates (s : State) (pa : Nat) : Tbl L2Line :=
  s.l2.filter fun x => sliceOf (x.1 * 128) == sliceOf pa && setOf (x.1 * 128) == setOf pa

/-- The ways that a line may take: 12 to 15 where another partition owns the slice, any other slice's all (R439). -/
def State.waysFor (s : State) (p : Payer) (pa : Nat) : List Nat :=
  match s.ownerOf (1 + sliceOf pa / 64) (sliceOf pa % 64) with
  | some o => if o = s.partOfCtx p.ctx then List.range 16 else [12, 13, 14, 15]
  | none => List.range 16

/-- A way for the line of `pa`: its own, else an empty one, else that of an unpinned line, which leaves; which one is free
(R3, R222; log 4). None where every way that it may take holds a pinned line. -/
def State.l2Room (s : State) (p : Payer) (pa : Nat) : Option Nat × State :=
  match s.l2.find? (pa / 128) with
  | some e => (some e.way, s)
  | none =>
    let ways := s.waysFor p pa
    let mates := s.setMates pa
    let open_ := ways.filter fun w => !mates.any fun e => e.2.way == w
    let loose := mates.filter fun e => ways.contains e.2.way && !s.mats.any fun m => m.2.pins.contains e.1
    if open_.isEmpty then
      let (n, s) := s.draw loose.length
      match loose[n]? with
      | some (x, e) => (some e.way, s.dropL2 x)
      | none => (none, s)
    else
      let (n, s) := s.draw open_.length
      (open_[n]?, s)

/-- Serve one 32-byte sector at its home slice: the charge, the fill of a missing 64-byte burst, presence and dirt. The bytes
of host memory change at once, but what a dirty line costs is charged when it is written back (R282, log 15). A line that finds
no way is served and not held. -/
def State.touchL2 (s : State) (p : Payer) (pa : Nat) (m : L2Mode) : State :=
  let room := s.l2Room p pa
  let s := room.2
  let line := pa / 128
  let sec := pa / 32 % 4
  let e := s.l2.get {} line
  let s := s.charge p (s.wt p (l2Event p pa)) false
  let miss := !e.valid.testBit sec && m != .full
  let s := if miss then s.charge p (s.wt p (burstEvent pa)) false else s
  let valid := if miss then e.valid ||| (3 <<< (2 * (sec / 2))) else e.valid ||| (1 <<< sec)
  let copy := match tierOfPa pa == some 2, e.copy with
    | false, c => c
    | true, none => some (readBytes s.mem (line * 128) 128)
    | true, some old =>
      if miss then
        some ((List.range 128).map fun i =>
          if i / 64 == sec / 2 && !e.valid.testBit (i / 32) then Tbl.get 0 s.mem (line * 128 + i) else old.getD i 0)
      else some old
  let wr := m != .read
  let e := { e with
    valid := valid
    copy := copy
    dirtyS := if wr then e.dirtyS ||| (1 <<< sec) else e.dirtyS
    dirty := if wr then some p.ctx else e.dirty }
  match room.1 with
  | some w => { s with l2 := s.l2.put line { e with way := w } }
  | none => if wr then s.charge p (s.wt p (burstEvent pa)) false else s

/-- The byte at a physical address as the home slice gives it, in the clear: a host line may hold an older copy (R233). -/
def State.clearByte (s : State) (pa : Nat) : Byte :=
  match tierOfPa pa, s.l2.find? (pa / 128) with
  | some 2, some { valid := v, copy := some b, .. } =>
    if v.testBit (pa / 32 % 4) then b.getD (pa % 128) 0 else Tbl.get 0 s.mem pa
  | _, _ => Tbl.get 0 s.mem pa

/-- The number of the key that Rind holds in a slot; slot 0 stands for no encryption. -/
def State.keyNo (s : State) (slot : Nat) : Nat := if slot = 0 then 0 else s.keyIds.get 1 slot

/-- Byte `i` of the sector `x` under key `k`, where it holds `old` under key `w`: what was written under that key, else a free
byte (R207, log 11). -/
def recode (k w x : Nat) (old : List Byte) (i : Nat) : Byte :=
  if w = k then old.getD i 0 else BitVec.ofNat 8 (Config.cipherByte k w x (leNat old) i)

/-- The byte at a physical address under a key. -/
def State.keyByte (s : State) (k pa : Nat) : Byte :=
  let w := s.sealKey.get 0 (pa / 32)
  if w = k then s.clearByte pa
  else recode k w (pa / 32) ((List.range 32).map fun i => s.clearByte (pa / 32 * 32 + i)) (pa % 32)

/-- The byte at a physical address as memory holds it, with no key. -/
def State.memByte (s : State) (pa : Nat) : Byte := s.keyByte 0 pa

/-- Store one byte at the home slice, in the clear. -/
def State.putClear (s : State) (pa : Nat) (b : Byte) : State :=
  let s := { s with mem := Tbl.set 0 s.mem pa b }
  match s.l2.find? (pa / 128) with
  | some e =>
    match e.copy with
    | some l => { s with l2 := s.l2.put (pa / 128) { e with copy := some (setAt l (pa % 128) b) } }
    | none => s
  | none => s

/-- The sector cipher takes a sector under key `k` to merge a store into it: its other bytes are from then on what that key read
of them (R281). -/
def State.rekey (s : State) (k x : Nat) : State :=
  let w := s.sealKey.get 0 x
  if w = k then s
  else
    let under (old : List Byte) : List Byte := (List.range 32).map fun i => recode k w x old i
    { s with
      mem := writeBytes s.mem (x * 32) (under (readBytes s.mem (x * 32) 32))
      sealKey := Tbl.set 0 s.sealKey x k
      l2 := match s.l2.find? (x / 4) with
        | some e =>
          match e.copy with
          | some l =>
            let new := under ((l.drop (x % 4 * 32)).take 32)
            s.l2.put (x / 4) { e with copy := some ((List.range 128).map fun i =>
              if i / 32 == x % 4 then new.getD (i % 32) 0 else l.getD i 0) }
          | none => s.l2
        | none => s.l2 }

/-- Store one byte under a key. -/
def State.putKeyed (s : State) (k pa : Nat) (b : Byte) : State := (s.rekey k (pa / 32)).putClear pa b

/-- Store one byte with no key. -/
def State.putByte (s : State) (pa : Nat) (b : Byte) : State := s.putKeyed 0 pa b

/-- Store bytes, each under a key at an address. -/
def State.putAll (s : State) : List (Nat × Nat × Byte) → State
  | [] => s
  | (k, a, b) :: r => (s.putKeyed k a b).putAll r

def State.putBytes (s : State) (l : List (Nat × Byte)) : State := s.putAll (l.map fun e => (0, e.1, e.2))

/-- Sectors that `n` bytes from `a` touch. -/
def sectorsOf (a n : Nat) : List Nat :=
  if n = 0 then [] else (List.range ((a + n - 1) / 32 - a / 32 + 1)).map fun i => a / 32 + i

/-- The byte at a physical address under a key, past what L2 holds of it. -/
def State.under (s : State) (k pa : Nat) : Byte :=
  let w := s.sealKey.get 0 (pa / 32)
  if w = k then Tbl.get 0 s.mem pa else recode k w (pa / 32) (readBytes s.mem (pa / 32 * 32) 32) (pa % 32)

/-- `n` bytes of memory as a number, past what L2 holds, with no key. -/
def State.readMem (s : State) (pa n : Nat) : Nat := leNat ((List.range n).map fun i => s.under 0 (pa + i))

/-- Write memory past what L2 holds, with no key. -/
def State.writeMem (s : State) (pa : Nat) (bs : List Byte) : State :=
  let keyed := (sectorsOf pa bs.length).filter fun x => s.sealKey.get 0 x != 0
  { s with
    mem := writeBytes (keyed.foldl (fun m x => writeBytes m (x * 32) ((List.range 32).map fun i => s.under 0 (x * 32 + i))) s.mem)
      pa bs
    sealKey := keyed.foldl (fun t x => Tbl.set 0 t x 0) s.sealKey }

/-- Sectors whose ECC word is poisoned (R280). -/
def State.poisoned (s : State) (pa : Nat) : Bool := s.poison.contains (pa / 32)

/-- Poison after a store: whole words are cleared, a partly covered poisoned word stays so and is counted (R280). -/
def State.storePoison (s : State) (c sector : Nat) (whole : Bool) : State :=
  if s.poison.contains sector then
    if whole then { s with poison := setDel s.poison sector } else s.countErrCtx c 5
  else s

/-! ## The stack TLB and the walk (R202, R211, R214) -/

/-- An address that was reached through this chip's own window (R200): the same translation, but no L1 line (log 15). -/
def viaWindow (va : Nat) : Nat := 2 ^ 57 + va % 2 ^ 57

/-- The virtual address behind `viaWindow`. -/
def plainVa (va : Nat) : Nat := va % 2 ^ 57

/-- The virtual number of an address at a level (R202). -/
def vnumOf (va level : Nat) : Nat := plainVa va / pageSize level

def State.tlbFind (s : State) (stack ctx level vnum : Nat) (leaf : Bool) : Option TlbEntry :=
  s.tlb.find? fun e => e.stack == stack && e.ctx == ctx && e.level == level && e.vnum == vnum && pteLeaf e.pte == leaf

/-- The leaf that translates `va`, and its level. -/
def State.tlbLeaf (s : State) (stack ctx va : Nat) : Option TlbEntry :=
  [0, 1, 2].findSome? fun l => s.tlbFind stack ctx l (vnumOf va l) true

/-- The lowest cached non-leaf entry on the path of `va` (R202). -/
def State.tlbTable (s : State) (stack ctx va : Nat) : Option TlbEntry :=
  [1, 2, 3, 4].findSome? fun l => s.tlbFind stack ctx l (vnumOf va l) false

/-- Install an entry: the oldest leaves its kind's part of the TLB when that is full (R211). -/
def State.tlbPut (s : State) (e : TlbEntry) : State :=
  let same := fun (x : TlbEntry) => x.stack == e.stack && x.ctx == e.ctx && x.level == e.level && x.vnum == e.vnum &&
    pteLeaf x.pte == pteLeaf e.pte
  let rest := s.tlb.filter fun x => !same x
  let kind := fun (x : TlbEntry) => x.stack == e.stack && pteLeaf x.pte == pteLeaf e.pte
  let room := if pteLeaf e.pte then 8191 else 511
  let excess := (rest.filter kind).drop room
  { s with tlb := e :: rest.filter fun x => !excess.contains x }

/-- How a walk ends. -/
inductive WalkEnd where
  | leaf (level pte at_ : Nat)
  | fault (cause detail level : Nat)
deriving DecidableEq, Repr

/-- The loop of R202 from level `l - 1` with the table at `t`: how it ends, the entries read and the tables passed. -/
def State.walkLoop (s : State) (va : Nat) : Nat → Nat → WalkEnd × List Nat × List (Nat × Nat)
  | 0, _ => (.fault 1 1 0, [], [])
  | l + 1, t =>
    let a := t + 16 * (va / pageSize l % 512)
    let e := leNat ((List.range 16).map fun i => s.memByte (a + i))
    if !pteValid e then (.fault 1 0 l, [a], [])
    else if s.malformed e l then (.fault 1 1 l, [a], [])
    else if pteLeaf e then (if pteMlock e then (.fault 2 0 l, [a], []) else (.leaf l e a, [a], []))
    else
      let r := s.walkLoop va l (ptePa e * 4096)
      (r.1, a :: r.2.1, (l, e) :: r.2.2)

/-- Each entry read is charged as one sector at the level that serves it (R202). -/
def State.chargeWalk (s : State) (p : Payer) : List Nat → State
  | [] => s
  | a :: r => (s.touchL2 p a .read).chargeWalk p r

def State.tlbPutTables (s : State) (stack ctx va : Nat) : List (Nat × Nat) → State
  | [] => s
  | (l, e) :: r => (s.tlbPut { stack := stack, ctx := ctx, level := l, vnum := vnumOf va l, pte := e }).tlbPutTables
      stack ctx va r

/-- The walk of a context's `va` for a stack's TLB, with accessed and dirty set where a leaf is installed. -/
def State.walk (s : State) (p : Payer) (stack va : Nat) (wr : Bool) : WalkEnd × State :=
  let c := s.ctx p.ctx
  if !c.enable then (.fault 1 2 4, s)
  else
    let start := match s.tlbTable stack p.ctx va with
      | some e => (e.level, ptePa e.pte * 4096)
      | none => (5, c.root * 8192)
    let (r, reads, tables) := s.walkLoop va start.1 start.2
    let s := (s.chargeWalk p reads).tlbPutTables stack p.ctx va tables
    match r with
    | .leaf l e a =>
      let e' := e ||| (1 <<< 8) ||| (if wr then 1 <<< 9 else 0)
      let s := if e' = e then s else s.putBytes ((List.range 8).map fun i => (a + i, BitVec.ofNat 8 (e' >>> (8 * i))))
      (r, s.tlbPut { stack := stack, ctx := p.ctx, level := l, vnum := vnumOf va l, pte := e', wr := wr })
    | .fault .. => (r, s)

/-- A translation at the stack TLB, walking on a miss (a leaf installed for reads misses for a write, R214); none while the
context's tables are disabled (R201). -/
def State.translate (s : State) (p : Payer) (stack va : Nat) (wr : Bool) : WalkEnd × State :=
  if !(s.ctx p.ctx).enable then (.fault 1 2 4, s)
  else
    match s.tlbLeaf stack p.ctx va with
    | some e => if wr && !e.wr then s.walk p stack va wr else (.leaf e.level e.pte 0, s)
    | none => s.walk p stack va wr

/-- The translation that the stack TLB holds, without walking. -/
def State.cached (s : State) (ctx stack va : Nat) (wr : Bool) : Option (Nat × Nat) :=
  match (s.ctx ctx).enable, s.tlbLeaf stack ctx va with
  | true, some e => if wr && !e.wr then none else some (e.level, e.pte)
  | _, _ => none

def paOf (level pte va : Nat) : Nat := ptePa pte * 4096 + va % pageSize level

inductive AccKind where
  | read | write | both | exec
deriving DecidableEq, Repr

/-- The checks of R206, in its order, and the IDE stream of a protected context's host access (R454). -/
def State.permit (s : State) (ctx pte : Nat) (k : AccKind) : Option Cause :=
  if (k == .read || k == .both) && !pteRead pte then some .read
  else if (k == .write || k == .both) && !pteWrite pte then some .write
  else if k == .exec && !pteExec pte then some .noExecute
  else if pteWorld pte != 0 && pteWorld pte != (s.ctx ctx).world then some .world
  else if pteTier pte == 2 && (s.ctx ctx).world != 0 && !(s.vf (s.ctx ctx).fn).secure then some .world
  else if pteKey pte != 0 && s.keys.find? (pteKey pte) != some (pteWorld pte) then some .key
  else none

/-- The checking period has touched a sector of a page under a key (R388). -/
def State.noteKey (s : State) (key x : Nat) : State := { s with touched := s.touched.put x key }

/-- The same, by the page's key slot, 0 for none. -/
def State.noteTouch (s : State) (slot x : Nat) : State := if slot = 0 then s else s.noteKey (s.keyNo slot) x

/-- Serve one sector of a page at its home slice, with the sector cipher where the page has a key slot, as every page of a world
but 0 has: once for each sector delivered or stored, twice for a merge (R281, R282). -/
def State.serveL2 (s : State) (p : Payer) (slot : Nat) (pa : Nat) (m : L2Mode) : State :=
  let s := if slot = 0 then s else s.charge p ((if m == .part then 2 else 1) * s.wt p 13) false
  (s.noteTouch slot (pa / 32)).touchL2 p pa m

/-! ## L1 (R210, R212) -/

/-- The line under an address, a context and its world; none while the context's tables are disabled (R201, R210). -/
def State.l1Find (s : State) (core ctx vline : Nat) : Option L1Line :=
  if (s.ctx ctx).enable then
    s.l1.find? fun x => x.core == core && x.ctx == ctx && x.vline == vline && x.world == (s.ctx ctx).world
  else none

/-- The line's attributes permit an access of its sector `sec` (R210): a store needs no bytes of it. -/
def L1Line.permits (x : L1Line) (k : AccKind) (sec : Nat) : Bool :=
  match k with
  | .read => x.read && x.valid.testBit sec
  | .write => x.write
  | .both => x.read && x.write
  | .exec => false

/-- L1 holds the line of `va` and permits the access: it needs no translation (R210, R229). -/
def State.l1Has (s : State) (core ctx va : Nat) (k : AccKind) : Option L1Line :=
  match s.l1Find core ctx (va / 128) with
  | some x => if x.order != 0 && x.permits k (va / 32 % 4) then some x else none
  | none => none

/-- A load of the sector at `va` is served by L1: held, readable, and not on an S page (R210, R229). -/
def State.l1Hit (s : State) (core ctx va : Nat) : Option L1Line := s.l1Has core ctx va .read

/-- Fill one sector of an L1 line from the home slice; every other alias of the line in the stack is dropped first. -/
def State.l1Fill (s : State) (core ctx va level pte : Nat) : State :=
  let pa := paOf level pte va
  if pteOrder pte == 0 || s.poisoned pa || va / 2 ^ 57 != 0 then s
  else
    let vline := va / 128
    let pline := pa / 128
    let kept := s.l1.filter fun x => !(stackOfCore x.core == stackOfCore core && x.pline == pline &&
      (x.vline != vline || x.ctx != ctx))
    let old := kept.find? fun x => x.core == core && x.ctx == ctx && x.vline == vline && x.pline == pline
    let base : L1Line := old.getD
      { core := core, vline := vline, ctx := ctx, world := (s.ctx ctx).world, pline := pline, read := pteRead pte,
        write := false, order := pteOrder pte, format := pteFormat pte, tier := pteTier pte,
        key := pteKey pte, bytes := List.replicate 128 0 }
    let sec := va / 32 % 4
    let line := { base with
      valid := base.valid ||| (1 <<< sec)
      bytes := (List.range 128).map fun i => if i / 32 == sec then s.keyByte (s.keyNo (pteKey pte)) (pline * 128 + i) else base.bytes.getD i 0 }
    let room := (16 - (s.coreSt core).scratch) * 8192
    let rest := kept.filter fun x => !(x.core == core && x.ctx == ctx && x.vline == vline)
    let excess := (rest.filter fun x => x.core == core).drop (room - 1)
    { s with l1 := line :: rest.filter fun x => !excess.contains x }

/-- Drop L1 lines of a context on a core. -/
def State.l1Drop (s : State) (core ctx : Nat) (f : L1Line → Bool) : State :=
  { s with l1 := s.l1.filter fun x => !(x.core == core && x.ctx == ctx && f x) }

/-- A store updates the L1 line of its core, which takes the write attribute of its leaf; one whose attributes no
longer permit the hit is dropped, and so is one that holds the place under another address, which the slot's next load
might take for its own earlier write (R210, R214, R226, R267). -/
def State.l1Store (s : State) (core ctx va pa order format : Nat) (wr : Bool) (b : Byte) : State :=
  { s with l1 := s.l1.filterMap fun x =>
      if x.core == core && x.ctx == ctx && x.vline == va / 128 then
        if x.world != (s.ctx ctx).world || x.order != order || x.format != format then none
        else some { x with write := wr, bytes := setAt x.bytes (va % 128) b }
      else if x.core == core && x.pline == pa / 128 then none
      else some x }

/-- The drops of an acquire at `scope` by a core (R233, R250); a fence at .sys also drops U lines (R230). -/
def State.acquire (s : State) (core ctx scope : Nat) : State :=
  let s := if scope ≥ 2 then s.l1Drop core ctx (fun x => x.order == 1) else s
  let s := if scope ≥ 4 then s.l1Drop core ctx (fun x => x.vline * 128 ≥ 2 ^ 56) else s
  if scope ≥ 5 then s.dropHost else s

/-- Pages (4 KiB units) that `n` bytes from `a` touch; one unit at least. -/
def unitsOf (a n : Nat) : List Nat :=
  (List.range ((a + max n 1 - 1) / 4096 - a / 4096 + 1)).map fun i => (a / 4096 + i) * 4096

/-! ## Accesses of engines and of the Harness head -/

/-- Translate each 4 KiB unit that a range touches: the first fault, or the state after the walks. -/
def State.walkUnits (s : State) (p : Payer) (stack : Nat) (k : AccKind) : List Nat → (Option (Nat × Nat × Nat × Nat × Option Cause)) × State
  | [] => (none, s)
  | u :: r =>
    match s.translate p stack u (k == .write || k == .both) with
    | (.leaf _ e _, s') =>
      match s'.permit p.ctx e k with
      | some c => (some (u, 0, 0, 0, some c), s')
      | none => s'.walkUnits p stack k r
    | (.fault c d l, s') => (some (u, c, d, l, none), s')

/-- The leaf of `va` after a successful walk, with its level. -/
def State.leafVia (s : State) (ctx stack va : Nat) : Nat × Nat :=
  match s.tlbLeaf stack ctx va with
  | some e => (e.level, e.pte)
  | none => (0, 0)

/-- The physical address of `va` after a successful walk. -/
def State.paVia (s : State) (ctx stack va : Nat) : Nat := paOf (s.leafVia ctx stack va).1 (s.leafVia ctx stack va).2 va

/-- The key of its page, by number. -/
def State.keyVia (s : State) (ctx stack va : Nat) : Nat := s.keyNo (pteKey (s.leafVia ctx stack va).2)

/-- The byte behind `va` after a successful walk. -/
def State.byteVia (s : State) (ctx stack va : Nat) : Byte := s.keyByte (s.keyVia ctx stack va) (s.paVia ctx stack va)

/-- Read `n` bytes at `va` of a context at the home slices, one sector at a time; a fault gives its address, cause,
detail, level, and the permission cause where that failed. -/
def State.engineRead (s : State) (p : Payer) (stack va n : Nat) :
    Except (Nat × Nat × Nat × Nat × Option Cause) (List Byte) × State :=
  match s.walkUnits p stack .read (unitsOf va n) with
  | (some f, s') => (.error f, s')
  | (none, s') =>
    let s' := (sectorsOf va n).foldl (fun t x =>
      let e := t.leafVia p.ctx stack (x * 32)
      t.serveL2 p (pteKey e.2) (paOf e.1 e.2 (x * 32)) .read) s'
    (.ok ((List.range n).map fun i => s'.byteVia p.ctx stack (va + i)), s')

/-- Write bytes at `va` of a context at the home slices. -/
def State.engineWrite (s : State) (p : Payer) (stack va : Nat) (bs : List Byte) :
    Except (Nat × Nat × Nat × Nat × Option Cause) Unit × State :=
  match s.walkUnits p stack .write (unitsOf va bs.length) with
  | (some f, s') => (.error f, s')
  | (none, s') =>
    let s' := (sectorsOf va bs.length).foldl (fun t x =>
      let whole := va ≤ x * 32 && x * 32 + 32 ≤ va + bs.length
      let e := t.leafVia p.ctx stack (x * 32)
      let pa := paOf e.1 e.2 (x * 32)
      (t.serveL2 p (pteKey e.2) pa (if whole then .full else .part)).storePoison p.ctx (pa / 32) whole) s'
    (.ok (), s'.putAll ((List.range bs.length).map fun i => (s'.keyVia p.ctx stack (va + i), s'.paVia p.ctx stack (va + i), bs.getD i 0)))

/-- The stack whose TLB serves an access that no core of this chip issued: the lowest that the context's partition owns. -/
def State.headStack (s : State) (ctx : Nat) : Nat :=
  ((List.range 64).find? fun k => (s.part (s.partOfCtx ctx)).ownsStack k).getD 0

/-- The leaf, with its level, by which the Harness head or Rind reaches `va` of a context: a walk of its own, which no TLB
holds and nobody is charged for (R336, R475; log 15). -/
def State.headLeaf (s : State) (ctx va : Nat) (k : AccKind) : Option (Nat × Nat) :=
  let c := s.ctx ctx
  if !c.enable then none
  else
    match (s.walkLoop va 5 (c.root * 8192)).1 with
    | .leaf l e _ => if (s.permit ctx e k).isSome then none else some (l, e)
    | .fault .. => none

/-- The key under which the head reads or writes there, by number. -/
def State.headKey (s : State) (ctx va : Nat) (k : AccKind) : Nat := (s.headLeaf ctx va k).elim 0 fun e => s.keyNo (pteKey e.2)

/-- The physical address behind that leaf. -/
def State.headPa (s : State) (ctx va : Nat) (k : AccKind) : Option Nat :=
  (s.headLeaf ctx va k).map fun e => paOf e.1 e.2 va

/-- Keys and physical addresses of `n` bytes from `va`, with no two pages mixed; none where a page faults. -/
def State.headBytes (s : State) (ctx va n : Nat) (k : AccKind) : Option (List (Nat × Nat)) :=
  ((unitsOf va n).mapM fun u => (s.headLeaf ctx u k).map fun e => (u, e)).map fun us =>
    (List.range n).map fun i =>
      match us.find? fun e => e.1 == (va + i) / 4096 * 4096 with
      | some e => (s.keyNo (pteKey e.2.2), paOf e.2.1 e.2.2 e.1 + (va + i) % 4096)
      | none => (0, 0)

def headPayer (ctx : Nat) : Payer := { ctx := ctx, pays := false }

/-- A read by the Harness head in a context's space, with an acquire at .sys (R356). -/
def State.headRead (s : State) (ctx va n : Nat) : Option (List Byte) × State :=
  match s.headBytes ctx va n .read with
  | none => (none, s)
  | some pas =>
    let s := (pas.filter (·.1 != 0)).foldl (fun t e => t.noteKey e.1 (e.2 / 32)) s
    let s := (nubN (pas.map (·.2 / 32))).foldl (fun t x => t.touchL2 (headPayer ctx) (x * 32) .read) s
    (some (pas.map fun a => s.keyByte a.1 a.2), s)

/-- A write by the Harness head in a context's space, a release at .sys (R359); none where it meets a fault. -/
def State.headWrite (s : State) (ctx va : Nat) (bs : List Byte) : Option State :=
  if va / 2 ^ 57 ≠ 0 then none
  else
    (s.headBytes ctx va bs.length .write).map fun pas =>
      let s := (pas.filter (·.1 != 0)).foldl (fun t e => t.noteKey e.1 (e.2 / 32)) s
      let s := (nubN (pas.map (·.2 / 32))).foldl (fun t x =>
        let whole := (pas.filter fun a => a.2 / 32 == x).length == 32
        (t.touchL2 (headPayer ctx) (x * 32) (if whole then .full else .part)).storePoison ctx x whole) s
      s.putAll ((pas.zip bs).map fun e => (e.1.1, e.1.2, e.2))

end Sys2Proof.Machine
end

