-- ==== Sys2Proof/Machine/Operands.lean ====
section
/-! DEFINITION. Operand forms: how an issuing group reads its sources (R93 to R101, R118 to R123, R169), what operand
delivery costs (R99, R105), and how results are written (R91, R93, R97). -/

namespace Sys2Proof.Machine

open Sys2Proof

/-! ## The issuing group -/

/-- What an instruction sees at issue: the group's registers as they stood before its pair (R114), the issuing slot's
live lanes, and the lanes that satisfy PRED. -/
structure Env where
  me : Issuer
  g : Group
  pc : Nat                         -- the instruction's address
  live : Mask
  run : Mask
  o : Fields
  team : Team
  kid : Nat
  kern : Kernel
deriving DecidableEq, Repr

/-- A predicate register: p0 reads all ones (R91). -/
def Group.predReg (g : Group) (p : Nat) : W32 := if p = 0 then 0xFFFFFFFF else g.preds.get 0 p

/-- The lanes for which a PRED field's condition holds (R117, R146). -/
def Group.predMask (g : Group) (pred : BitVec 4) : W32 :=
  let m := g.predReg (pred.toNat % 8)
  if pred.getLsbD 3 then ~~~m else m

def State.envAt (s : State) (me : Issuer) (o : Fields) : Option Env :=
  match s.group? me.core me.slot with
  | none => none
  | some now =>
    let g := s.pair.getD now
    let live := (now.slotAt me.pcs).mask &&& ~~~now.dead
    let t := s.team now.team
    some { me := me, g := g, pc := (now.slotAt me.pcs).pc, live := live, run := live &&& g.predMask o.pred, o := o, team := t, kid := t.kid,
           kern := s.kern t.kid }

/-- The launch carries the protected flag (R87). -/
def Env.prot (e : Env) : Bool := e.kern.rec_.flags.testBit 0

def Env.payer (e : Env) : Payer := { ctx := e.team.ctx, core := some e.me.core, team := some e.g.team }

/-- R137: some active lane satisfies PRED, or the instruction is unpredicated. -/
def Env.takes (e : Env) : Bool := e.o.pred == 0 || e.run != 0

/-- %lane of a lane (R104): the pair index in a protected launch. -/
def Env.laneId (e : Env) (l : Nat) : Nat := if e.prot then l / 2 else l

/-! ## Sources -/

/-- The value of a constant code at a type (R119). -/
def constVal (t : Ty) (k lane : Nat) : Nat :=
  match t, k with
  | _, 0 => 0
  | .f16, 1 => 0x3C00 | .f16, 2 => 0x4000 | .f16, 3 => 0xBC00 | .f16, 4 => 0x3800
  | .bf16, 1 => 0x3F80 | .bf16, 2 => 0x4000 | .bf16, 3 => 0xBF80 | .bf16, 4 => 0x3F00
  | .f32, 1 => 0x3F800000 | .f32, 2 => 0x40000000 | .f32, 3 => 0xBF800000 | .f32, 4 => 0x3F000000
  | .f64, 1 => 0x3FF0000000000000 | .f64, 2 => 0x4000000000000000
  | .f64, 3 => 0xBFF0000000000000 | .f64, 4 => 0x3FE0000000000000
  | .e4m3, 1 => 0x38 | .e4m3, 2 => 0x40 | .e4m3, 3 => 0xB8 | .e4m3, 4 => 0x30
  | .e5m2, 1 => 0x3C | .e5m2, 2 => 0x40 | .e5m2, 3 => 0xBC | .e5m2, 4 => 0x38
  | _, 1 => 1
  | _, 2 => 2
  | t, 6 => lane % 2 ^ t.width
  | t, _ => 2 ^ t.width - 1

/-- An f32 immediate widened exactly to f64: a NaN keeps its sign and payload (R123). -/
def widenImm (x : Nat) : Nat :=
  if x / 2 ^ 23 % 256 = 255 then x / 2 ^ 31 % 2 * 2 ^ 63 + 0x7FF * 2 ^ 52 + x % 2 ^ 23 * 2 ^ 29
  else (cvtFF f32 f64 .rne false x).1

/-- An immediate widened to the operand's type (R123). -/
def immVal (t : Ty) (o : Fields) : Nat :=
  match o.wide with
  | some x => x.toNat % 2 ^ t.width
  | none =>
    match t with
    | .i64 => wrapN 64 o.low.toInt
    | .f64 => widenImm o.low.toNat
    | t => o.low.toNat % 2 ^ t.width

def Group.vreg (g : Group) (n : Nat) : VReg := (g.v.find? n).getD []
def Group.lane32 (g : Group) (n l : Nat) : Nat := (laneOf (g.vreg n) l).toNat

/-- 64 bits of lane `l` from the pair at `n`: the low word in the even register (R36). -/
def Group.lane64 (g : Group) (n l : Nat) : Nat := g.lane32 n l + 2 ^ 32 * g.lane32 (n + 1) l

def Group.sval (g : Group) (n : Nat) : Nat := (g.sreg.get 0 n).toNat

def Group.latchAt (g : Group) (n : Nat) : Option LatchEntry := (g.latch[n]?).getD none

/-- 64 bits of a source for one lane, before they are cut to the operand's width. -/
def Env.src64 (e : Env) (src : Src) (t : Ty) (wide : Bool) (l : Nat) : Nat :=
  match src with
  | .v n => if wide then e.g.lane64 n.toNat l else e.g.lane32 n.toNat l
  | .s n => e.g.sval n.toNat
  | .latch n => match e.g.latchAt n.val with
    | some x => (x.vals.getD l 0).toNat
    | none => 0
  | .imm => immVal t e.o
  | .const k => constVal t k.val (e.laneId l)
  | .reserved _ => 0

/-- A source read at a type: its low bits (R169). -/
def Env.src (e : Env) (src : Src) (t : Ty) (l : Nat) : Nat := e.src64 src t t.isWide l % 2 ^ t.width

/-- A scalar source read at a type (R136). -/
def Env.scal (e : Env) (src : Src) (t : Ty) : Nat := e.src src t 0

/-! ## What a source takes (R94, R99, R100, R105) -/

/-- Vector names read through an operand of class `c`. -/
def namesRead (i : Instr) (o : Fields) (c : OpCls) (src : Src) (isC : Bool) : List Nat :=
  match src with
  | .v n =>
    let run (k : Nat) := (List.range k).map fun j => n.toNat + j
    match c with
    | .unused | .pred | .predOrScal | .scal _ | .sreg | .sreg4 | .immOnly | .disp | .cinvDisp | .waitThr => []
    | .vec t =>
      let w := if (t.of o).isWide || (i.isX2 && o.ty == .f32) then 2 else 1
      run (if i.isVecMem && isC then w * vecCount o else w)
    | .base t => run (if (t.of o).isWide then 2 else 1)
    | .cinvBase => if o.md.spec.getLsbD 0 then [] else run 2
    | .vreg => run (if o.ty.isWide then 2 else 1)
    | .atom => run (if atomOpOf o == 7 then (if o.ty == .b64 then 4 else 2) else if o.ty.isWide then 2 else 1)
    | .mmov => if o.md.spec.getLsbD 0 then run 4 else []
  | _ => []

/-- The operand is read at 64 bits. -/
def wideRead (i : Instr) (o : Fields) (c : OpCls) : Bool :=
  match c with
  | .vec t => (t.of o).isWide || (i.isX2 && o.ty == .f32)
  | .base t => (t.of o).isWide
  | .vreg | .mmov => o.ty.isWide
  | .atom => o.ty.isWide || atomOpOf o == 7
  | .cinvBase => true
  | _ => (c.ty o).isWide

/-- The three operands with their classes and bits of HOLD and LAST. -/
def operands (i : Instr) (o : Fields) : List (OpCls × Src × Nat × Bool) :=
  match i.row with
  | none => []
  | some r => [(r.a, o.a, 2, false), (r.b, o.b, 1, false), (r.c, o.c, 0, true)]

def allNames (i : Instr) (o : Fields) : List Nat :=
  (operands i o).flatMap fun (c, x, _, isC) => namesRead i o c x isC

/-- The greatest number of reads from one bank, of the names that are mapped; at least 1 (R99). -/
def bankCycles (g : Group) (names : List Nat) : Nat :=
  let m := names.filter fun n => g.v.has n
  ([0, 1, 2, 3].map fun b => (m.filter fun n => n % 4 == b).length).foldl max 1

/-- Some source reads a latch entry that has expired, or a 32-bit entry at 64 bits (R101). -/
def latchBad (g : Group) (i : Instr) (o : Fields) : Bool :=
  (operands i o).any fun (c, x, _, _) =>
    match x with
    | .latch n =>
      match g.latchAt n.val with
      | none => true
      | some en => wideRead i o c && !en.wide
    | _ => false

/-- Scalar sources are charged for instructions that read them as vector operands, and for SVC (R105, R140). -/
def chargesScalars (i : Instr) : Bool :=
  match i, i.row with
  | .waitc _, _ | .cinv _, _ | .fence _, _ => false
  | .svc _, _ => true
  | _, some r => r.cls == .I || r.cls == .F || r.cls == .M
  | _, none => false

/-- Operand delivery without the result write (R105). -/
def State.deliverCost (s : State) (p : Payer) (g : Group) (i : Instr) (o : Fields) : Nat :=
  match i with
  | .cinv _ => 0
  | _ =>
    ((operands i o).map fun (c, x, _, isC) =>
      match c, x with
      | .unused, _ | .pred, _ => 0
      | _, .v _ => ((namesRead i o c x isC).map fun n => if g.v.has n then s.wt p 2 else s.wt p 3).sum
      | _, .latch _ => s.wt p 3
      | .immOnly, _ | .sreg, _ | .sreg4, _ => 0
      | _, .s _ => if chargesScalars i then s.wt p 3 else 0
      | _, _ => 0).sum

/-- Charges of the instruction classes that are independent of lanes (R140): the scalar operation's weight. -/
def scalarOp (i : Instr) : Bool :=
  match i, i.row with
  | .srd _, _ | .swr _, _ | .enrd .., _ | .caprd _, _ | .pcnt _, _ | .pffs _, _ => true
  | _, some r => r.cls == .S
  | _, none => false

def eraseAll (t : Tbl VReg) : List Nat → Tbl VReg
  | [] => t
  | n :: r => eraseAll (t.erase n) r

/-- The vector names that LAST frees (R94). DESIGN CHOICE: of store data in several names (.v2, .v4, cas.b64), every name read,
where R94 speaks of one name or a pair (log 18). -/
def lastNames (i : Instr) (o : Fields) : List Nat :=
  (operands i o).flatMap fun (c, x, k, isC) => if o.last.getLsbD k then namesRead i o c x isC else []

/-- Age the latch by one issued instruction, then hold what HOLD names from the values read (R100). -/
def agedLatch (g : Group) : List (Option LatchEntry) :=
  g.latch.map fun en => match en with
    | some x => if x.left ≤ 1 then none else some { x with left := x.left - 1 }
    | none => none

/-- The value that HOLD copies: as read, 32 or 64 bits per lane (R100, R101). DESIGN CHOICE: of cas.b64's four names the first
two, the compare pair, since an entry holds 64 bits (log 18). -/
def Env.heldEntry (e : Env) (i : Instr) (c : OpCls) (x : Src) : LatchEntry :=
  let w := wideRead i e.o c
  { vals := (List.range 32).map fun l => BitVec.ofNat 64 (e.src64 x (c.ty e.o) w l % (if w then 2 ^ 64 else 2 ^ 32))
    wide := w
    left := 2 }

def Env.latchAfter (e : Env) (i : Instr) (now : Group) : List (Option LatchEntry) :=
  let held := (operands i e.o).map fun (c, x, k, _) =>
    if e.o.hold.getLsbD k then some (e.heldEntry i c x) else none
  (List.range 3).map fun n =>
    match (held[n]?).getD none with
    | some en => some en
    | none => ((agedLatch now)[n]?).getD none

/-! ## Results -/

/-- Change the issuing group, where it is still resident. -/
def State.onIssuer (s : State) (me : Issuer) (f : Group → Group) : State := s.modGroup me.core me.slot f

def State.abortAt (s : State) (e : Env) (status cause : Nat) (lanes : Mask) (addr value : Nat := 0) : State :=
  abortKernel s e.kid
    { status := status, cause := cause, core := e.me.core, slot := e.me.slot, pcSlot := e.me.pcs, lanes := lanes,
      team := e.team.idx, pc := e.pc, address := addr, value := value }

/-- A fault of the issuing instruction: status 0x03 (R350). -/
def State.faultAt (s : State) (e : Env) (c : Cause) (lanes : Mask := 0) (addr : Nat := 0) : State :=
  s.abortAt e 3 c.code lanes addr

/-- The lanes of a register after a write to the lanes of `m`: others keep their contents, or read zero where the name
was unmapped (R93, R167). -/
def mergeLanes (old : VReg) (m : Mask) (f : Nat → W32) : VReg :=
  lanes32 fun l => if m.getLsbD l then f l else laneOf old l

/-- Write one vector name of a resident group for the lanes of `m`; above the ceiling the kernel is aborted (R97). -/
def State.writeName (s : State) (core slot pcs pc : Nat) (n : Nat) (m : Mask) (f : Nat → W32) : State :=
  match s.group? core slot with
  | none => s
  | some g =>
    let t := s.team g.team
    let k := s.kern t.kid
    let v := g.v.put n (mergeLanes (g.vreg n) m f)
    if v.length > k.rec_.regs then
      abortKernel s t.kid { status := 3, cause := Cause.registerCeiling.code, core := core, slot := slot, pcSlot := pcs,
                            lanes := m, team := t.idx, pc := pc }
    else s.setGroup core slot { g with v := v }

/-- Write a 32- or 64-bit result (R36, R93), charged once per register when some lane is written (R172). -/
def State.putV (s : State) (e : Env) (n : Nat) (wide : Bool) (m : Mask) (f : Nat → Nat) : State :=
  if m = 0 then s
  else
    let pc := e.pc
    let s := s.charge e.payer ((if wide then 2 else 1) * s.wt e.payer 4)
    let s := s.writeName e.me.core e.me.slot e.me.pcs pc n m fun l => BitVec.ofNat 32 (f l)
    if wide then s.writeName e.me.core e.me.slot e.me.pcs pc (n + 1) m fun l => BitVec.ofNat 32 (f l / 2 ^ 32) else s

def State.putS (s : State) (e : Env) (n : Nat) (x : Nat) : State :=
  s.onIssuer e.me fun g => { g with sreg := g.sreg.set 0 n (BitVec.ofNat 64 x) }

/-- A predicate write; p0 ignores it (R91). -/
def State.putP (s : State) (e : Env) (n : Nat) (x : W32) : State :=
  if n = 0 then s else s.onIssuer e.me fun g => { g with preds := g.preds.set 0 n x }

/-- The bits of the lanes of `m` change (R91). -/
def mergeBits (old m : W32) (f : Nat → Bool) : W32 := (old &&& ~~~m) ||| (m &&& maskOf f)

def State.putPLanes (s : State) (e : Env) (n : Nat) (m : Mask) (f : Nat → Bool) : State :=
  s.putP e n (mergeBits (e.g.predReg n) m f)

def State.orFlags (s : State) (e : Env) (fl : FFlags) : State :=
  if fl = 0 then s else s.onIssuer e.me fun g => { g with fflags := g.fflags ||| fl }

/-- Move the issuing PC slot (R145). -/
def State.setPc (s : State) (e : Env) (pc : Nat) (entered : Bool) : State :=
  s.onIssuer e.me fun g => g.setSlot e.me.pcs { g.slotAt e.me.pcs with pc := pc, entered := entered }

/-- Hold the issuing PC slot after issue (R65). -/
def State.hold (s : State) (e : Env) (h : Held) : State :=
  s.onIssuer e.me fun g => g.setSlot e.me.pcs { g.slotAt e.me.pcs with held := h }

/-- The value of the lanes of `m`, combined by or: the flags of an instruction (R62). -/
def orOver (m : Mask) (f : Nat → FFlags) : FFlags := (lanesOf m).foldl (fun a l => a ||| f l) 0

end Sys2Proof.Machine
end

