-- ==== Sys2Proof/Machine/Order.lean ====
section
/-! DEFINITION. Accesses in flight as the rules of order see them (R224 to R240, R250, R253): where a lane leads, the pages
it meets, program order, what must perform before what, and what an issue still waits for. -/

namespace Sys2Proof.Machine

open Sys2Proof

/-! ## Accesses -/

def Access.payer (a : Access) : Payer :=
  if a.served then { ctx := a.ctx, die := some (dieOfCore a.core) } else { ctx := a.ctx, core := some a.core, team := some a.team }
def Access.stack (a : Access) : Nat := stackOfCore a.core

def Access.kind (a : Access) : AccKind :=
  match a.op with
  | .load | .elemLoad | .fetch | .pop _ | .spawn => .read
  | .store | .elemStore | .record | .push => .write
  | .atom .. | .jdec => .both

def Access.writes (a : Access) : Bool := a.kind != .read
def Access.isElem (a : Access) : Bool := a.op == .elemLoad || a.op == .elemStore

/-- Bytes of one element. -/
def tyBytes (t : Ty) : Nat := t.width / 8

/-- Most bytes that a lane of the access can touch. -/
def Access.span (a : Access) : Nat := a.count * tyBytes a.ty

def isLoadLike (a : Access) : Bool :=
  match a.op with
  | .load | .elemLoad | .atom .. => true
  | _ => false

def isStack (a : Access) : Bool :=
  match a.op with
  | .push | .pop _ => true
  | _ => false

def isAcq (a : Access) : Bool := a.order == 1 || a.order == 3
def isRel (a : Access) : Bool := a.order == 2 || a.order == 3

/-- The extent and the alignment of a lane of the element view (R268). -/
def elemExtent (fmt k : Nat) : Nat × Nat :=
  match fmt with
  | 1 => (k, k)
  | 2 => if k = 4 then (2, 2) else (1, 1)
  | _ => (4 * k, 4)

/-! ## Places (R200, R430) -/

/-- The domain slot that binds a context and is not idle (R421). -/
def State.domOf (s : State) (ctx : Nat) : Option (Nat × DomSt) :=
  List.find? (fun e => e.2.ctx == ctx && e.2.st != .idle && e.2.st != .forming) s.doms

/-- Where an address of the context leads: here, or to another chip's window (R200, R430). -/
inductive Place where
  | here (va : Nat)
  | remote (rank : Nat)
  | bad                  -- beyond this chip's own window
  | lost                 -- no domain, or a broken one
deriving DecidableEq, Repr

/-- The place of `n` bytes at an address: this chip's own rank leads to its own export (R430). -/
def State.placeAt (s : State) (ctx n ea : Nat) : Place :=
  if ea / 2 ^ 56 != 1 then .here ea
  else
    match s.domOf ctx with
    | none => .lost
    | some (_, d) =>
      if d.st == .broken then .lost
      else if ea / 2 ^ 50 % 64 = d.rank then
        (if ea % 2 ^ 50 + n > d.limit then .bad else .here (viaWindow (d.export_ + ea % 2 ^ 50)))
      else .remote (ea / 2 ^ 50 % 64)

/-- The place of a lane's address: how far the element view reaches is known once its page is (R268). -/
def State.placeOf (s : State) (a : Access) (ea : Nat) : Place :=
  if a.space != .global then .here ea else s.placeAt a.ctx (if a.isElem then 1 else a.span) ea

/-- An element access in this chip's own window reaches past the window's limit (R268, R430). -/
def State.pastLimit (s : State) (a : Access) (ea n : Nat) : Bool :=
  a.isElem && ea / 2 ^ 56 == 1 &&
    (match s.domOf a.ctx with | some (_, d) => decide (ea % 2 ^ 50 + n > d.limit) | none => false)

def State.laneVa (s : State) (a : Access) (l : Nat) : Nat :=
  match s.placeOf a (a.ea.getD l 0) with
  | .here va => va
  | _ => 0

/-! ## Pages -/

/-- The leaf that the stack TLB holds for an address, for this access. -/
def State.leafFor (s : State) (a : Access) (va : Nat) : Option (Nat × Nat) := s.cached a.ctx a.stack va a.writes

/-- A sector that an L1 hit serves (R210, R267): L1 held it, fit for the access, when the access was issued, and still does
(log 15). The element view needs the leaf of a format page, whose scale records no attribute of the line names. -/
def State.hitFor (s : State) (a : Access) (va : Nat) : Option L1Line :=
  if a.space == .global && a.hits.contains (va / 32) then
    match s.l1Has a.core a.ctx va a.kind with
    | some x =>
      if !a.isElem || x.format == 0 || (s.leafFor a va).any fun e => pteFormat e.2 == x.format then some x else none
    | none => none
  else none

/-- What an access knows of the page behind a byte: from the L1 line that serves it, or from the leaf. -/
structure PageAttr where
  pa : Nat                         -- of the byte
  order : Nat
  format : Nat
  key : Nat                        -- its key slot, 0 where its world is 0
  wr : Bool
deriving DecidableEq, Repr

def State.attrAt (s : State) (a : Access) (va : Nat) : Option PageAttr :=
  match s.hitFor a va with
  | some x => some { pa := x.pline * 128 + va % 128, order := x.order, format := x.format, key := x.key, wr := x.write }
  | none => (s.leafFor a va).map fun (l, e) =>
      { pa := paOf l e va, order := pteOrder e, format := pteFormat e, key := pteKey e, wr := pteWrite e }

def State.attrOf (s : State) (a : Access) (va : Nat) : PageAttr :=
  (s.attrAt a va).getD { pa := 0, order := 0, format := 0, key := 0, wr := false }

def State.paFor (s : State) (a : Access) (va : Nat) : Nat := (s.attrOf a va).pa

/-- The key under which the access reads and writes a byte, by number (R207). -/
def State.keyFor (s : State) (a : Access) (va : Nat) : Nat := s.keyNo (s.attrOf a va).key

/-- The byte of memory behind an address of the access. -/
def State.byteFor (s : State) (a : Access) (va : Nat) : Byte := s.keyByte (s.keyFor a va) (s.paFor a va)

/-- The format by which the access sees a page: the raw view sees none. -/
def State.formatFor (s : State) (a : Access) (va : Nat) : Nat := if a.isElem then (s.attrOf a va).format else 0

/-- Bytes of a lane: by the page's format for the element view (R268), else all of them. -/
def State.extent (s : State) (a : Access) (va : Nat) : Nat :=
  if a.isElem then (elemExtent (s.formatFor a va) a.count).1 else a.span

/-- The sectors of `n` bytes at each of some addresses that the core's L1 holds, fit for an access of kind `k` (R210). -/
def State.l1Sectors (s : State) (core ctx n : Nat) (k : AccKind) (eas : List Nat) : List Nat :=
  nubN (eas.flatMap fun ea =>
    match s.placeAt ctx n ea with
    | .here va => (sectorsOf va n).filter fun x => (s.l1Has core ctx (x * 32) k).isSome
    | _ => [])

/-- A global access looks in L1 when it is issued, and again when it is sent again (R80, R83, R210). -/
def State.lookL1 (s : State) (a : Access) : Access :=
  { a with hits := if a.space == .global then
      s.l1Sectors a.core a.ctx a.span a.kind ((lanesOf a.left).map fun l => a.ea.getD l 0) else [] }

/-- The 4 KiB units of a lane that L1 does not serve alone: a hit is served without translation (R210). -/
def State.unitsFor (s : State) (a : Access) (l : Nat) : List Nat :=
  let va := s.laneVa a l
  let n := s.extent a va
  (unitsOf va n).filter fun u => (sectorsOf va n).any fun x => x * 32 / 4096 * 4096 == u && (s.hitFor a (x * 32)).isNone

/-- The units of a lane whose translation is missing. -/
def State.missing (s : State) (a : Access) (l : Nat) : List Nat := (s.unitsFor a l).filter fun u => (s.leafFor a u).isNone

/-- The bytes of a lane on one page (R231, R266): physical address and ordering kind where they are known. -/
structure Piece where
  va : Nat
  n : Nat
  pa : Option Nat := none
  order : Option Nat := none
deriving DecidableEq, Repr

/-- Two ranges of bytes meet. -/
def meet (a n b m : Nat) : Bool := decide (a < b + m) && decide (b < a + n)

/-- The pieces of a lane, one for each 4 KiB unit it touches. Scratchpad bytes, and bytes of another chip's window, are
ordered as bytes of R pages; a record, a fetch and SPAWN's record touch no page that orders them (log 9). -/
def State.pieces (s : State) (a : Access) (l : Nat) : List Piece :=
  let ea := a.ea.getD l 0
  match a.op with
  | .spawn | .fetch | .record => []
  | _ =>
    if a.space != .global then [{ va := ea, n := a.span, pa := some ea, order := some 1 }]
    else
      match s.placeOf a ea with
      | .here va =>
        let n := max (s.extent a va) 1
        (unitsOf va n).map fun u =>
          let lo := max va u
          let x := s.attrAt a lo
          { va := lo, n := min (va + n) (u + 4096) - lo, pa := x.map (·.pa), order := x.map (·.order) }
      | _ => [{ va := ea, n := a.span, pa := some (2 ^ 64 + ea), order := some 1 }]

/-- The pieces of the lanes not yet performed. -/
def State.leftPieces (s : State) (a : Access) : List Piece := (lanesOf a.left).flatMap fun l => s.pieces a l

/-- Some lane lies in part on an S page, or on a page not yet known (R229). -/
def State.maybeS (s : State) (a : Access) : Bool :=
  a.space == .global && (s.leftPieces a).any fun p => p.order.all (· == 0)

/-- Some lane is known to lie in part on an S page. -/
def State.surelyS (s : State) (a : Access) : Bool := a.space == .global && (s.leftPieces a).any fun p => p.order == some 0

/-- Some lane lies in part on a U page, or on a page not yet known. -/
def State.maybeU (s : State) (a : Access) : Bool :=
  a.space == .global && (s.leftPieces a).any fun p => p.order.all (· == 2)

/-- Every part of every lane not yet performed is known to lie on a U page (R230). -/
def State.onU (s : State) (a : Access) : Bool :=
  a.space == .global && !(s.leftPieces a).isEmpty && (s.leftPieces a).all fun p => p.order == some 2

/-- Two pieces may share a byte. A page not yet known may hold any, unless its access waits on a fault there (`stuck`). -/
def mayShare (stuck : Bool) (p q : Piece) : Bool :=
  match p.pa, q.pa with
  | some x, some y => meet x p.n y q.n
  | _, none => !stuck || meet p.va p.n q.va q.n
  | none, some _ => true

/-- Two pieces may share a byte that the slot's order covers: U pages are excepted (R226, R230). -/
def orderedShare (stuck : Bool) (p q : Piece) : Bool :=
  p.order != some 2 && q.order != some 2 && mayShare stuck p q

/-- Lane `k` of an access waits on a fault. -/
def Access.stuckAt (a : Access) (k : Nat) : Bool := a.fault.any fun f => f.stuck.getLsbD k

/-! ## Program order (R225, log 9) -/

/-- The group's accesses in flight, by number. -/
def State.accOf (s : State) (core slot tag : Nat) : List (Nat × Access) :=
  s.acc.filter fun e => e.2.core == core && e.2.slot == slot && e.2.tag == tag

/-- The accesses of some numbers that are in flight. -/
def State.among (s : State) (ids : List Nat) : List (Nat × Access) := s.acc.filter fun e => ids.contains e.1

/-- The numbers of either list, once each. -/
def joinIds (xs ys : List Nat) : List Nat := xs ++ ys.filter fun y => !xs.contains y

/-- An access that a release at `scope` still waits for (R232): U pages count only at .sys. -/
def State.unreleased (s : State) (scope : Nat) (a : Access) : Bool :=
  a.left != 0 && a.space != .sfu && a.op != .fetch && (scope == 5 || !s.onU a)

/-- On a U page an access is an acquire or a release only at .sys: the parts not yet performed keep their effect where
one of them lies elsewhere (R231). -/
def State.ordersAt (s : State) (a : Access) : Bool := a.scope == 5 || !s.onU a

def sameSpace (a b : Access) : Bool :=
  (a.space == .global) == (b.space == .global) && a.space != .sfu && b.space != .sfu

/-- Lane `l` of `a` addresses a byte that an unfinished lane of the earlier `b` addresses (R226). -/
def State.overlaps (s : State) (a b : Access) (l : Nat) : Bool :=
  sameSpace a b && (lanesOf b.left).any fun k =>
    (s.pieces a l).any fun p => (s.pieces b k).any fun q => orderedShare (b.stuckAt k) p q

/-- Both use the window of one rank, where they are delivered in issue order: `b` has lanes there still to be sent (R250). -/
def sameRank (a b : Access) : Bool :=
  a.space == .global && b.space == .global &&
    (lanesOf a.left).any fun l => (lanesOf (b.left &&& ~~~b.sent)).any fun k =>
      a.ea.getD l 0 / 2 ^ 56 == 1 && a.ea.getD l 0 / 2 ^ 50 == b.ea.getD k 0 / 2 ^ 50

/-- An access that must perform before `a` may (R229, R232, R233, R250). -/
def State.before (s : State) (a b : Access) : Bool :=
  b.left != 0 && b.space != .sfu && b.op != .fetch &&
    ((isAcq b && s.ordersAt b) || (isRel a && s.ordersAt a && s.unreleased a.scope b) ||
     (s.surelyS a && s.maybeS b) || sameRank a b)

/-- A release, or an access to an S page, is held back by an older access that waits on a fault: its slot waits, as in FAULT
(R232, R253). -/
def State.behindFault (s : State) (ids : List Nat) : Bool :=
  (s.among ids).any fun x => x.2.left != 0 &&
    (s.among x.2.prior).any fun y => y.2.left != 0 && y.2.fault.isSome &&
      ((isRel x.2 && s.ordersAt x.2 && s.unreleased x.2.scope y.2) || (s.surelyS x.2 && s.maybeS y.2))

/-- A fence after the accesses `ids` is done (R230, R234): an acquire waits for the loads and the reads of atomics, any
other for all of them, and one at .sys also for whatever lies on a U page. -/
def State.fenceOver (s : State) (order scope : Nat) (ids : List Nat) : Bool :=
  !(s.among ids).any fun x => s.unreleased scope x.2 &&
    (order != 1 || isLoadLike x.2 || (scope == 5 && s.maybeU x.2))

/-- What a fence drops once it is done (R230, R233, R274). -/
def State.fenceDrops (s : State) (core ctx order scope : Nat) : State :=
  let s := if order == 2 then s else s.acquire core ctx scope
  if scope = 5 then s.l1Drop core ctx (fun x => x.order == 2) else s

end Sys2Proof.Machine
end

