-- ==== Sys2Proof/Machine/Issue.lean ====
section
/-! DEFINITION. Issue: which waits an instruction meets at issue (R76 to R78, R105), what every issue does (charges,
latch, frees, the program counter), and the objects that instructions put in flight. -/

namespace Sys2Proof.Machine

open Sys2Proof

/-- The load of a popped entry has not returned: the group's reconvergence index is not known (R69, R71). -/
def State.popping (s : State) (core slot tag : Nat) : Bool :=
  (s.accOf core slot tag).any fun e => match e.2.op with | .pop _ => true | _ => false

/-! ## Waits at issue -/

/-- A deferred register write of the group is outstanding (R73, R76); matrix results do not count. -/
def State.deferredOut (s : State) (core slot tag : Nat) : Bool := (s.accOf core slot tag).any fun e => e.2.dst.isSome

/-- The path counter an instruction raises (R77). -/
def pathOf (i : Instr) : Option Nat :=
  match i with
  | .lds _ | .sts _ | .ldsc _ | .stsc _ | .atoms _ => some 0
  | .ldgRaw _ | .ldgElem _ => some 1
  | .stgRaw _ | .stgElem _ | .atomg _ | .red _ | .spawn _ | .jdec _ => some 2
  | .cpy _ | .tcpy _ => some 3
  | _ => none

/-- Instructions that take an operand-log entry (R78, R320). -/
def usesLog (i : Instr) : Bool :=
  match i with
  | .ldgRaw _ | .ldgElem _ | .stgRaw _ | .stgElem _ | .atomg _ | .red _ | .jdec _ => true
  | _ => false

/-- The group's occupied log entries. -/
def State.logUsed (s : State) (core slot tag : Nat) : Nat :=
  ((s.accOf core slot tag).filter fun e =>
    e.2.space == .global && !e.2.done && e.2.op != .fetch && e.2.op != .record && e.2.op != .spawn && !isStack e.2).length

/-- Operations of a core that have not finished their compute phase (R284). -/
def State.matsOn (s : State) (core : Nat) : List (Nat × MatOp) := s.mats.filter fun e => e.2.core == core

/-- The group has an operation of batch `b` that is not complete (R302). -/
def State.batchOpen (s : State) (core slot tag b : Nat) : Bool :=
  (s.matsOn core).any fun e => e.2.members.any fun m => m.slot == slot && m.tag == tag && m.batch == b

/-- Closed batches of the group that are not complete (R303). -/
def State.closedOpen (s : State) (core slot : Nat) (g : Group) : Nat :=
  (nubN ((s.matsOn core).flatMap fun e =>
    e.2.members.filterMap fun m => if m.slot == slot && m.tag == g.tag && m.batch != g.batch then some m.batch else none)).length

def isMatrixIssue (i : Instr) : Bool :=
  match i with
  | .mma _ | .mzero _ | .mld _ | .mst _ | .mmov _ => true
  | _ => false

def svcEntries (c : Ctx) : Nat := if 4 ≤ c.svcLog ∧ c.svcLog ≤ 16 then 2 ^ c.svcLog else 0

/-- The service ring is full or disabled (R156). -/
def Ctx.svcFull (c : Ctx) : Bool :=
  svcEntries c == 0 || (c.svcProd + 2 ^ 32 - c.svcCons) % 2 ^ 32 ≥ svcEntries c

/-- The global address of a lane (R262). -/
def Env.gea (e : Env) (l : Nat) : Nat :=
  (e.src e.o.a .n64 l + e.src e.o.b .i64 l) % 2 ^ 64

def isGlobal (i : Instr) : Bool :=
  match i with
  | .ldgRaw _ | .ldgElem _ | .stgRaw _ | .stgElem _ | .atomg _ | .red _ => true
  | _ => false

/-- Some active lane addresses the domain window (R200). -/
def Env.window (e : Env) : Bool := (lanesOf e.run).any fun l => (e.gea l / 2 ^ 56) == 1

/-- What holds an SVC or a debug TRAP before its record, and with it the group's other slot (R159, R161): a full ring,
and for SVC the accesses that its release at .sys waits for. -/
def State.ringWait (s : State) (i : Instr) (e : Env) : Bool :=
  let tag := ((s.group? e.me.core e.me.slot).getD {}).tag
  match i with
  | .svc _ => e.run != 0 && ((s.ctx e.team.ctx).svcFull ||
      (s.accOf e.me.core e.me.slot tag).any fun x => s.unreleased 5 x.2)
  | .trap _ => e.takes && e.kern.rec_.flags.testBit 1 && (s.ctx e.team.ctx).svcFull
  | _ => false

/-- The arrival of a group at named barrier `n` is not complete, or its phase is not released (R324, R329). -/
def State.namedPending (s : State) (g : Group) (n : Nat) : Bool :=
  (match g.arrival with | some a => (a.op == 0xE90 || a.op == 0xEB0) && a.n == n | none => false) ||
  (match g.named.find? n with
   | some ph => ((s.team g.team).named.get {} n).phase == ph
   | none => false)

/-- What an instruction waits for at issue beyond the marker, its counter and the log (R105). -/
def State.ownWait (s : State) (i : Instr) (e : Env) : Bool :=
  let now := (s.group? e.me.core e.me.slot).getD {}
  match i with
  | .rcv _ | .dbr _ => s.popping e.me.core e.me.slot now.tag
  | .mfence _ =>
    s.batchOpen e.me.core e.me.slot now.tag now.batch && decide (s.closedOpen e.me.core e.me.slot now ≥ 8)
  | .mma _ | .mzero _ | .mld _ | .mst _ | .mmov _ => decide ((s.matsOn e.me.core).length ≥ 16)
  | .cpy _ | .tcpy _ => e.takes && decide ((s.copies.filter fun x => x.2.core == e.me.core && !x.2.fin).length ≥ 256)
  | .coll _ =>
    e.takes && (decide ((s.colls.filter fun x => x.2.die == dieOfCore e.me.core).length ≥ 64) ||
      (s.among (now.slotAt e.me.pcs).seen).any fun x => x.2.left != 0)
  | .spawn _ => e.takes && decide (e.kern.pool.length ≥ 65536)
  | .svc _ | .trap _ => s.ringWait i e
  | .ldgRaw _ | .ldgElem _ | .stgRaw _ | .stgElem _ | .atomg _ | .red _ =>
    e.window && (match s.domOf e.team.ctx with | some (_, d) => d.rekeyPending | none => false)
  | _ => false

/-- The instruction waits at issue (R76, R77, R78 and the instruction's own rule), or its slot waits behind a faulted access
(R232, R253). -/
def State.waits (s : State) (i : Instr) (e : Env) : Bool :=
  let now := (s.group? e.me.core e.me.slot).getD {}
  (e.o.sm && s.deferredOut e.me.core e.me.slot now.tag) ||
  (match pathOf i with | some p => decide (now.pathc.getD p 0 ≥ 255) | none => false) ||
  (usesLog i && decide (s.logUsed e.me.core e.me.slot now.tag ≥ 16)) ||
  s.behindFault (now.slotAt e.me.pcs).seen ||
  s.ownWait i e

/-- What holds a slot after issue until a condition of its own is met, is met (R234, R275, R304). -/
def State.holdOver (s : State) (core slot : Nat) (g : Group) (p : PcSlot) : Bool :=
  match p.held with
  | .fence order scope => s.fenceOver order scope p.seen
  | .waitc path n => decide (g.pathc.getD path 0 ≤ n)
  | .mwait n => decide (s.closedOpen core slot g ≤ n)
  | _ => false

/-- Release a slot whose condition is met; a fence then drops what it drops (R274). -/
def State.recheck (s : State) (core slot x : Nat) : State :=
  match s.group? core slot with
  | none => s
  | some g =>
    let p := g.slotAt x
    if s.holdOver core slot g p then
      let s := s.setGroup core slot (g.setSlot x { p with held := .no })
      match p.held with
      | .fence order scope => s.fenceDrops core (s.team g.team).ctx order scope
      | _ => s
    else s

/-- Hold the issuing slot after issue, and release it at once where its condition is met. -/
def State.holdUntil (s : State) (e : Env) (h : Held) : State := (s.hold e h).recheck e.me.core e.me.slot e.me.pcs

/-! ## The accumulator bound (R92, R298, R299, R301) -/

def nTiles (o : Fields) : Nat :=
  match o.md.spec.toNat % 4 with
  | 1 => 2
  | 2 => 4
  | _ => 1

def lastTile (i : Instr) : Option Nat :=
  match i with
  | .mma o => some o.dst.toNat
  | .mzero o => some (o.dst.toNat + o.md.spec.toNat % 64 - 1)
  | .mld o | .mst o => some (o.dst.toNat + nTiles o - 1)
  | .mmov o =>
    if o.md.spec.getLsbD 0 then some o.dst.toNat
    else match o.a with
      | .v n => some n.toNat
      | _ => none
  | _ => none

def accBad (i : Instr) (e : Env) : Bool :=
  match lastTile i with
  | some t => decide (t ≥ e.team.tiles)
  | none => false

/-! ## Issue -/

/-- Keep the operand stage busy `c - 1` clocks more (R99). -/
def State.busyFor (s : State) (core slot c : Nat) : State :=
  let k := s.coreSt core
  s.setCore core { k with busy := setAt k.busy (slot / 256) (c - 1) }

/-- What every issue does: its weights (R105, R140), unmapped reads counted (R96), the latch (R100), the names LAST
frees (R94; for a pair both instructions' names are freed before either writes), the next address (R109). -/
def State.atIssue (s : State) (i : Instr) (e : Env) : State :=
  let cost := s.wt e.payer 0 + (if scalarOp i then s.wt e.payer 1 else 0) + s.deliverCost e.payer e.g i e.o
  let names := allNames i e.o
  let s := s.charge e.payer cost
  let s := s.countRegEv e.me.core (e.me.slot / 256) e.team.ctx 0 (names.filter fun n => !e.g.v.has n).length
  let s := if s.pair.isSome then s else s.busyFor e.me.core e.me.slot (bankCycles e.g names)
  let paired := s.pair.isSome
  s.onIssuer e.me fun g =>
    let ps := g.slotAt e.me.pcs
    let g := { g with
      latch := e.latchAfter i g
      v := if paired then g.v else eraseAll g.v (lastNames i e.o)
      lastPcs := e.me.pcs }
    g.setSlot e.me.pcs { ps with pc := nextSlot ps.pc (if e.o.wide.isSome then 2 else 1), entered := false, line := some (ps.pc / 64) }

/-- Issue an instruction from `cur`: the decode checks of R127 that concern it alone, the waits at issue, the
accumulator bound and the latch, then its effect. A fault takes the abort of R350 and charges the issue weight only. -/
def issue (i : Instr) (o : Fields) (s : State) (body : Env → State → State) : Host.Outcome State Fault Refusal :=
  match s.envAt s.cur o with
  | none => .fault .noIssuer
  | some e =>
    match i.check with
    | some c => .next ((s.charge e.payer (s.wt e.payer 0)).faultAt e c e.live)
    | none =>
      if s.pair.isNone && s.waits i e then .next s
      else if accBad i e then .next ((s.charge e.payer (s.wt e.payer 0)).faultAt e .accumulatorBound e.live)
      else if latchBad e.g i o then .next ((s.charge e.payer (s.wt e.payer 0)).faultAt e .illegalOperand e.live)
      else .next (body e (s.atIssue i e))

/-! ## Objects in flight -/

def State.raisePath (s : State) (me : Issuer) (p : Nat) : State :=
  s.onIssuer me fun g => { g with pathc := setAt g.pathc p (g.pathc.getD p 0 + 1) }

/-- Lower the counter of path `p` for completed accesses, oldest first (R77): `n` bounds the search. -/
def State.settlePath (s : State) (core slot tag p : Nat) : Nat → State
  | 0 => s
  | n + 1 =>
    match (s.accOf core slot tag).find? fun e => e.2.path == some p with
    | some (id, a) =>
      if a.done then
        let s := { s with acc := s.acc.erase id }
        (s.modGroup core slot fun g => if g.tag = tag then
            { g with pathc := setAt g.pathc p (g.pathc.getD p 0 - 1) } else g).settlePath core slot tag p n
      else s
    | none => s

/-- The accesses that precede the slot's next one, once it has issued number `id` (R225). -/
def State.seenAfter (s : State) (p : PcSlot) (id : Nat) : PcSlot :=
  { p with seen := (p.seen.filter fun k => s.acc.has k) ++ [id] }

/-- Put an access of the issuing slot in flight, raising its path counter (R77); one that has no lane and returns nothing is
complete at once. -/
def State.launchAcc (s : State) (e : Env) (a : Access) : State :=
  match s.group? e.me.core e.me.slot with
  | none => s
  | some g =>
    let (id, s) := s.fresh
    let a := s.lookL1 { a with core := e.me.core, slot := e.me.slot, pcs := e.me.pcs, tag := g.tag, team := g.team,
                               gidx := e.g.idx, kid := e.kid, ctx := e.team.ctx, pc := e.pc,
                               prior := (g.slotAt e.me.pcs).seen, done := a.left == 0 && a.dst.isNone }
    let s := ({ s with acc := s.acc.put id a } : State).onIssuer e.me fun g =>
      g.setSlot e.me.pcs (s.seenAfter (g.slotAt e.me.pcs) id)
    match a.path with
    | some p =>
      let s := s.raisePath e.me p
      if a.done then s.settlePath e.me.core e.me.slot g.tag p 256 else s
    | none => s

/-- The pairs that disagree (R88): pair `i` is lanes 2i and 2i + 1. -/
def pairDiff (f : Nat → List Nat) : Mask := maskOf fun i => i < 16 && f (2 * i) != f (2 * i + 1)

/-- A pair mismatch suppresses the instruction and aborts the kernel; the core's score rises by 256 (R88, R401). -/
def State.pairAbort (s : State) (e : Env) (pairs : Mask) : State :=
  (s.abortAt e 7 0 pairs).addScore e.me.core 256

end Sys2Proof.Machine
end

