-- ==== Sys2Proof/Machine/Team.lean ====
section
/-! DEFINITION. What groups do together and how they end: barriers (R324 to R333), the divergence stack (R69 to R72),
lane death (R84 to R89), the retirement of groups and teams (R70, R347, R368, R375). -/

namespace Sys2Proof.Machine

open Sys2Proof

/-! ## Releasing waiters -/

/-- Release every slot of a group that `f` picks, those on its stack too. -/
def Group.release (g : Group) (f : Held → Bool) : Group :=
  let one (p : PcSlot) : PcSlot := if f p.held then { p with held := .no } else p
  { g with slot0 := one g.slot0, slot1 := one g.slot1, parked := g.parked.filter fun e => !f e.2 }

def Group.holds (g : Group) (f : Held → Bool) : Bool := f g.slot0.held || f g.slot1.held || g.parked.any fun e => f e.2

/-- Release the slots of a team's groups. -/
def State.releaseTeam (s : State) (uid : Nat) (f : Held → Bool) : State :=
  { s with groups := s.groups.map fun (k, g) => (k, if g.team == uid then g.release f else g) }

/-! ## Team barrier (R328) -/

def State.checkBar (s : State) (uid : Nat) : State :=
  let t := s.team uid
  if t.barArr > 0 ∧ t.barArr = t.live.length then
    (s.setTeam uid { t with barArr := 0 }).releaseTeam uid (· == .bar)
  else s

/-! ## Cluster barrier (R330) -/

/-- The teams of the cluster of a team; the team alone outside clusters. -/
def State.clusterOf (s : State) (uid : Nat) : List (Nat × Team) :=
  let t := s.team uid
  match t.cluster with
  | some c => s.teams.filter fun e => e.2.kid == t.kid && e.2.cluster == some c
  | none => s.teams.filter fun e => e.1 == uid

def State.releaseClus (s : State) : List (Nat × Team) → State
  | [] => s
  | (u, t) :: r =>
    let s := s.setTeam u { s.team u with clusArr := 0 }
    ((s.releaseTeam u (· == .cbar)).acquire t.core t.ctx 2).releaseClus r

def State.checkClus (s : State) (uid : Nat) : State :=
  let ts := s.clusterOf uid
  let arrived := (ts.map fun e => e.2.clusArr).sum
  if arrived > 0 ∧ arrived = (ts.map fun e => e.2.live.length).sum then s.releaseClus ts else s

/-! ## Domain barrier (R331) -/

/-- The entry that holds rank `r`: the position among the valid entries that are no spares (R422). A spare that takes a
rank takes its entry (R483). -/
def DomSt.entryOf (d : DomSt) (r : Nat) : Option Nat :=
  (d.group.filterMap fun (j, e) => if e.valid && !e.spare then some j else none)[r]?

def DomSt.fabricOf (d : DomSt) (r : Nat) : Option Nat := (d.entryOf r).map fun j => (d.group.get {} j).fabric

/-- Live ranks of a domain's group table. -/
def DomSt.liveRanks (d : DomSt) : List Nat :=
  (List.range 64).filter fun r => match d.entryOf r with | some j => (d.group.get {} j).live | none => false

/-- The ranks of a domain's group table, live or not. -/
def DomSt.ranks (d : DomSt) : List Nat := (List.range 64).filter fun r => (d.entryOf r).isSome

/-- The teams of a context whose groups wait at a DBAR. -/
def State.dbarWaiters (s : State) (ctx : Nat) : List Nat :=
  nubN (s.groups.filterMap fun (_, g) => if (s.team g.team).ctx == ctx && g.holds (· == .dbar) then some g.team else none)

/-- Evicted teams with a group that waits at a DBAR, and for which no release is held (R333). -/
def State.dbarAway (s : State) (ctx : Nat) : List Nat :=
  s.teams.filterMap fun (u, t) =>
    match t.image with
    | some im =>
      if t.ctx == ctx && !s.dbarHeld.contains u && im.groups.any fun e => e.2.holds (· == .dbar) then some u else none
    | none => none

def State.acquireTeams (s : State) (scope : Nat) : List Nat → State
  | [] => s
  | u :: r => (s.acquire (s.team u).core (s.team u).ctx scope).acquireTeams scope r

/-- The barrier idle again, but for the arrivals held for its next phase. -/
def DomSt.nextPhase (d : DomSt) : DomSt :=
  match d.barEarly with
  | [] => { d with barVal := none, barLocal := false, barRanks := [] }
  | (_, v) :: _ =>
    if d.barEarly.all fun e => e.2 == v then
      { d with barVal := some v, barLocal := false, barRanks := d.barEarly.map Prod.fst, barEarly := [] }
    else { d with barVal := none, barLocal := false, barRanks := [], barEarly := [] }

/-- The barrier idle (R331: declared broken, or disagreement). -/
def DomSt.noPhase (d : DomSt) : DomSt := { d with barVal := none, barLocal := false, barRanks := [], barEarly := [] }

/-- The release of the domain barrier on this chip: waiting slots run on with an acquire at .dom; for evicted teams the
release is held (R333). -/
def State.dbarRelease (s : State) (m : Nat) : State :=
  let d := s.dom m
  let here := s.dbarWaiters d.ctx
  let away := s.dbarAway d.ctx
  let s := s.setDom m d.nextPhase
  let s := here.foldl (fun s u => s.releaseTeam u (· == .dbar)) s
  let s := s.acquireTeams 4 here
  { s with dbarHeld := away.foldl setIns s.dbarHeld }

/-- Abort each kernel of a context with a group waiting at the DBAR (R331). -/
def State.dbarAbort (s : State) (m : Nat) (c : Cause) : State :=
  let d := s.dom m
  let kids := nubN ((s.dbarWaiters d.ctx ++ s.dbarAway d.ctx).map fun u => (s.team u).kid)
  let s := s.setDom m d.noPhase
  kids.foldl (fun s k => abortKernel s k { status := 3, cause := c.code }) s

/-- Released when every live rank has arrived; a pending re-key goes first (REKEY finishes it, R331, R332). -/
def State.checkDbar (s : State) (m : Nat) : State :=
  let d := s.dom m
  if d.barVal.isSome && !d.rekeyPending && d.liveRanks.all (fun r => d.barRanks.contains r) then s.dbarRelease m else s

/-- An arrival of rank `r` with value `a`. -/
def State.dbarArrive (s : State) (m r a : Nat) (loc : Bool) : State :=
  let d := s.dom m
  match d.barVal with
  | some v =>
    if v ≠ a then s.dbarAbort m .barrierMismatch
    else (s.setDom m { d with barRanks := setIns d.barRanks r, barLocal := d.barLocal || loc }).checkDbar m
  | none => (s.setDom m { d with barVal := some a, barRanks := [r], barLocal := loc }).checkDbar m

/-- The route to a fabric identity over links that satisfy `ok`, with its hops: the first valid entry on an UP link, else
the lowest UP link to a neighbour of that identity (R460). A direction whose counter has reached 2^40 sends nothing
until its keys are updated (R418), and one whose lease waits for acknowledgements carries no more (R399). -/
def State.routeBy (s : State) (ok : Nat → Bool) (fabric : Nat) : Option (Nat × Nat) :=
  let up (k : Nat) : Bool := (s.link k).st == .up && !(s.link k).leased && decide ((s.link k).sendCtr < 2 ^ 40) && ok k
  match (List.range 256).findSome? fun e =>
      let v := s.routes.get 0x100 e
      if v.testBit 0 && bitsN v 31 16 == fabric && up (bitsN v 15 12) then some (bitsN v 15 12, bitsN v 11 8) else none with
  | some r => some r
  | none => ((List.range 16).find? fun k => up k && (s.link k).peer == fabric).map fun k => (k, 1)

/-- The route over links that partition `p` owns (R439). -/
def State.routeOf (s : State) (p fabric : Nat) : Option (Nat × Nat) := s.routeBy (s.part p).ownsLink fabric

/-- Hops to a rank; none where no route reaches it. -/
def State.hopsToRank (s : State) (d : DomSt) (r : Nat) : Option Nat :=
  match d.fabricOf r with
  | some f => (s.routeOf (s.partOfCtx d.ctx) f).map Prod.snd
  | none => none

/-- Traffic that no context pays: all but barrier arrivals, collectives and window accesses (R327, R431, R485). -/
def Sent.dieTraffic (m : Sent) : Bool := !([1, 2, 3, 4, 17].contains m.kind)

/-- What sending a message over a route's hops costs: its context pays for barrier arrivals and collectives, the sending die for
what no context does (R323, R327, R420, R485). -/
def State.chargeFlits (s : State) (k hops : Nat) (m : Sent) : State :=
  match m.payer with
  | some (c, core, team) =>
    let p : Payer := { ctx := c, core := some core, team := some team }
    s.charge p (m.flits * hops * s.wt p 19) false
  | none => if m.dieTraffic then s.chargeDie (k / 4) (m.flits * hops * Config.weight 2 19) else s

/-- Send flits over a link, with the route's hops: they take its next counters, and are kept until acknowledged,
acknowledgements apart (R418, R420). -/
def State.overLink (s : State) (k hops : Nat) (m : Sent) : State :=
  let s := s.chargeFlits k hops m
  let l := s.link k
  let m := { m with counter := l.sendCtr }
  (s.setLink k { l with
    sendCtr := l.sendCtr + m.flits
    unacked := if m.kind = 18 then l.unacked else l.unacked ++ [{ m with payer := none }] }).send m

/-- The links that a message may take (R439): any for a flit that only crosses this chip. -/
def State.linkFor (s : State) (m : Sent) (k : Nat) : Bool :=
  match m.dom with
  | some i => (s.part (s.partOfCtx (s.dom i).ctx)).ownsLink k
  | none => true

/-- In REKEY a control message goes under the new secret's keys and waits for them, and data waits for the re-key (R428,
R429). -/
def State.keyless (s : State) (m : Sent) : Bool :=
  match m.dom with
  | some i => (s.dom i).st == .rekey && m.kind != 5 && m.kind != 9 && (!(s.dom i).newSecret || [2, 3, 4, 17].contains m.kind)
  | none => false

/-- A domain message to a rank takes the pair's next sequence number, under the epoch in force or, in REKEY, under the control
keys of the next (R423, R429); a new secret travels in a session of Rind's (R424). -/
def State.stamp (s : State) (m : Sent) : Sent × State :=
  match m.dom, m.seq with
  | some i, none =>
    if m.rank < 64 && m.kind != 9 then
      let d := s.dom i
      if d.st == .rekey && d.newSecret then
        let n := d.ctlSend.get 0 m.rank
        ({ m with epoch := (d.epoch + 1) % 256, ctl := true, seq := some n },
          s.setDom i { d with ctlSend := d.ctlSend.put m.rank (n + 1) })
      else
        let n := d.sendSeq.get 0 m.rank
        ({ m with epoch := d.epoch, seq := some n }, s.setDom i { d with sendSeq := d.sendSeq.put m.rank (n + 1) })
    else (m, s)
  | _, _ => (m, s)

/-- A kept message goes before this one: the same domain and destination, and nothing but the route or its turn keeps it
(R250, R420). -/
def State.behindKept (s : State) (m : Sent) : Bool :=
  s.heldFlits.any fun x => x.dom == m.dom && x.dst == m.dst && !s.keyless x

/-- Send a message by its route; without one it is kept, in order (R420). -/
def State.ship (s : State) (m : Sent) : State :=
  if s.keyless m || s.behindKept m then { s with heldFlits := s.heldFlits ++ [m] }
  else
    match s.routeBy (s.linkFor m) m.dst with
    | some (k, h) => let (m, s) := s.stamp m; s.overLink k h m
    | none => { s with heldFlits := s.heldFlits ++ [m] }

/-- Send a domain message to a rank. -/
def State.sendDom (s : State) (m kind flits : Nat) (words : List Nat) (r : Nat) (payer : Option (Nat × Nat × Nat) := none) :
    State :=
  s.ship { kind := kind, dst := ((s.dom m).fabricOf r).getD 0, src := Config.fabricId, flits := flits, dom := some m,
           rank := r, words := words, payer := payer }

/-- Send one message to each rank of a list other than this chip's. -/
def State.sendRanks (s : State) (m kind flits : Nat) (words : List Nat) (ranks : List Nat)
    (payer : Option (Nat × Nat × Nat) := none) : State :=
  ranks.foldl (fun s r => if r = (s.dom m).rank then s else s.sendDom m kind flits words r payer) s

/-! ## Arrivals (R324, R325, R329) -/

/-- Opcodes of the arrival instructions (R326). -/
def opBar : Nat := 0xE80
def opBara : Nat := 0xE90
def opBarn : Nat := 0xEB0
def opCbar : Nat := 0xEC0
def opDbar : Nat := 0xED0

/-- The scope at which an arrival is a release (R248). -/
def arrivalScope (op : Nat) : Nat := if op = opDbar then 4 else if op = opCbar then 2 else 1

def Group.mapHeld (g : Group) (f : Held → Held) : Group :=
  { g with
    slot0 := { g.slot0 with held := f g.slot0.held }, slot1 := { g.slot1 with held := f g.slot1.held }
    parked := g.parked.map fun e => (e.1, f e.2) }

/-- A counted arrival aborts its kernel: the report names the slot that recorded lanes last (R353, log 15). -/
def State.barrierAbort (s : State) (core slot : Nat) (g : Group) (a : Arrival) (c : Cause) : State :=
  let t := s.team g.team
  abortKernel s t.kid { status := 3, cause := c.code, core := core, slot := slot, pcSlot := a.pcs, lanes := g.liveLanes,
                        team := t.idx, pc := a.pc }

/-- The release of a phase of named barrier `n`: its waiters run on, and no group has an arrival pending there. -/
def State.releaseNamed (s : State) (uid n : Nat) (phase : Bool) : State :=
  { s with groups := s.groups.map fun (k, g) =>
      (k, if g.team == uid then { g.release (· == .barw n phase) with named := g.named.erase n } else g) }

/-- The group's arrival at a named barrier is counted (R329). -/
def State.countNamed (s : State) (core slot : Nat) (g : Group) (a : Arrival) : State :=
  let n := a.n
  let c := a.val
  let t := s.team g.team
  let b := t.named.get {} n
  let groups := (s.kern t.kid).rec_.team
  if c = 0 ∨ c > groups then s.barrierAbort core slot g a .barrierCount
  else if b.counting ∧ b.expected ≠ c then s.barrierAbort core slot g a .barrierMismatch
  else
    let arr := (if b.counting then b.arrivals else 0) + 1
    let g := { g with named := g.named.put n b.phase }
    let g := g.mapHeld fun h => if h == .barp n then .barw n b.phase else h
    let s := s.setGroup core slot g
    if arr = c then
      let s := s.setTeam g.team { t with named := t.named.set {} n { phase := !b.phase } }
      s.releaseNamed g.team n b.phase
    else s.setTeam g.team { t with named := t.named.set {} n { b with counting := true, expected := c, arrivals := arr } }

/-- Count the group's arrival once its recorded lanes cover its live lanes and its earlier accesses have performed at
the barrier's scope (R324, R325). -/
def State.settleArrival (s : State) (core slot : Nat) : State :=
  match s.group? core slot with
  | none => s
  | some g =>
    match g.arrival with
    | none => s
    | some a =>
      let pending := (s.accOf core slot g.tag).any fun e =>
        a.prior.contains e.1 && s.unreleased (arrivalScope a.op) e.2
      if g.liveLanes &&& ~~~a.lanes != 0 || g.liveLanes == 0 || pending then s
      else
        let g := { g with arrival := none }
        let s := s.setGroup core slot g
        let t := s.team g.team
        if a.op = opBar ∨ (a.op = opCbar ∧ t.cluster.isNone) then
          (s.setTeam g.team { t with barArr := t.barArr + 1 }).checkBar g.team
        else if a.op = opCbar then (s.setTeam g.team { t with clusArr := t.clusArr + 1 }).checkClus g.team
        else if a.op = opDbar then
          match s.domOf t.ctx with
          | some (m, d) =>
            if d.barLocal && d.barVal == some a.val then s
            else
              (s.sendRanks m 1 1 [a.val] d.ranks (some (t.ctx, core, g.team))).dbarArrive m d.rank a.val true
          | none => s
        else s.countNamed core slot g a

/-! ## Retirement of teams (R70, R347, R368, R375) -/

/-- The metered energy of a team not yet added to its kernel is posted; the first total above the limit aborts
(R347). -/
def State.postTeam (s : State) (uid : Nat) : State :=
  let t := s.team uid
  let k := s.kern t.kid
  if s.kernels.has t.kid then
    (s.setKern t.kid { k with charged := (k.charged + t.unposted) % 2 ^ 96 }).setTeam uid { t with posted := t.charge }
  else s

def State.checkLimit (s : State) (kid : Nat) : State :=
  let k := s.kern kid
  if k.rec_.limit ≠ 0 ∧ !k.overDone ∧ k.total_ > k.rec_.limit then
    abortKernel (s.setKern kid { k with overDone := true }) kid { status := 4, value := k.rec_.limit }
  else s

/-- Charge-back of a team to its queue (R368): the provisional amount returns, the metered energy is subtracted. -/
def State.chargeBack (s : State) (t : Team) : State :=
  let q := (s.kern t.kid).queue
  let x := s.queue q
  let d := x.deficit + t.prov - (t.charge + t.corr + t.foot + t.fill)
  s.setQueue q { x with deficit := max (-(2 ^ 63)) (min x.quantum d) }

/-- Some team of a context is resident. -/
def State.ctxResident (s : State) (c : Nat) : Bool :=
  s.teams.any fun e => e.2.ctx == c && !e.2.retired && e.2.here

/-- An evict command ends when no team of the context is resident; a context left without images is not held, since
RESUME is for EVICTED ones (R375, R444). -/
def State.settleCmd (s : State) (c : Nat) : State :=
  let x := s.ctx c
  if x.cmd = 4 && !s.ctxResident c then s.setCtx c { x with cmd := 0, result := 1, held := x.st == .evicted } else s

/-- What has happened to a team of a context (R375). -/
inductive TeamEvent where
  | placed | restored | evicted | left
deriving DecidableEq, Repr

/-- The state of a context after an event of a team: the rows of R375, and no other change (R11). -/
def State.settleCtx (s : State) (c : Nat) (ev : TeamEvent) : State :=
  let x := s.ctx c
  let away := s.teams.any fun e => e.2.ctx == c && e.2.image.isSome
  let s := match x.st, ev with
    | .ready, .placed | .ready, .restored | .evicted, .restored => s.setCtx c { x with st := .active }
    | .active, .evicted | .active, .left =>
      if s.ctxResident c then s else s.setCtx c { x with st := if away then .evicted else .ready }
    | .parked, .evicted => if s.ctxResident c then s else s.setCtx c { x with st := .evicted }
    | _, _ => s
  s.settleCmd c

/-- The team holds nothing in flight on its core: no copy, no matrix operation (log 16). -/
def State.teamQuiet (s : State) (uid : Nat) : Bool :=
  !(s.copies.any fun e => e.2.team == uid && !e.2.fin) && !(s.mats.any fun e => e.2.team == uid)

/-- A team whose groups have all retired leaves: posted, charged back, its join step pending (R321), its resources
freed; a cluster's team keeps its scratchpad until the whole cluster has retired (R264). -/
def State.tryRetireTeam (s : State) (uid : Nat) : State :=
  match s.teams.find? uid with
  | none => s
  | some t =>
    if !t.live.isEmpty || t.retired || t.image.isSome || !s.teamQuiet uid then s
    else
      let s := (s.postTeam uid).chargeBack t
      let k := s.kern t.kid
      let s := if t.join ≠ 0 ∧ k.st.abortable then s.setKern t.kid { k with joins := k.joins ++ [(uid, t.join)] } else s
      let s := s.setTeam uid { s.team uid with retired := true, slots := [] }
      let cl := s.clusterOf uid
      let s := if cl.all fun e => e.2.retired then cl.foldl (fun s e => { s with teams := s.teams.erase e.1 }) s else s
      let s := (s.returnAllowance t.core t.ctx).settleCtx t.ctx .left
      s.checkLimit t.kid

/-- An arrival of some other group of the team that waits at the cinch for group `idx`, beyond sequence index `seq`, under a
register that `f` picks (R290): with the group's number and the arrival's place. -/
def State.gangWaiter (s : State) (uid idx seq : Nat) (f : W64 → Bool) : Option (Nat × Nat × CinchArr) :=
  s.groups.findSome? fun (k, g) =>
    if g.team == uid && g.idx != idx then
      (List.find? (fun x => x.2.gang.getLsbD idx && decide (x.2.seq > seq) && f x.2.gang) g.cinch).map fun x => (k, x)
    else none

def State.gangBroken (s : State) (uid idx seq : Nat) (f : W64 → Bool) : Bool := (s.gangWaiter uid idx seq f).isSome

/-- The group of a slot retires (R70): its resources are freed, barriers expect one group less, a gang it leaves behind
is broken (R290), the report naming the MMA that waits for it (R353, log 15), and the team leaves with its last group. -/
def State.retireGroup (s : State) (core slot : Nat) : State :=
  match s.group? core slot with
  | none => s
  | some g =>
    let t := s.team g.team
    let s := s.dropGroup core slot
    let s := s.setTeam g.team { t with live := t.live.filter (· != g.idx) }
    match s.gangWaiter g.team g.idx g.mmaSeq (fun _ => true) with
    | some (k, x, w) =>
      abortKernel s t.kid { status := 3, cause := Cause.gangBroken.code, core := core, slot := k % 1024
                            pcSlot := if x < 2 then x else 0, team := t.idx, pc := w.pc }
    | none => (((s.checkBar g.team).checkClus g.team).returnAllowance core t.ctx).tryRetireTeam g.team

/-! ## The divergence stack (R69 to R72) -/

def stackAddr (t : Team) (g : Group) (i : Nat) : Nat := t.frame + 1024 * g.idx + 16 * i

/-- The address an entry holds for a slot: one that waits at an RCV is pushed at that RCV, to reach it again (log 15). -/
def PcSlot.pushedPc (p : PcSlot) : Nat := match p.held with | .rcv _ => prevSlot p.pc | _ => p.pc

/-- A slot that waits at a barrier or at the cinch goes on waiting while its entry is on the stack (log 15). -/
def Group.park (g : Group) (x : Nat) : Group :=
  let g := match (g.slotAt x).held with
    | .no | .rcv _ | .pop _ | .fetch _ | .reply => g
    | h => { g with parked := g.parked.put g.depth h }
  match g.cinch.find? x with
  | some a => { g with cinch := (g.cinch.erase x).put (2 + g.depth) a }
  | none => g

/-- The slot that a popped entry fills waits on for what it waited for when it was pushed. -/
def Group.unpark (g : Group) (x : Nat) : Group :=
  let g := match g.parked.find? g.depth with
    | some h => { g.setSlot x { g.slotAt x with held := h } with parked := g.parked.erase g.depth }
    | none => g
  match g.cinch.find? (2 + g.depth) with
  | some a => { g with cinch := (g.cinch.erase (2 + g.depth)).put x a }
  | none => g

/-- An access of the divergence stack in flight, after the accesses `prior`. -/
def stackAccess (core slot pcs : Nat) (prior : List Nat) (g : Group) (t : Team) (op : AccOp) (i : Nat) (data : List Nat) :
    Access :=
  { core := core, slot := slot, pcs := pcs, tag := g.tag, team := g.team, gidx := g.idx, kid := t.kid,
    ctx := t.ctx, prior := prior, space := .global, op := op, ty := .b64, count := 2, lanes := 1, left := 1,
    ea := [stackAddr t g i], data := [data] }

/-- Pop the top entry into PC slot `x`, which runs when the load returns: it follows what preceded the DBR that made the
entry (R225). -/
def State.popInto (s : State) (core slot x : Nat) : State :=
  match s.group? core slot with
  | none => s
  | some g =>
    let t := s.team g.team
    let d := g.depth - 1
    let seen := g.below.get [] d
    let (id, s) := s.fresh
    let s := { s with acc := s.acc.put id (s.lookL1 (stackAccess core slot x seen g t (.pop x) d [])) }
    s.setGroup core slot (({ g with depth := d, below := g.below.erase d } : Group).setSlot x
      { held := .pop id, index := g.slot0.index, seen := seen })

/-- A merge (R69): slot 0 takes the lanes and continues at `pc`, after the accesses of both (R225); slot 1 becomes empty, the
top entry is popped. -/
def State.merge (s : State) (core slot pc : Nat) : State :=
  match s.group? core slot with
  | none => s
  | some g =>
    let m := g.slot0.mask ||| g.slot1.mask
    let last := if g.slot0.pc = pc then g.slot0 else g.slot1
    let g := { g with slot0 := { pc := pc, mask := m, index := g.slot0.index, line := last.line, seen := joinIds g.slot0.seen g.slot1.seen }, slot1 := {} }
    if g.depth = 0 then s.setGroup core slot { g with slot0 := { g.slot0 with index := 0xFF } }
    else (s.setGroup core slot g).popInto core slot 1

def PcSlot.empty (p : PcSlot) : Bool :=
  p.mask == 0 && (match p.held with | .pop _ => false | _ => true)

def PcSlot.atRcv (p : PcSlot) : Bool := match p.held with | .rcv _ => true | _ => false

/-- After lanes left the group's slots (R70, R84): complete an RCV that waited on the emptied slot, pop into slot 0, or
retire the group; then arrivals that now cover the live lanes are counted. -/
def State.settleSlots (s : State) (core slot : Nat) : State :=
  match s.group? core slot with
  | none => s
  | some g =>
    let s :=
      if g.slot0.empty && g.slot1.empty then
        if g.depth = 0 then s.retireGroup core slot else s.popInto core slot 0
      else if g.slot0.mask == 0 && g.slot0.empty && g.slot1.atRcv then s.merge core slot g.slot1.pc
      else if g.slot1.mask == 0 && g.slot1.empty && g.slot0.atRcv then s.merge core slot g.slot0.pc
      else s
    s.settleArrival core slot

/-! ## Lane death (R84, R89) -/

/-- Both lanes of each pair that a mask touches (R89). -/
def pairUp (m : Mask) : Mask := maskOf fun l => m.getLsbD (2 * (l / 2)) || m.getLsbD (2 * (l / 2) + 1)

def clearMask (p : PcSlot) (m : Mask) : PcSlot := { p with mask := p.mask &&& ~~~m }

/-- Lanes die: they leave both slots for good; a group whose last live lane dies retires and is counted. -/
def State.killLanes (s : State) (core slot : Nat) (m : Mask) : State :=
  match s.group? core slot with
  | none => s
  | some g =>
    let t := s.team g.team
    let m := if (s.kern t.kid).rec_.flags.testBit 0 then pairUp m else m
    let fresh := m &&& g.liveLanes
    if fresh = 0 then s.setGroup core slot { g with dead := g.dead ||| m }
    else
      let g := { g with dead := g.dead ||| m, slot0 := clearMask g.slot0 m, slot1 := clearMask g.slot1 m }
      let s := s.setGroup core slot g
      let s := (lanesOf fresh).foldl (fun s _ => s.countErrCtx t.ctx 7) s
      let s := if g.liveLanes = 0 then s.countErrCtx t.ctx 8 else s
      s.settleSlots core slot

end Sys2Proof.Machine
end

