-- ==== Sys2Proof/Machine/MemInstr.lean ====
section
/-! DEFINITION. Memory instructions at issue (R257 to R282): addresses, the checks of R278 made at issue, and what is
put in flight; fences, waits and cache control. -/

namespace Sys2Proof.Machine

open Sys2Proof

/-! ## Addresses and data -/

/-- One value for each of the 32 lanes; lanes outside `m` get `d`. -/
def perLane {α : Type} (m : Mask) (d : α) (f : Nat → α) : List α :=
  (List.range 32).map fun l => if m.getLsbD l then f l else d

/-- Element `i` of a lane's store data (R258). -/
def Env.elem (e : Env) (k l i : Nat) : Nat :=
  match e.o.c with
  | .v n => if k = 1 then e.src e.o.c e.o.ty l
    else (if e.o.ty.isWide then e.g.lane64 (n.toNat + 2 * i) l else e.g.lane32 (n.toNat + i) l) % 2 ^ e.o.ty.width
  | c => e.src c e.o.ty l

def Env.storeData (e : Env) (k : Nat) (l : Nat) : List Nat := (List.range k).map fun i => e.elem k l i

/-- The operand of an atomic: one value, or for cas the compare and new parts (R271). -/
def Env.atomData (e : Env) (l : Nat) : List Nat :=
  if atomOpOf e.o = 7 then
    match e.o.ty, e.o.c with
    | .b64, .v n => [e.g.lane64 n.toNat l, e.g.lane64 (n.toNat + 2) l]
    | _, c => let x := e.src64 c .b64 true l; [x % 2 ^ 32, x / 2 ^ 32]
  else [e.src e.o.c e.o.ty l]

/-- The event of one atomic's charge (R282). -/
def atomEvent (op : Nat) (t : Ty) : Nat := if op ≥ 10 then (if t == .f64 then 7 else 6) else 5

/-- The lowest lane of a mask for which `f` holds. -/
def lowest (m : Mask) (f : Nat → Bool) : Option Nat := (lanesOf m).find? f

/-- A memory fault of the lowest failing lane (R278). -/
def State.memFault (s : State) (e : Env) (c : Cause) (l addr : Nat) : State := s.faultAt e c (1#32 <<< l) addr

/-- The pairs that disagree in activity, address or data (R88). -/
def Env.pairBad (e : Env) (addr : Nat → Nat) (data : Nat → List Nat) : Mask :=
  if e.prot then pairDiff fun l => if e.run.getLsbD l then 1 :: addr l :: data l else [0] else 0

/-! ## Global accesses -/

/-- Alignment faults of an atomic's lane (R231, R272). -/
def atomMisaligned (size a : Nat) : Option Cause :=
  if a % size = 0 then none else if a / 4096 = (a + size - 1) / 4096 then some .misaligned else some .straddle

/-- Check order 4 of R278 and the rank check of R430 for the lanes that address the domain window. -/
def State.windowFault (s : State) (e : Env) : Option (Cause × Nat) :=
  match lowest e.run (fun l => e.gea l / 2 ^ 56 == 1) with
  | none => none
  | some l =>
    match s.domOf e.team.ctx with
    | none => some (.noDomain, l)
    | some (_, d) =>
      if d.st == .broken then some (.domainLost, l)
      else
        (lowest e.run fun l => e.gea l / 2 ^ 56 == 1 && (d.entryOf (e.gea l / 2 ^ 50 % 64)).isNone).map
          fun l => (.addressRange, l)

/-- The first failing check of orders 1 to 4 of R278. -/
def State.globalFault (s : State) (e : Env) (atom : Bool) : Option (Cause × Nat) :=
  match lowest e.run (fun l => e.gea l / 2 ^ 57 != 0) with
  | some l => some (.addressRange, l)
  | none =>
    match (if atom then lowest e.run (fun l => (atomMisaligned (tyBytes e.o.ty) (e.gea l)).isSome) else none) with
    | some l => (atomMisaligned (tyBytes e.o.ty) (e.gea l)).map fun c => (c, l)
    | none => s.windowFault e

/-- A global instruction: the protected comparison (stores and atomics), the checks made at issue, then its access. -/
def issueGlobal (i : Instr) (o : Fields) (s : State) (op : AccOp) (path k : Nat) (ret compared atom : Bool)
    (data : Env → Nat → List Nat) : Host.Outcome State Fault Refusal :=
  issue i o s fun e s =>
    let bad := if compared then e.pairBad e.gea (data e) else 0
    if bad != 0 then s.pairAbort e bad
    else
      match s.globalFault e atom with
      | some (c, l) => s.memFault e c l (e.gea l)
      | none =>
        s.launchAcc e
          { core := 0, slot := 0, pcs := 0, tag := 0, team := 0, ctx := 0, space := .global, op := op, path := some path,
            order := o.md.order.toNat, scope := o.md.scope.toNat, ty := o.ty, count := k,
            dst := if ret then some o.dst.toNat else none, lanes := e.run, left := e.run,
            ea := perLane e.run 0 e.gea, data := perLane e.run [] (data e) }

def execLdgRaw (o : Fields) (s : State) : Host.Outcome State Fault Refusal :=
  issueGlobal (.ldgRaw o) o s .load 1 (vecCount o) true false false fun _ _ => []

def execLdgElem (o : Fields) (s : State) : Host.Outcome State Fault Refusal :=
  issueGlobal (.ldgElem o) o s .elemLoad 1 (vecCount o) true false false fun _ _ => []

def execStgRaw (o : Fields) (s : State) : Host.Outcome State Fault Refusal :=
  issueGlobal (.stgRaw o) o s .store 2 (vecCount o) false true false fun e l => e.storeData (vecCount o) l

def execStgElem (o : Fields) (s : State) : Host.Outcome State Fault Refusal :=
  issueGlobal (.stgElem o) o s .elemStore 2 (vecCount o) false true false fun e l => e.storeData (vecCount o) l

def execAtomg (o : Fields) (s : State) : Host.Outcome State Fault Refusal :=
  issueGlobal (.atomg o) o s (.atom (atomOpOf o) true) 2 1 true true true fun e l => e.atomData l

def execRed (o : Fields) (s : State) : Host.Outcome State Fault Refusal :=
  issueGlobal (.red o) o s (.atom (atomOpOf o) false) 2 1 false true true fun e l => e.atomData l

/-! ## Scratchpad accesses (R263 to R265) -/

def roundUp (n a : Nat) : Nat := (n + a - 1) / a * a

/-- A lane's scratchpad address: exact, the base read as n32 (R262). -/
def Env.sea (e : Env) (l : Nat) : Int := (e.src e.o.a .n32 l : Int) + sxt 64 (e.src e.o.b .i64 l)

/-- The byte of a core's array that a lane's `n` bytes start at; none where the bound fails (R263, R264). -/
def State.sramPlace (s : State) (e : Env) (clus : Bool) (n l : Nat) : Option (Nat × Nat) :=
  let a := e.sea l
  if a < 0 then none
  else
    let a := a.toNat
    if clus then
      if e.team.cluster.isNone then none
      else
        match (s.clusterOf e.g.team).find? fun x => x.2.rank == a / 2 ^ 24 with
        | some (_, t) =>
          if a % 2 ^ 24 + n ≤ roundUp t.scratchLen 32 then some (t.core, t.scratchAt + a % 2 ^ 24) else none
        | none => none
    else if a + n ≤ roundUp e.team.scratchLen 32 then some (e.me.core, e.team.scratchAt + a)
    else none

/-- The sectors that lanes touch, one of each. -/
def laneSectors (m : Mask) (f : Nat → Nat) (n : Nat) : List Nat := nubN ((lanesOf m).flatMap fun l => sectorsOf (f l) n)

/-- A scratchpad or cluster instruction (R263, R264, R272). -/
def issueScratch (i : Instr) (o : Fields) (s : State) (op : AccOp) (clus : Bool) (k : Nat) (ret compared : Bool)
    (data : Env → Nat → List Nat) : Host.Outcome State Fault Refusal :=
  issue i o s fun e s =>
    let n := k * tyBytes o.ty
    let bad := if compared then e.pairBad (fun l => wrapN 65 (e.sea l)) (data e) else 0
    if bad != 0 then s.pairAbort e bad
    else
      match lowest e.run (fun l => (s.sramPlace e clus n l).isNone) with
      | some l => s.memFault e .scratchpadBound l (wrapN 64 (e.sea l))
      | none =>
        match lowest e.run (fun l => e.sea l % (tyBytes o.ty : Nat) != 0) with
        | some l => s.memFault e .misaligned l (wrapN 64 (e.sea l))
        | none =>
          let at_ (l : Nat) : Nat := match s.sramPlace e clus n l with | some (c, b) => sramKey c b | none => 0
          let secs := laneSectors e.run at_ n
          let far := secs.filter fun x => clus && x * 32 / 2 ^ 32 != e.me.core
          let work := match op with
            | .atom a _ => (lanesOf e.run).length * s.wt e.payer (atomEvent a o.ty)
            | _ => 0
          let s := s.charge e.payer (secs.length * s.wt e.payer 11 + work)
          let s := if far.isEmpty then s else s.charge e.payer (far.length * s.wt e.payer 27) false
          s.launchAcc e
            { core := 0, slot := 0, pcs := 0, tag := 0, team := 0, ctx := 0, space := if clus then .cluster else .scratch,
              op := op, path := some 0, order := o.md.order.toNat, scope := o.md.scope.toNat, ty := o.ty, count := k,
              dst := if ret then some o.dst.toNat else none, lanes := e.run, left := e.run,
              ea := perLane e.run 0 at_, data := perLane e.run [] (data e) }

def execLds (o : Fields) (s : State) : Host.Outcome State Fault Refusal :=
  issueScratch (.lds o) o s .load false (vecCount o) true false fun _ _ => []

def execSts (o : Fields) (s : State) : Host.Outcome State Fault Refusal :=
  issueScratch (.sts o) o s .store false (vecCount o) false true fun e l => e.storeData (vecCount o) l

def execLdsc (o : Fields) (s : State) : Host.Outcome State Fault Refusal :=
  issueScratch (.ldsc o) o s .load true (vecCount o) true false fun _ _ => []

def execStsc (o : Fields) (s : State) : Host.Outcome State Fault Refusal :=
  issueScratch (.stsc o) o s .store true (vecCount o) false true fun e l => e.storeData (vecCount o) l

/-- ATOMS; with .nr nothing returns (R271). -/
def execAtoms (o : Fields) (s : State) : Host.Outcome State Fault Refusal :=
  let ret := !o.md.spec.getLsbD 4
  issueScratch (.atoms o) o s (.atom (atomOpOf o) ret) false 1 ret true fun e l => e.atomData l

/-! ## Fences, waits, prefetch and cache control (R274 to R277) -/

/-- FENCE (R234, R274): its slot waits until its earlier accesses have performed, then drops what it drops. -/
def execFence (o : Fields) (s : State) : Host.Outcome State Fault Refusal :=
  issue (.fence o) o s fun e s => s.holdUntil e (.fence o.md.order.toNat o.md.scope.toNat)

/-- WAITC (R275): its slot waits while the counter is above the threshold. -/
def execWaitc (o : Fields) (s : State) : Host.Outcome State Fault Refusal :=
  issue (.waitc o) o s fun e s => s.holdUntil e (.waitc (o.md.spec.toNat % 4) (e.scal o.a .n64))

/-- Fetch one sector into L2, and with `l1` into the core's L1; any fault drops it (R276). -/
def State.prefetch (s : State) (e : Env) (l1 : Bool) (va : Nat) : State :=
  if va / 2 ^ 56 ≠ 0 then s
  else if l1 && (s.l1Hit e.me.core e.team.ctx va).isSome then s
  else
    match s.translate e.payer (stackOfCore e.me.core) va false with
    | (.fault .., s) => s
    | (.leaf l p _, s) =>
      if (s.permit e.team.ctx p .read).isSome then s
      else
        let pa := paOf l p va
        let have_ := (s.l2.get {} (pa / 128)).valid.testBit (pa / 32 % 4)
        let into := l1 && pteOrder p != 0
        let s := if have_ && !into then s else s.serveL2 e.payer (pteKey p) pa .read
        if into then s.l1Fill e.me.core e.team.ctx va l p else s

def State.prefetchAll (s : State) (e : Env) (l1 : Bool) : List Nat → State
  | [] => s
  | x :: r => (s.prefetch e l1 (x * 32)).prefetchAll e l1 r

def execPref (o : Fields) (s : State) : Host.Outcome State Fault Refusal :=
  issue (.pref o) o s fun e s =>
    s.prefetchAll e (o.md.spec.getLsbD 0) (nubN ((lanesOf e.run).map fun l => e.gea l / 32))

def execCinv (o : Fields) (s : State) : Host.Outcome State Fault Refusal :=
  issue (.cinv o) o s fun e s =>
    if o.md.spec.getLsbD 0 then s.l1Drop e.me.core e.team.ctx fun _ => true
    else
      let lines := ((lanesOf e.live).map e.gea).filterMap fun a => if a / 2 ^ 57 = 0 then some (a / 128) else none
      s.l1Drop e.me.core e.team.ctx fun x => lines.contains x.vline

end Sys2Proof.Machine
end

