-- ==== Sys2Proof/Machine/Element.lean ====
section
/-! DEFINITION. The element view of pages: codes and scale records (R43 to R45, R208, R268, R269, R313), and the new
value of an atomic (R271). -/

namespace Sys2Proof.Machine

open Sys2Proof

/-- Bits of a stored element on a page of format `fmt` with elements of `t` when raw. -/
def elemBits (fmt : Nat) (t : Ty) : Nat := match fmt with | 1 => 8 | 2 => 4 | _ => t.width

/-- The element index of nibble `h` of byte `va` in its page (R208). -/
def elemIndex (level pte va h : Nat) : Nat :=
  if pteFormat pte = 2 then 2 * (va % pageSize level) + h else va % pageSize level

/-- Physical address of the scale record of an element (R208). -/
def recordAt (pte i : Nat) : Nat := pteScale pte + 4 * (i / groupSize pte)

/-- A scale record, read under the key of its elements' leaf (R208). -/
def State.record (s : State) (key pa : Nat) : Nat := leNat ((List.range 4).map fun i => s.keyByte key (pa + i))

/-- The largest code of a format. -/
def codeMax (fmt : Nat) : Nat := if fmt = 2 then 15 else 255

/-- The code of nibble `h` of a byte (R43). -/
def codeOf (fmt : Nat) (b : Byte) (h : Nat) : Nat := if fmt = 2 then (b.toNat / 16 ^ h) % 16 else b.toNat

/-- A byte with its nibble `h` replaced. -/
def putCode (fmt : Nat) (b : Byte) (h code : Nat) : Byte :=
  if fmt = 2 then
    (if h = 0 then BitVec.ofNat 8 (b.toNat / 16 * 16 + code) else BitVec.ofNat 8 (b.toNat % 16 + 16 * code))
  else BitVec.ofNat 8 code

/-- Bytes and nibbles of the `k` elements of a lane from `va` (R268, R269). -/
def elemPlaces (fmt k va : Nat) : List (Nat × Nat) :=
  (List.range k).map fun i => if fmt = 2 then (va + i / 2, i % 2) else (va + i, 0)

/-- The new value of an atomic and its flags (R271, R272). -/
def atomNew (op : Nat) (t : Ty) (old : Nat) (data : List Nat) : Nat × FFlags :=
  let w := t.width
  let c := data.getD 0 0
  match op with
  | 0 => ((old + c) % 2 ^ w, 0)
  | 1 => (wrapN w (min (intOf t old) (intOf t c)), 0)
  | 2 => (wrapN w (max (intOf t old) (intOf t c)), 0)
  | 3 => (old &&& c, 0)
  | 4 => (old ||| c, 0)
  | 5 => (old ^^^ c, 0)
  | 6 => (c, 0)
  | 7 => (if old = c then data.getD 1 0 else old, 0)
  | 8 => (if old ≥ c then 0 else old + 1, 0)
  | 9 => (if old = 0 ∨ old > c then c else old - 1, 0)
  | 10 => fAdd (fmtOf t) .rne old c
  | 11 => fMinMax (fmtOf t) false false old c
  | _ => fMinMax (fmtOf t) true false old c

/-- A loaded element as its lane holds it (R168, R37). -/
def loadedLane (t : Ty) (x : Nat) : Nat := if t.isInt then laneInt t (intOf t x) else x % 2 ^ t.width

end Sys2Proof.Machine
end

