-- ==== Sys2Proof/Machine/Scalar.lean ====
section
/-! DEFINITION. Scalar arithmetic, logic, compares and moves (R136 to R143). -/

namespace Sys2Proof.Machine

open Sys2Proof

/-- A scalar result of a type as its 64-bit register holds it: 32-bit forms are extended by the type (R136). -/
def scalOut (t : Ty) (x : Int) : Nat :=
  if t.isWide then wrapN 64 x
  else if t.isSigned then wrapN 64 (sxt 32 (wrapN 32 x))
  else wrapN 32 x

/-- An exact integer result, wrapped or with .sat clamped (R37, R141). -/
def narrowInt (o : Fields) (x : Int) : Int := if o.md.sat then clampTo o.ty x else x

/-- The operands of a scalar instruction as its type reads them. -/
def Env.sInt (e : Env) (x : Src) : Int := intOf e.o.ty (e.scal x e.o.ty)
def Env.sNat (e : Env) (x : Src) : Nat := e.scal x e.o.ty

/-- An instruction that writes a scalar under R137. -/
def issueS (i : Instr) (o : Fields) (s : State) (f : Env → Int) : Host.Outcome State Fault Refusal :=
  issue i o s fun e s => if e.takes then s.putS e o.dst.toNat (scalOut o.ty (f e)) else s

/-- Shift counts and field descriptors (R141). -/
def shl (w a k : Nat) : Nat := if k ≥ w then 0 else a * 2 ^ k % 2 ^ w
def shr (w a k : Nat) : Nat := if k ≥ w then 0 else a / 2 ^ k
def sra (w a k : Nat) : Nat :=
  let x := sxt w a
  wrapN w (x / 2 ^ min k (w - 1))

/-- Zero bits above the highest one bit; the width for zero. -/
def clz (w a : Nat) : Nat := if a = 0 then w else w - 1 - Nat.log2 a

/-- Field extract (R141): position and length cut to the width; sign-extended for signed types of nonzero length. -/
def bfe (t : Ty) (a d : Nat) : Int :=
  let w := t.width
  let pos := min (d % 256) w
  let len := min (d / 256 % 256) (w - pos)
  let f := a / 2 ^ pos % 2 ^ len
  if t.isSigned ∧ 0 < len then sxt len f else f

/-- Field insert (R141). -/
def bfi (w a b d : Nat) : Nat :=
  let pos := min (d % 256) w
  let len := min (d / 256 % 256) (w - pos)
  let m := (2 ^ len - 1) * 2 ^ pos
  (a &&& (2 ^ w - 1 - m)) ||| (b * 2 ^ pos &&& m)

def execSadd (o : Fields) (s : State) : Host.Outcome State Fault Refusal :=
  issueS (.sadd o) o s fun e => narrowInt o (e.sInt o.a + e.sInt o.b)

def execSsub (o : Fields) (s : State) : Host.Outcome State Fault Refusal :=
  issueS (.ssub o) o s fun e => narrowInt o (e.sInt o.a - e.sInt o.b)

def execSmin (o : Fields) (s : State) : Host.Outcome State Fault Refusal :=
  issueS (.smin o) o s fun e => min (e.sInt o.a) (e.sInt o.b)

def execSmax (o : Fields) (s : State) : Host.Outcome State Fault Refusal :=
  issueS (.smax o) o s fun e => max (e.sInt o.a) (e.sInt o.b)

def execSmul (o : Fields) (s : State) : Host.Outcome State Fault Refusal :=
  issueS (.smul o) o s fun e => narrowInt o (e.sInt o.a * e.sInt o.b)

def execSmulh (o : Fields) (s : State) : Host.Outcome State Fault Refusal :=
  issueS (.smulh o) o s fun e => e.sInt o.a * e.sInt o.b / 2 ^ o.ty.width

def execSmad (o : Fields) (s : State) : Host.Outcome State Fault Refusal :=
  issueS (.smad o) o s fun e => narrowInt o (e.sInt o.a * e.sInt o.b + e.sInt o.c)

def execSand (o : Fields) (s : State) : Host.Outcome State Fault Refusal :=
  issueS (.sand o) o s fun e => (e.sNat o.a &&& e.sNat o.b : Nat)

def execSor (o : Fields) (s : State) : Host.Outcome State Fault Refusal :=
  issueS (.sor o) o s fun e => (e.sNat o.a ||| e.sNat o.b : Nat)

def execSxor (o : Fields) (s : State) : Host.Outcome State Fault Refusal :=
  issueS (.sxor o) o s fun e => (e.sNat o.a ^^^ e.sNat o.b : Nat)

def execSandn (o : Fields) (s : State) : Host.Outcome State Fault Refusal :=
  issueS (.sandn o) o s fun e => (e.sNat o.a &&& (2 ^ o.ty.width - 1 - e.sNat o.b) : Nat)

def execSshl (o : Fields) (s : State) : Host.Outcome State Fault Refusal :=
  issueS (.sshl o) o s fun e => (shl o.ty.width (e.sNat o.a) (e.sNat o.b % 256) : Nat)

def execSshr (o : Fields) (s : State) : Host.Outcome State Fault Refusal :=
  issueS (.sshr o) o s fun e => (shr o.ty.width (e.sNat o.a) (e.sNat o.b % 256) : Nat)

def execSsra (o : Fields) (s : State) : Host.Outcome State Fault Refusal :=
  issueS (.ssra o) o s fun e => (sra o.ty.width (e.sNat o.a) (e.sNat o.b % 256) : Nat)

def execSpopc (o : Fields) (s : State) : Host.Outcome State Fault Refusal :=
  issueS (.spopc o) o s fun e => (popNat o.ty.width (e.sNat o.a) : Nat)

def execSclz (o : Fields) (s : State) : Host.Outcome State Fault Refusal :=
  issueS (.sclz o) o s fun e => (clz o.ty.width (e.sNat o.a) : Nat)

def execSbfe (o : Fields) (s : State) : Host.Outcome State Fault Refusal :=
  issueS (.sbfe o) o s fun e => bfe o.ty (e.sNat o.a) (e.sNat o.b)

def execSbfi (o : Fields) (s : State) : Host.Outcome State Fault Refusal :=
  issueS (.sbfi o) o s fun e => (bfi o.ty.width (e.sNat o.a) (e.sNat o.b) (e.sNat o.c) : Nat)

/-- An integer condition (R142, R177). -/
def intCond (c : Nat) (a b : Int) : Bool :=
  match c with
  | 0 => a == b
  | 1 => a != b
  | 2 => a < b
  | 3 => a ≤ b
  | 4 => a > b
  | _ => a ≥ b

/-- SCMP writes all 32 bits of the predicate (R142). -/
def execScmp (o : Fields) (s : State) : Host.Outcome State Fault Refusal :=
  issue (.scmp o) o s fun e s =>
    if e.takes then
      s.putP e o.dst.toNat (if intCond (o.md.spec.toNat % 8) (e.sInt o.a) (e.sInt o.b) then 0xFFFFFFFF else 0)
    else s

/-- The predicate register a predicate operand names. -/
def predIdx (x : Src) : Nat := match x with | .v n => n.toNat % 8 | _ => 0

/-- SSEL: a if an active lane of the issuing slot has its bit set, b otherwise (R142). -/
def execSsel (o : Fields) (s : State) : Host.Outcome State Fault Refusal :=
  issueS (.ssel o) o s fun e => if e.live &&& e.g.predReg (predIdx o.c) != 0 then e.sInt o.a else e.sInt o.b

def execSmov (o : Fields) (s : State) : Host.Outcome State Fault Refusal :=
  issueS (.smov o) o s fun e => e.sInt o.a

/-- SLEA: a + (b << k) modulo 2^64 (R143). -/
def execSlea (o : Fields) (s : State) : Host.Outcome State Fault Refusal :=
  issueS (.slea o) o s fun e => (e.sNat o.a + e.sNat o.b * 2 ^ (o.md.spec.toNat % 8) : Nat)

def execSmovi (o : Fields) (s : State) : Host.Outcome State Fault Refusal :=
  issueS (.smovi o) o s fun e => (e.scal o.a .b64 : Nat)

end Sys2Proof.Machine
end

