-- ==== Sys2Proof/Machine/Vector.lean ====
section
/-! DEFINITION. Vector integer instructions and predicate instructions (R167 to R178). -/

namespace Sys2Proof.Machine

open Sys2Proof

/-- Charge `k` units of event `ev` for each active lane (R172). -/
def State.laneCost (s : State) (e : Env) (ev k : Nat) : State :=
  s.charge e.payer ((lanesOf e.run).length * (k * s.wt e.payer ev))

/-- An instruction that writes a vector register of its type, lane by lane, for its active lanes (R167, R168). `ev` and
`k` give its charge per lane (R172). -/
def issueV (i : Instr) (o : Fields) (s : State) (ev k : Nat) (wide : Bool) (f : Env → Nat → Nat) :
    Host.Outcome State Fault Refusal :=
  issue i o s fun e s => (s.laneCost e ev k).putV e o.dst.toNat wide e.run (f e)

/-- An integer result of TYPE, exact before it is wrapped or clamped (R37). -/
def issueVI (i : Instr) (o : Fields) (s : State) (k : Nat) (f : Env → Nat → Int) : Host.Outcome State Fault Refusal :=
  issueV i o s 5 (if o.ty.isWide then 2 * k else k) o.ty.isWide fun e l => laneInt o.ty (narrowInt o (f e l))

/-- A source of a lane as its type reads it. -/
def Env.vInt (e : Env) (x : Src) (l : Nat) : Int := intOf e.o.ty (e.src x e.o.ty l)
def Env.vNat (e : Env) (x : Src) (l : Nat) : Nat := e.src x e.o.ty l

def execVadd (o : Fields) (s : State) : Host.Outcome State Fault Refusal :=
  issueVI (.vadd o) o s 1 fun e l => e.vInt o.a l + e.vInt o.b l

def execVsub (o : Fields) (s : State) : Host.Outcome State Fault Refusal :=
  issueVI (.vsub o) o s 1 fun e l => e.vInt o.a l - e.vInt o.b l

def execVmul (o : Fields) (s : State) : Host.Outcome State Fault Refusal :=
  issueVI (.vmul o) o s 4 fun e l => e.vInt o.a l * e.vInt o.b l

def execVmulh (o : Fields) (s : State) : Host.Outcome State Fault Refusal :=
  issueVI (.vmulh o) o s 4 fun e l => e.vInt o.a l * e.vInt o.b l / 2 ^ o.ty.width

def execVmad (o : Fields) (s : State) : Host.Outcome State Fault Refusal :=
  issueVI (.vmad o) o s 4 fun e l => e.vInt o.a l * e.vInt o.b l + e.vInt o.c l

/-- VMADW: 32-bit a and b of TYPE's signedness, a 64-bit c and result (R175). -/
def execVmadw (o : Fields) (s : State) : Host.Outcome State Fault Refusal :=
  let h : Ty := if o.ty.isSigned then .i32 else .n32
  issueV (.vmadw o) o s 5 8 true fun e l =>
    wrapN 64 (intOf h (e.src o.a h l) * intOf h (e.src o.b h l) + e.src o.c o.ty l)

/-- VDOT4: four byte products added to c (R175). -/
def execVdot4 (o : Fields) (s : State) : Host.Outcome State Fault Refusal :=
  issueV (.vdot4 o) o s 5 4 false fun e l =>
    let byte (x k : Nat) : Nat := x / 2 ^ (8 * k) % 256
    let tb : Ty := if o.md.spec.getLsbD 0 then .n8 else .i8
    let a := e.src o.a .b32 l
    let b := e.src o.b .b32 l
    let ex := intOf .i32 (e.src o.c .i32 l) +
      ([0, 1, 2, 3].map fun k => intOf o.md.type2 (byte a k) * intOf tb (byte b k)).sum
    wrapN 32 (if o.md.sat then clampTo .i32 ex else ex)

def execVabs (o : Fields) (s : State) : Host.Outcome State Fault Refusal :=
  issueVI (.vabs o) o s 1 fun e l => (e.vInt o.a l).natAbs

def execVneg (o : Fields) (s : State) : Host.Outcome State Fault Refusal :=
  issueVI (.vneg o) o s 1 fun e l => 0 - e.vInt o.a l

def execVmin (o : Fields) (s : State) : Host.Outcome State Fault Refusal :=
  issueVI (.vmin o) o s 1 fun e l => min (e.vInt o.a l) (e.vInt o.b l)

def execVmax (o : Fields) (s : State) : Host.Outcome State Fault Refusal :=
  issueVI (.vmax o) o s 1 fun e l => max (e.vInt o.a l) (e.vInt o.b l)

def execVand (o : Fields) (s : State) : Host.Outcome State Fault Refusal :=
  issueVI (.vand o) o s 1 fun e l => (e.vNat o.a l &&& e.vNat o.b l : Nat)

def execVor (o : Fields) (s : State) : Host.Outcome State Fault Refusal :=
  issueVI (.vor o) o s 1 fun e l => (e.vNat o.a l ||| e.vNat o.b l : Nat)

def execVxor (o : Fields) (s : State) : Host.Outcome State Fault Refusal :=
  issueVI (.vxor o) o s 1 fun e l => (e.vNat o.a l ^^^ e.vNat o.b l : Nat)

def execVnot (o : Fields) (s : State) : Host.Outcome State Fault Refusal :=
  issueVI (.vnot o) o s 1 fun e l => (2 ^ o.ty.width - 1 - e.vNat o.a l : Nat)

def execVshl (o : Fields) (s : State) : Host.Outcome State Fault Refusal :=
  issueVI (.vshl o) o s 1 fun e l => (shl o.ty.width (e.vNat o.a l) (e.vNat o.b l % 256) : Nat)

def execVshr (o : Fields) (s : State) : Host.Outcome State Fault Refusal :=
  issueVI (.vshr o) o s 1 fun e l => (shr o.ty.width (e.vNat o.a l) (e.vNat o.b l % 256) : Nat)

def execVsra (o : Fields) (s : State) : Host.Outcome State Fault Refusal :=
  issueVI (.vsra o) o s 1 fun e l => (sra o.ty.width (e.vNat o.a l) (e.vNat o.b l % 256) : Nat)

/-- Rotate left by b[7:0] modulo the width (R174). -/
def rotl (w a k : Nat) : Nat := (a * 2 ^ (k % w) ||| a / 2 ^ (w - k % w)) % 2 ^ w

def execVrot (o : Fields) (s : State) : Host.Outcome State Fault Refusal :=
  issueVI (.vrot o) o s 1 fun e l => (rotl o.ty.width (e.vNat o.a l) (e.vNat o.b l % 256) : Nat)

def execVpopc (o : Fields) (s : State) : Host.Outcome State Fault Refusal :=
  issueVI (.vpopc o) o s 1 fun e l => (popNat o.ty.width (e.vNat o.a l) : Nat)

def execVclz (o : Fields) (s : State) : Host.Outcome State Fault Refusal :=
  issueVI (.vclz o) o s 1 fun e l => (clz o.ty.width (e.vNat o.a l) : Nat)

/-- Bit reversal within `w` bits. -/
def bitrev : Nat → Nat → Nat
  | 0, _ => 0
  | w + 1, a => (a % 2) * 2 ^ w + bitrev w (a / 2)

def execVbrev (o : Fields) (s : State) : Host.Outcome State Fault Refusal :=
  issueVI (.vbrev o) o s 1 fun e l => (bitrev o.ty.width (e.vNat o.a l) : Nat)

def execVbfe (o : Fields) (s : State) : Host.Outcome State Fault Refusal :=
  issueVI (.vbfe o) o s 1 fun e l => bfe o.ty (e.vNat o.a l) (e.vNat o.b l)

def execVbfi (o : Fields) (s : State) : Host.Outcome State Fault Refusal :=
  issueVI (.vbfi o) o s 1 fun e l => (bfi o.ty.width (e.vNat o.a l) (e.vNat o.b l) (e.vNat o.c l) : Nat)

/-- VSEL and VMOV keep every bit of the selected value (R176, R168). -/
def execVsel (o : Fields) (s : State) : Host.Outcome State Fault Refusal :=
  issueV (.vsel o) o s 5 (if o.ty.isWide then 2 else 1) o.ty.isWide fun e l =>
    let x := if (e.g.predReg (predIdx o.c)).getLsbD l then o.a else o.b
    if o.ty.isInt then laneInt o.ty (e.vInt x l) else e.vNat x l

def execVmov (o : Fields) (s : State) : Host.Outcome State Fault Refusal :=
  issueV (.vmov o) o s 5 (if o.ty.isWide then 2 else 1) o.ty.isWide fun e l =>
    if o.ty.isInt then laneInt o.ty (e.vInt o.a l) else e.vNat o.a l

/-- Another lane's value of a source: zero, with dead_read set, where that lane is dead (R85, R193). -/
def Env.other (e : Env) (x : Src) (t : Ty) (l j : Nat) : Nat :=
  if e.g.dead.getLsbD j then 0 else e.src x t (match x with | .const _ => l | _ => j)

def State.setDeadRead (s : State) (e : Env) : State := s.onIssuer e.me fun g => { g with deadRead := true }

/-- VMOVS always writes sD (R176); in a protected launch lane indices name pairs, values come from even lanes (R87). -/
def execVmovs (o : Fields) (s : State) : Host.Outcome State Fault Refusal :=
  issue (.vmovs o) o s fun e s =>
    let j := e.scal o.b .b32 % 32
    let j := if e.prot then 2 * (j % 16) else j
    let s := s.charge e.payer (s.wt e.payer 10)
    let s := if e.g.dead.getLsbD j then s.setDeadRead e else s
    s.putS e o.dst.toNat (e.other o.a o.ty j j)

/-- VCMP (R177). -/
def execVcmp (o : Fields) (s : State) : Host.Outcome State Fault Refusal :=
  issue (.vcmp o) o s fun e s =>
    (s.laneCost e 5 (if o.ty.isWide then 2 else 1)).putPLanes e o.dst.toNat e.run fun l =>
      intCond (o.md.spec.toNat % 8) (e.vInt o.a l) (e.vInt o.b l)

/-- A predicate instruction: bit `l` of pD for each active lane (R178). -/
def issueP (i : Instr) (o : Fields) (s : State) (f : Env → W32) : Host.Outcome State Fault Refusal :=
  issue i o s fun e s => s.putPLanes e o.dst.toNat e.run fun l => (f e).getLsbD l

def Env.predSrc (e : Env) (x : Src) : W32 := e.g.predReg (predIdx x)

def execPand (o : Fields) (s : State) : Host.Outcome State Fault Refusal :=
  issueP (.pand o) o s fun e => e.predSrc o.a &&& e.predSrc o.b

def execPor (o : Fields) (s : State) : Host.Outcome State Fault Refusal :=
  issueP (.por o) o s fun e => e.predSrc o.a ||| e.predSrc o.b

def execPxor (o : Fields) (s : State) : Host.Outcome State Fault Refusal :=
  issueP (.pxor o) o s fun e => e.predSrc o.a ^^^ e.predSrc o.b

def execPnot (o : Fields) (s : State) : Host.Outcome State Fault Refusal :=
  issueP (.pnot o) o s fun e => ~~~(e.predSrc o.a)

/-- PMOV from a predicate, or from the low 32 bits of a scalar or immediate (R178). -/
def execPmov (o : Fields) (s : State) : Host.Outcome State Fault Refusal :=
  issueP (.pmov o) o s fun e => match o.a with
    | .v _ => e.predSrc o.a
    | x => BitVec.ofNat 32 (e.scal x .b32)

/-- One bit per visible lane: in a protected launch bit `i` stands for pair `i`, taken from its even lane (R87). -/
def Env.visible (e : Env) (m : Mask) : Mask := if e.prot then maskOf fun i => i < 16 && m.getLsbD (2 * i) else m

/-- PCNT: the one bits of pA among the active lanes (R178, R199). -/
def execPcnt (o : Fields) (s : State) : Host.Outcome State Fault Refusal :=
  issue (.pcnt o) o s fun e s =>
    s.putS e o.dst.toNat (popNat 32 (e.visible (e.predSrc o.a &&& e.run)).toNat)

/-- The index of the lowest one bit, 32 if there is none. -/
def ffs (m : Mask) : Nat := ((lanesOf m).head?).getD 32

def execPffs (o : Fields) (s : State) : Host.Outcome State Fault Refusal :=
  issue (.pffs o) o s fun e s => s.putS e o.dst.toNat (ffs (e.visible (e.predSrc o.a &&& e.run)))

end Sys2Proof.Machine
end

