-- ==== Sys2Proof/Machine/Fp.lean ====
section
/-! DEFINITION. Floating-point instructions and conversions (R179 to R192); the deferred ones put their results in
flight (R73, R170). -/

namespace Sys2Proof.Machine

open Sys2Proof

/-- One half of a packed source (R180): halves of an f32 pair or of a 32-bit register; a constant gives both. -/
def Env.half (e : Env) (x : Src) (h l : Nat) : Nat :=
  match x with
  | .const k => constVal e.o.ty k.val (e.laneId l)
  | _ =>
    if e.o.ty == .f32 then e.src64 x .b64 true l / 2 ^ (32 * h) % 2 ^ 32
    else e.src64 x .b32 false l / 2 ^ (16 * h) % 2 ^ 16

/-- The result and flags of one lane, both halves with .x2 (R180, R181). -/
def Env.fLane (e : Env) (x2 : Bool) (l : Nat) (op : Nat → Nat → Nat → Nat × FFlags) : Nat × FFlags :=
  if x2 then
    let at_ (h : Nat) := op (e.half e.o.a h l) (e.half e.o.b h l) (e.half e.o.c h l)
    let w := if e.o.ty == .f32 then 2 ^ 32 else 2 ^ 16
    ((at_ 0).1 + w * (at_ 1).1, (at_ 0).2 ||| (at_ 1).2)
  else op (e.src e.o.a e.o.ty l) (e.src e.o.b e.o.ty l) (e.src e.o.c e.o.ty l)

/-- A floating instruction that writes vD (R167, R168, R62). `ev` and `k`: charge per lane (R172). -/
def issueF (i : Instr) (o : Fields) (s : State) (ev k : Nat) (wide : Bool) (f : Env → Nat → Nat × FFlags) :
    Host.Outcome State Fault Refusal :=
  issue i o s fun e s =>
    let s := s.orFlags e (orOver e.run fun l => (f e l).2)
    (s.laneCost e ev k).putV e o.dst.toNat wide e.run fun l => (f e l).1

/-- Arithmetic charge: 350 per lane, 1,400 for f64, 700 packed (R172). -/
def arithCost (i : Instr) (o : Fields) : Nat × Nat :=
  if o.ty == .f64 then (7, 1) else (6, if i.isX2 then 2 else 1)

/-- Comparison charge: 90 per lane, 180 for f64 or packed (R172). -/
def cmpCost (i : Instr) (o : Fields) : Nat := if o.ty == .f64 || i.isX2 then 2 else 1

def fWide (i : Instr) (o : Fields) : Bool := o.ty == .f64 || (i.isX2 && o.ty == .f32)

def issueArith (i : Instr) (o : Fields) (s : State) (op : Fmt → RMode → Nat → Nat → Nat → Nat × FFlags) :
    Host.Outcome State Fault Refusal :=
  let c := arithCost i o
  issueF i o s c.1 c.2 (fWide i o) fun e l => e.fLane i.isX2 l (op (fmtOf o.ty) (RMode.ofCode o.md.round))

def issueMinMax (i : Instr) (o : Fields) (s : State) (isMax nanForm : Bool) : Host.Outcome State Fault Refusal :=
  issueF i o s 5 (cmpCost i o) (fWide i o) fun e l => e.fLane i.isX2 l fun a b _ => fMinMax (fmtOf o.ty) isMax nanForm a b

def execFadd (o : Fields) (s : State) : Host.Outcome State Fault Refusal :=
  issueArith (.fadd o) o s fun f m a b _ => fAdd f m a b

def execFsub (o : Fields) (s : State) : Host.Outcome State Fault Refusal :=
  issueArith (.fsub o) o s fun f m a b _ => fSub f m a b

def execFmul (o : Fields) (s : State) : Host.Outcome State Fault Refusal :=
  issueArith (.fmul o) o s fun f m a b _ => fMul f m a b

def execFfma (o : Fields) (s : State) : Host.Outcome State Fault Refusal :=
  issueArith (.ffma o) o s fun f m a b c => fFma f m a b c

def execFmin (o : Fields) (s : State) : Host.Outcome State Fault Refusal :=
  issueMinMax (.fmin o) o s false false

def execFmax (o : Fields) (s : State) : Host.Outcome State Fault Refusal :=
  issueMinMax (.fmax o) o s true false

def execFminNan (o : Fields) (s : State) : Host.Outcome State Fault Refusal :=
  issueMinMax (.fminNan o) o s false true

def execFmaxNan (o : Fields) (s : State) : Host.Outcome State Fault Refusal :=
  issueMinMax (.fmaxNan o) o s true true

/-- FCMP (R183). -/
def execFcmp (o : Fields) (s : State) : Host.Outcome State Fault Refusal :=
  issue (.fcmp o) o s fun e s =>
    let r (l : Nat) := fCmp (fmtOf o.ty) (o.md.spec.toNat % 8) (e.src o.a o.ty l) (e.src o.b o.ty l)
    ((s.orFlags e (orOver e.run fun l => (r l).2)).laneCost e 5 (cmpCost (.fcmp o) o)).putPLanes e o.dst.toNat e.run
      fun l => (r l).1

/-- FCLASS writes a 32-bit mask whatever the type (R184). -/
def execFclass (o : Fields) (s : State) : Host.Outcome State Fault Refusal :=
  issueF (.fclass o) o s 5 (cmpCost (.fclass o) o) false fun e l => (fClass (fmtOf o.ty) (e.src o.a o.ty l), 0)

/-- FSCALE reads b as a 32-bit signed integer (R185). -/
def execFscale (o : Fields) (s : State) : Host.Outcome State Fault Refusal :=
  let c := arithCost (.fscale o) o
  issueF (.fscale o) o s c.1 c.2 (o.ty == .f64) fun e l =>
    fScale (fmtOf o.ty) (RMode.ofCode o.md.round) (e.src o.a o.ty l) (intOf .i32 (e.src o.b .i32 l))

def execFrnd (o : Fields) (s : State) : Host.Outcome State Fault Refusal :=
  let c := arithCost (.frnd o) o
  issueF (.frnd o) o s c.1 c.2 (o.ty == .f64) fun e l =>
    fRnd (fmtOf o.ty) (RMode.ofCode o.md.round) (e.src o.a o.ty l)

/-! ## Deferred functions (R170, R186 to R189) -/

/-- A deferred result: values and flags are those of the sources at issue; they are written at the return (R74, R62).
1,200 fJ per lane, 4,000 for f64 (R172). -/
def issueDeferred (i : Instr) (o : Fields) (s : State) (f : Env → Nat → Nat × FFlags) : Host.Outcome State Fault Refusal :=
  issue i o s fun e s =>
    let s := s.laneCost e (if o.ty == .f64 then 9 else 8) 1
    s.launchAcc e
      { core := 0, slot := 0, pcs := 0, tag := 0, team := 0, ctx := 0, space := .sfu, op := .load, ty := o.ty,
        dst := some o.dst.toNat, lanes := e.run,
        got := (lanesOf e.run).map fun l => (l, [(f e l).1])
        raised := orOver e.run fun l => (f e l).2 }

def issueSfu (i : Instr) (o : Fields) (s : State) (op : Fmt → Nat → Nat → Nat × FFlags) : Host.Outcome State Fault Refusal :=
  issueDeferred i o s fun e l =>
    let a := e.src o.a o.ty l
    op (fmtOf o.ty) (Config.sfuChoice ((i.opcode.getD 0) * 64 + o.ty.code.toNat) a) a

def execFdiv (o : Fields) (s : State) : Host.Outcome State Fault Refusal :=
  issueDeferred (.fdiv o) o s fun e l =>
    fDiv (fmtOf o.ty) (RMode.ofCode o.md.round) (e.src o.a o.ty l) (e.src o.b o.ty l)

def execFsqrt (o : Fields) (s : State) : Host.Outcome State Fault Refusal :=
  issueDeferred (.fsqrt o) o s fun e l => fSqrt (fmtOf o.ty) (RMode.ofCode o.md.round) (e.src o.a o.ty l)

def execFrcp (o : Fields) (s : State) : Host.Outcome State Fault Refusal := issueSfu (.frcp o) o s fRcp
def execFrsq (o : Fields) (s : State) : Host.Outcome State Fault Refusal := issueSfu (.frsq o) o s fRsq
def execFexp2 (o : Fields) (s : State) : Host.Outcome State Fault Refusal := issueSfu (.fexp2 o) o s fExp2
def execFlog2 (o : Fields) (s : State) : Host.Outcome State Fault Refusal := issueSfu (.flog2 o) o s fLog2
def execFsinpi (o : Fields) (s : State) : Host.Outcome State Fault Refusal := issueSfu (.fsinpi o) o s fSinpi
def execFcospi (o : Fields) (s : State) : Host.Outcome State Fault Refusal := issueSfu (.fcospi o) o s fCospi

/-! ## Conversions (R190 to R192) -/

/-- Lane `l`'s random word: the state rotated left, by the pair index in a protected launch (R51, R87). -/
def Env.rnd (e : Env) (l : Nat) : Nat := rotl 32 e.g.srseed.toNat (e.laneId l)

def Env.mode (e : Env) (l : Nat) : RMode :=
  match RMode.ofCode e.o.md.round with
  | .sr _ => .sr (e.rnd l)
  | m => m

/-- The generator advances once for each executed sr conversion, whatever its lanes (R51). -/
def State.advanceSr (s : State) (e : Env) : State :=
  if e.o.md.round == 4 then s.onIssuer e.me fun g => { g with srseed := xorshift32 g.srseed } else s

/-- One conversion (R191). -/
def cvtLane (td ts : Ty) (m : RMode) (sat : Bool) (x : Nat) : Nat × FFlags :=
  if td.isInt then
    if ts.isInt then (laneInt td (if sat then clampTo td (intOf ts x) else intOf ts x), 0)
    else cvtFI (fmtOf ts) m td x
  else if ts.isInt then cvtIF (fmtOf td) m sat ts x
  else cvtFF (fmtOf ts) (fmtOf td) m sat x

def execCvt (o : Fields) (s : State) : Host.Outcome State Fault Refusal :=
  let ts := o.md.type2
  let k := if o.ty.isWide || ts.isWide then 2 else 1
  issue (.cvt o) o s fun e s =>
    let f (l : Nat) := cvtLane o.ty ts (e.mode l) o.md.sat (e.src o.a ts l)
    let s := (s.advanceSr e).orFlags e (orOver e.run fun l => (f l).2)
    (s.laneCost e 5 k).putV e o.dst.toNat o.ty.isWide e.run fun l => (f l).1

def execQcvt (o : Fields) (s : State) : Host.Outcome State Fault Refusal :=
  let ts := o.md.type2
  issue (.qcvt o) o s fun e s =>
    let f (l : Nat) := quantise (fmtOf ts) (e.mode l) (if o.ty == .q4 then 15 else 255) (e.src o.b .b32 l) (e.src o.a ts l)
    let s := (s.advanceSr e).orFlags e (orOver e.run fun l => (f l).2)
    (s.laneCost e 5 (if ts.isWide then 2 else 1)).putV e o.dst.toNat false e.run fun l => (f l).1

end Sys2Proof.Machine
end

