-- ==== Sys2Proof/Machine/Lane.lean ====
section
/-! DEFINITION. Lane instructions (R193 to R199, R59 to R61). -/

namespace Sys2Proof.Machine

open Sys2Proof

/-- Visible lanes: 16 in a protected launch (R87). -/
def Env.nLanes (e : Env) : Nat := if e.prot then 16 else 32

/-- The physical lane that gives a visible lane's values (R87). -/
def Env.phys (e : Env) (j : Nat) : Nat := if e.prot then 2 * j else j

/-- The visible lane of a physical lane. -/
def Env.vis (e : Env) (l : Nat) : Nat := e.laneId l

/-- The segment width of SHFL (R194, R199). -/
def segWidth (code n : Nat) : Nat :=
  match code with
  | 1 => 16
  | 2 => 8
  | 3 => 4
  | 4 => 2
  | _ => n

/-- The lane that SHFL reads (R194), of visible lanes. -/
def shflLane (mode : ShflMode) (l k w : Nat) : Nat :=
  let base := l - l % w
  match mode with
  | .idx => base + k % w
  | .up => if l < base + k then l else l - k
  | .down => if l + k ≥ base + w then l else l + k
  | .xor => base + ((l % w) ^^^ (k % w))

def execShfl (mode : ShflMode) (o : Fields) (s : State) : Host.Outcome State Fault Refusal :=
  issue (.shfl mode o) o s fun e s =>
    let n := e.nLanes
    let w := segWidth (o.md.spec.toNat % 8) n
    let from_ (l : Nat) := e.phys (shflLane mode (e.vis l) (e.src o.b .b32 (e.phys (e.vis l)) % n) w)
    let s := s.charge e.payer (s.wt e.payer 10)
    let s := if (lanesOf e.run).any fun l => e.g.dead.getLsbD (from_ l) then s.setDeadRead e else s
    s.putV e o.dst.toNat o.ty.isWide e.run fun l => e.other o.a o.ty l (from_ l)

/-- VOTE always writes sD (R195). -/
def execVote (mode : VoteMode) (o : Fields) (s : State) : Host.Outcome State Fault Refusal :=
  issue (.vote mode o) o s fun e s =>
    let part := e.visible e.run
    let ones := e.visible (e.predSrc o.a &&& e.run)
    let r : Nat := match mode with
      | .any => if ones != 0 then 1 else 0
      | .all => if ones == part then 1 else 0
      | .eq => if ones == part || ones == 0 then 1 else 0
      | .ballot => ones.toNat
    (s.charge e.payer (s.wt e.payer 10)).putS e o.dst.toNat r

/-- Reduction operations (R196). -/
def redCombine (t : Ty) (op : Nat) (m : RMode) (a b : Nat) : Nat × FFlags :=
  if t.isFloat then
    match op with
    | 0 => fAdd (fmtOf t) m a b
    | 1 => fMinMax (fmtOf t) false false a b
    | 2 => fMinMax (fmtOf t) true false a b
    | 6 => fMinMax (fmtOf t) false true a b
    | _ => fMinMax (fmtOf t) true true a b
  else
    let x := intOf t a
    let y := intOf t b
    match op with
    | 0 => (wrapN t.width (x + y), 0)
    | 1 => (wrapN t.width (min x y), 0)
    | 2 => (wrapN t.width (max x y), 0)
    | 3 => (a &&& b, 0)
    | 4 => (a ||| b, 0)
    | _ => (a ^^^ b, 0)

/-- Identities (R60). -/
def redIdentity (t : Ty) (op : Nat) : Nat :=
  if t.isFloat then
    match op with
    | 0 => (fmtOf t).zero true
    | 1 | 6 => (fmtOf t).inf false
    | _ => (fmtOf t).inf true
  else
    match op with
    | 1 => wrapN t.width (tyMax t)
    | 2 => wrapN t.width (tyMin t)
    | 3 => 2 ^ t.width - 1
    | _ => 0

/-- One level of the tree of R59: adjacent results are combined, the lower-indexed on the left. -/
def treeLevel (f : Nat → Nat → Nat × FFlags) : List Nat → List Nat × FFlags
  | a :: b :: r =>
    let (x, fl) := f a b
    let (xs, fl2) := treeLevel f r
    (x :: xs, fl ||| fl2)
  | l => (l, 0)

/-- `n` levels of the tree. -/
def treeRed (f : Nat → Nat → Nat × FFlags) : Nat → List Nat → List Nat × FFlags
  | 0, l => (l, 0)
  | n + 1, l =>
    let (l1, fl) := treeLevel f l
    let (l2, fl2) := treeRed f n l1
    (l2, fl ||| fl2)

/-- One step of the scan of R61 at distance `d`. -/
def scanStep (f : Nat → Nat → Nat × FFlags) (d : Nat) (v : List Nat) : List Nat × FFlags :=
  let r := (List.range v.length).map fun l => if l < d then (v.getD l 0, 0) else f (v.getD (l - d) 0) (v.getD l 0)
  (r.map Prod.fst, r.foldl (fun a x => a ||| x.2) 0)

def scanAll (f : Nat → Nat → Nat × FFlags) : List Nat → List Nat → List Nat × FFlags
  | [], v => (v, 0)
  | d :: r, v =>
    let (v1, fl) := scanStep f d v
    let (v2, fl2) := scanAll f r v1
    (v2, fl ||| fl2)

def redMode (o : Fields) : RMode := if o.ty.isFloat && o.md.spec.toNat % 8 == 0 then RMode.ofCode o.md.round else .rne

/-- The inputs of a reduction over the visible lanes (R59, R87). -/
def Env.redInputs (e : Env) (op : Nat) : List Nat :=
  (List.range e.nLanes).map fun j =>
    if (e.visible e.run).getLsbD j then e.src e.o.a e.o.ty (e.phys j) else redIdentity e.o.ty op

/-- The per-lane weight of the combining operation (R172). -/
def State.redWeight (s : State) (e : Env) : Nat :=
  let t := e.o.ty
  if t.isFloat then
    if e.o.md.spec.toNat % 8 = 0 then s.wt e.payer (if t == .f64 then 7 else 6)
    else (if t == .f64 then 2 else 1) * s.wt e.payer 5
  else (if t.isWide then 2 else 1) * s.wt e.payer 5

/-- VRED (R196): v[0] of the tree into sD. -/
def execVred (o : Fields) (s : State) : Host.Outcome State Fault Refusal :=
  issue (.vred o) o s fun e s =>
    let op := o.md.spec.toNat % 8
    let (v, fl) := treeRed (redCombine o.ty op (redMode o)) (if e.prot then 4 else 5) (e.redInputs op)
    let r := v.headD 0
    let s := s.charge e.payer (s.wt e.payer 10 + 32 * s.redWeight e)
    (s.orFlags e fl).putS e o.dst.toNat (if o.ty == .i32 then wrapN 64 (sxt 32 r) else r)

/-- VSCAN (R197). -/
def execVscan (o : Fields) (s : State) : Host.Outcome State Fault Refusal :=
  issue (.vscan o) o s fun e s =>
    let op := o.md.spec.toNat % 8
    let steps := if e.prot then [1, 2, 4, 8] else [1, 2, 4, 8, 16]
    let (v, fl) := scanAll (redCombine o.ty op (redMode o)) steps (e.redInputs op)
    let s := s.charge e.payer (s.wt e.payer 10 + 160 * s.redWeight e)
    (s.orFlags e fl).putV e o.dst.toNat o.ty.isWide e.run fun l =>
      let j := e.vis l
      if o.md.spec.getLsbD 3 then (if j = 0 then redIdentity o.ty op else v.getD (j - 1) 0) else v.getD j 0

/-- VFIRST always writes sD (R198). -/
def execVfirst (o : Fields) (s : State) : Host.Outcome State Fault Refusal :=
  issue (.vfirst o) o s fun e s =>
    let r := match lanesOf (e.visible e.run) with
      | j :: _ => e.src o.a o.ty (e.phys j)
      | [] => 0
    (s.charge e.payer (s.wt e.payer 10)).putS e o.dst.toNat r

end Sys2Proof.Machine
end

