-- ==== Sys2Proof/Machine/Async.lean ====
section
/-! DEFINITION. Asynchronous work (R308 to R321): copies, collectives, spawned records and join objects. -/

namespace Sys2Proof.Machine

open Sys2Proof

/-! ## Groups by team and index -/

/-- The core and slot of a resident group of a team. -/
def State.findMember (s : State) (uid gidx : Nat) : Option (Nat × Nat) :=
  (List.find? (fun e => e.2.team == uid && e.2.idx == gidx) s.groups).map fun e => (e.1 / 1024, e.1 % 1024)

/-- Change a group of a team, resident or in the team's image. -/
def State.modMember (s : State) (uid gidx : Nat) (f : Group → Group) : State :=
  match s.findMember uid gidx with
  | some (c, x) => s.modGroup c x f
  | none =>
    match s.teams.find? uid with
    | some t =>
      match t.image with
      | some im =>
        s.setTeam uid { t with image := some { im with
          groups := im.groups.map fun e => if e.1 = gidx then (e.1, f e.2) else e } }
      | none => s
    | none => s

/-! ## Records (R318 to R321) -/

/-- A record enters the pool and takes its %team (R319). -/
def State.enterPool (s : State) (kid : Nat) (r : Rec) : State :=
  let k := s.kern kid
  (s.setKern kid { k with
    pool := k.pool ++ [{ r with idx := k.rec_.gridTeams + k.spawnedN }], spawnedN := k.spawnedN + 1 }).leaveIdle k.queue

/-- A record made by a step: into the pool, or outside it while it is full, to be entered in order (R320). -/
def State.makeRecord (s : State) (kid : Nat) (r : Rec) (by_ : Option Nat) : State :=
  let k := s.kern kid
  if !k.st.abortable then s
  else if k.pool.length < 65536 && k.outside.isEmpty then s.enterPool kid r
  else s.setKern kid { k with outside := k.outside ++ [(r, by_)] }

/-- An access that waits for its record has it in the pool. -/
def State.finishAcc (s : State) (id : Nat) : State :=
  match s.acc.find? id with
  | none => s
  | some a =>
    let s := { s with acc := s.acc.put id { a with left := 0, done := true } }
    match a.path with
    | some p => s.settlePath a.core a.slot a.tag p 256
    | none => { s with acc := s.acc.erase id }

/-- POOL_RECORD_ENTRY (R320): the first record outside a pool with room enters it. -/
def execPoolRecordEntry (kid : Nat) (s : State) : Host.Outcome State Fault Refusal :=
  let k := s.kern kid
  match k.outside with
  | (r, by_) :: rest =>
    if k.pool.length < 65536 then
      let s := (s.setKern kid { k with outside := rest }).enterPool kid r
      .next (match by_ with | some id => s.finishAcc id | none => s)
    else .next s
  | [] => .next s

/-- A number of eight bytes at a physical address, under a key. -/
def State.read64 (s : State) (key pa : Nat) : Nat := leNat ((List.range 8).map fun i => s.keyByte key (pa + i))

def State.write64 (s : State) (key pa x : Nat) : State :=
  s.putAll ((List.range 8).map fun i => (key, pa + i, BitVec.ofNat 8 (x / 2 ^ (8 * i))))

/-- The atomic step of a join object at its home slice (R320): the state after it and the record it makes. `kid` is none
at DONE, where no record is made (R352). A poisoned object is left as it is, and counted (log 15). -/
def State.joinStep (s : State) (p : Payer) (key pa : Nat) : State × Option Rec :=
  let s := (s.touchL2 p pa .part).charge p (s.wt p 5) false
  if s.poisoned pa then (s.countErrCtx p.ctx 6, none)
  else
    let n := (s.read64 key pa + 2 ^ 64 - 1) % 2 ^ 64
    let s := s.write64 key pa n
    let code := s.read64 key (pa + 8)
    let s' := if n ≥ 2 ^ 63 then s.countErrCtx p.ctx 10 else s
    if n = 0 ∧ code ≠ 0 then
      (s', some { idx := 0, code := code, frame := s.read64 key (pa + 16), join := s.read64 key (pa + 24), spawned := true })
    else (s', none)

/-- A join step of the Harness head at an address of a context (R321, R352); none where the object meets a fault. Its
charge joins the kernel's total. -/
def State.headJoin (s : State) (kid addr : Nat) (records : Bool) : Option State :=
  let c := (s.kern kid).ctx
  let p : Payer := { ctx := c }
  if addr / 2 ^ 56 ≠ 0 ∨ addr % 32 ≠ 0 then none
  else
    match s.headPa c addr .both with
    | none => none
    | some pa =>
      let before := (s.ctx c).charged
      let (s', r) := s.joinStep p (s.headKey c addr .both) pa
      let k := s'.kern kid
      let s' := s'.setKern kid { k with charged := (k.charged + ((s'.ctx c).charged + 2 ^ 96 - before)) % 2 ^ 96 }
      some (match r, records with
        | some r, true => s'.makeRecord kid r none
        | _, _ => s')

/-- TEAM_RETIREMENT_STEP (R321): the oldest pending step whose team's accesses have all performed. -/
def execTeamRetirementStep (kid : Nat) (s : State) : Host.Outcome State Fault Refusal :=
  let k := s.kern kid
  let quiet (uid : Nat) : Bool := !(s.acc.any fun e => e.2.team == uid && e.2.left != 0 && e.2.space != .sfu)
  match k.joins.find? fun j => quiet j.1 with
  | some j =>
    let s := s.setKern kid { k with joins := k.joins.erase j }
    match s.headJoin kid j.2 true with
    | some s => .next s
    | none => .next (s.countErrCtx k.ctx 11)
  | none => .next s

/-- SPAWN (R318): its record enters the pool as a release at .dev. -/
def execSpawn (o : Fields) (s : State) : Host.Outcome State Fault Refusal :=
  issue (.spawn o) o s fun e s =>
    if !e.takes then s
    else
      let code := e.scal o.a .n64
      let frame := e.scal o.b .n64
      let join := e.scal o.c .n64
      if frame % 1024 ≠ 0 ∨ join % 32 ≠ 0 ∨ e.kern.rec_.cluster ≠ 0 then s.faultAt e .descriptor e.live
      else
        (s.charge e.payer (s.wt e.payer 14) false).launchAcc e
          { core := 0, slot := 0, pcs := 0, tag := 0, team := 0, ctx := 0, space := .global, op := .spawn, path := some 2,
            order := 2, scope := 3, lanes := 1, left := 1, ea := [0], data := [[code, frame, join]] }

/-- JDEC (R320): an access of 32 bytes at a join object, a release at .dev. -/
def execJdec (o : Fields) (s : State) : Host.Outcome State Fault Refusal :=
  issue (.jdec o) o s fun e s =>
    let a := e.scal o.a .n64
    if !e.takes then s
    else if a / 2 ^ 56 ≠ 0 then s.faultAt e .addressRange e.live a
    else if a % 32 ≠ 0 then s.faultAt e .misaligned e.live a
    else s.launchAcc e
      { core := 0, slot := 0, pcs := 0, tag := 0, team := 0, ctx := 0, space := .global, op := .jdec, path := some 2,
        order := 2, scope := 3, ty := .b64, count := 4, lanes := 1, left := 1, ea := [a], data := [[]] }

/-! ## Copies at issue (R308 to R310) -/

/-- Put a copy in flight: P3 rises (R308). -/
def State.launchCopy (s : State) (e : Env) (i : Instr) (a b : Nat) (c : List Nat) : State :=
  let prior := match s.group? e.me.core e.me.slot with
    | some g => (g.slotAt e.me.pcs).seen
    | none => []
  let (id, s) := s.fresh
  let op : CopyOp :=
    { core := e.me.core, team := e.g.team, gidx := e.g.idx, kid := e.kid, ctx := e.team.ctx, pcs := e.me.pcs,
      prior := prior, pc := e.pc, ins := i, a := a, b := b, c := c }
  ({ s with copies := s.copies.put id op } : State).raisePath e.me 3

def globalBad (a : Nat) : Bool := a / 2 ^ 56 != 0

/-- Some byte of a range, or its address where it is empty, lies outside the local tables (R200). -/
def rangeBad (a n : Nat) : Bool := globalBad (a + n - 1) || globalBad a

def Team.holds (t : Team) (a n : Nat) : Bool := a + n ≤ roundUp t.scratchLen 32

/-- CPY (R309). -/
def execCpy (o : Fields) (s : State) : Host.Outcome State Fault Refusal :=
  issue (.cpy o) o s fun e s =>
    let a := e.scal o.a .n64
    let b := e.scal o.b .n64
    let n := e.scal o.c .n64
    let m := o.md.spec
    let bad := e.pairBad (fun _ => 0) (fun _ => [])
    if bad != 0 then s.pairAbort e bad
    else if !e.takes then s
    else if n > 2 ^ 32 then s.faultAt e .descriptor e.live
    else if !m.getLsbD 8 && rangeBad a n then s.faultAt e .addressRange e.live (max a (2 ^ 56))
    else if !m.getLsbD 9 && rangeBad b n then s.faultAt e .addressRange e.live (max b (2 ^ 56))
    else if m.getLsbD 8 && !e.team.holds a n then s.faultAt e .scratchpadBound e.live a
    else if m.getLsbD 9 && !e.team.holds b n then s.faultAt e .scratchpadBound e.live b
    else s.launchCopy e (.cpy o) a b [n]

/-- The origin of a box: s`n` to s`n`+3 hold two i32 each (R310). -/
def Env.origin (e : Env) : List Nat :=
  match e.o.c with
  | .s n => (List.range 4).flatMap fun m => let x := e.g.sval (n.toNat + m); [x % 2 ^ 32, x / 2 ^ 32]
  | _ => []

/-- TCPY (R310). -/
def execTcpy (o : Fields) (s : State) : Host.Outcome State Fault Refusal :=
  issue (.tcpy o) o s fun e s =>
    let a := e.scal o.a .n64
    let bad := e.pairBad (fun _ => 0) (fun _ => [])
    if bad != 0 then s.pairAbort e bad
    else if !e.takes then s
    else if globalBad a then s.faultAt e .addressRange e.live a
    else if a % 128 ≠ 0 then s.faultAt e .descriptor e.live a
    else s.launchCopy e (.tcpy o) a (e.scal o.b .n64) e.origin

/-! ## Copies on the engine (R311 to R314) -/

def CopyOp.payer (c : CopyOp) : Payer := { ctx := c.ctx, core := some c.core, team := some c.team }

/-- Translate each 4 KiB unit: unit numbers with their leaves, or how the first failing one fails. -/
def State.walkMap (s : State) (p : Payer) (stack : Nat) (k : AccKind) :
    List Nat → Except (Nat × Nat × Nat × Nat × Option Cause) (List (Nat × Nat × Nat)) × State
  | [] => (.ok [], s)
  | u :: r =>
    match s.translate p stack u (k == .write || k == .both) with
    | (.fault c d l, s') => (.error (u, c, d, l, none), s')
    | (.leaf l e _, s') =>
      match s'.permit p.ctx e k with
      | some c => (.error (u, 0, 0, 0, some c), s')
      | none =>
        match s'.walkMap p stack k r with
        | (.ok m, s'') => (.ok ((u / 4096, l, e) :: m), s'')
        | (.error x, s'') => (.error x, s'')

abbrev PageMap := List (Nat × Nat × Nat)

def PageMap.leaf (m : PageMap) (va : Nat) : Nat × Nat :=
  match m.find? fun x => x.1 == va / 4096 with
  | some (_, l, e) => (l, e)
  | none => (0, 0)

def PageMap.pa (m : PageMap) (va : Nat) : Nat := paOf (m.leaf va).1 (m.leaf va).2 va

/-- The key of the page of `va`, by number. -/
def State.keyIn (s : State) (m : PageMap) (va : Nat) : Nat := s.keyNo (pteKey (m.leaf va).2)

/-- The units that some ranges touch, in increasing order: the first that fails holds the lowest faulting address (R216). -/
def unitsIn (rs : List (Nat × Nat)) : List Nat := (rs.flatMap fun r => unitsOf r.1 r.2).foldl setIns []

/-- The lowest address of some ranges in a unit. -/
def lowestAt (rs : List (Nat × Nat)) (u : Nat) : Nat :=
  rs.foldl (fun m r => if (unitsOf r.1 r.2).contains u then min m (max r.1 u) else m) (u + 4095)

/-- The report of a fault of asynchronous or matrix work: it names the group that issued it while that is resident (R353). -/
def State.workReport (s : State) (uid gidx pcs pc : Nat) (k : Cause) (addr : Nat) : AbortInfo :=
  let at_ := (s.findMember uid gidx).getD (0xFFFF, 0xFFFF)
  { status := 3, cause := k.code, core := at_.1, slot := at_.2, pcSlot := pcs, team := (s.team uid).idx, pc := pc
    address := addr }

def State.copyAbort (s : State) (c : CopyOp) (k : Cause) (addr : Nat := 0) : State :=
  abortKernel s c.kid (s.workReport c.team c.gidx c.pcs c.pc k addr)

/-- A copy meets a fault at `lo` or above: replayable ones wait (R79), others abort the kernel (R278). -/
def State.copyFault (s : State) (id : Nat) (c : CopyOp) (lo : Nat) (f : Nat × Nat × Nat × Nat × Option Cause) : State :=
  let va := max lo f.1
  match f.2.2.2.2 with
  | some k => s.copyAbort c k va
  | none =>
    { s with copies := s.copies.put id { c with
        fault := some { va := va, cause := f.2.1, detail := f.2.2.1, level := f.2.2.2.1, kind := 5, lanes := 0 } } }

/-- Charge and touch each sector of a global range. -/
def State.touchRange (s : State) (p : Payer) (m : PageMap) (wr : Bool) (a n : Nat) : State :=
  (sectorsOf a n).foldl (fun s x =>
    let pa := m.pa (x * 32)
    let whole := a ≤ x * 32 && x * 32 + 32 ≤ a + n
    let slot := pteKey (m.leaf (x * 32)).2
    if wr then (s.serveL2 p slot pa (if whole then .full else .part)).storePoison p.ctx (pa / 32) whole
    else s.serveL2 p slot pa .read) s

/-- Charge each scratchpad sector of a range. -/
def State.touchSram (s : State) (p : Payer) (a n : Nat) : State :=
  s.charge p ((sectorsOf a n).length * s.wt p 11)

/-- A scratchpad store clears the poison of whole words; a partly covered one stays (R280). -/
def State.sramPoisonAfter (s : State) (ctx a n : Nat) : State :=
  if n = 0 then s
  else
    (List.range ((a + n - 1) / 8 - a / 8 + 1)).foldl (fun s i =>
      let w := a / 8 + i
      if s.sramPoison.contains w then
        if a ≤ 8 * w && 8 * w + 8 ≤ a + n then { s with sramPoison := setDel s.sramPoison w } else s.countErrCtx ctx 5
      else s) s

/-- Lower P3 for finished copies of a group, oldest first (R77, R82); `n` bounds the search. -/
def State.settleCopies (s : State) (uid gidx : Nat) : Nat → State
  | 0 => s
  | n + 1 =>
    match List.find? (fun e => e.2.team == uid && e.2.gidx == gidx) s.copies with
    | some (id, c) =>
      if c.fin then
        (({ s with copies := s.copies.erase id } : State).modMember uid gidx fun g =>
          { g with pathc := setAt g.pathc 3 (g.pathc.getD 3 0 - 1) }).settleCopies uid gidx n
      else s
    | none => s

/-- A copy has ended: P3 falls, and the team may retire (log 16). -/
def State.endCopy (s : State) (id : Nat) (c : CopyOp) : State :=
  let s := ({ s with copies := s.copies.put id { c with fin := true } } : State).settleCopies c.team c.gidx 256
  s.tryRetireTeam c.team

/-- Sram address of a team's scratchpad byte. -/
def State.teamSram (s : State) (c : CopyOp) (a : Nat) : Nat := sramKey c.core ((s.team c.team).scratchAt + a)

/-- A copy's global bytes and its scratchpad bytes, and whether each is poisoned. -/
def State.globalByte (s : State) (m : PageMap) (va : Nat) : Byte × Bool := (s.keyByte (s.keyIn m va) (m.pa va), s.poisoned (m.pa va))
def State.sramByte (s : State) (k : Nat) : Byte × Bool := (Tbl.get 0 s.sram k, s.sramPoison.contains (k / 8))

/-- Store a byte to global memory; its core's L1 lines of the place are dropped by the caller. -/
def State.putGlobal (s : State) (m : PageMap) (va : Nat) (b : Byte × Bool) : State :=
  let pa := m.pa va
  let s := s.putKeyed (s.keyIn m va) pa b.1
  if b.2 then { s with poison := setIns s.poison (pa / 32) } else s

def State.putSram (s : State) (k : Nat) (b : Byte × Bool) : State :=
  let s := { s with sram := Tbl.set 0 s.sram k b.1 }
  if b.2 then { s with sramPoison := setIns s.sramPoison (k / 8) } else s

/-- Drop a core's L1 lines of a context over a range of addresses. -/
def State.l1DropRange (s : State) (core ctx a n : Nat) : State :=
  if n = 0 then s else s.l1Drop core ctx fun x => a / 128 ≤ x.vline && x.vline ≤ (a + n - 1) / 128

/-- What a copy reads where byte `i` of its source is the byte that its element `i + d` writes: from before or after that
write, as `flip` says (R309). -/
def mixOwn {α : Type} (flip : Nat → Bool) (d : Nat) : Nat → List α → List α
  | _, [] => []
  | i, x :: r =>
    let r := mixOwn flip d (i + 1) r
    (if flip i then r.getD (d - 1) x else x) :: r

/-- The same for a source at `b` and a destination at `a` of one space: bytes read in the overlap are free between the
two (log 4). -/
def mixCopy {α : Type} (flip : Nat → Bool) (a b : Nat) (xs : List α) : List α :=
  if a < b then mixOwn flip (b - a) 0 xs
  else if b < a then (mixOwn flip (a - b) 0 xs.reverse).reverse
  else xs

/-- The bytes of a CPY (R309). -/
def State.runCpy (s : State) (id : Nat) (c : CopyOp) (o : Fields) : State :=
  let n := c.c.getD 0 0
  let stack := stackOfCore c.core
  let dsp := o.md.spec.getLsbD 8
  let ssp := o.md.spec.getLsbD 9
  let p := c.payer
  if n = 0 then s.endCopy id c
  else
    match s.walkMap p stack .read (if ssp then [] else unitsOf c.b n) with
    | (.error f, s) => s.copyFault id c c.b f
    | (.ok ms, s) =>
      match s.walkMap p stack .write (if dsp then [] else unitsOf c.a n) with
      | (.error f, s) => s.copyFault id c c.a f
      | (.ok md, s) =>
        let src := s.teamSram c c.b
        let dst := s.teamSram c c.a
        let s := if ssp then s.touchSram p src n else s.touchRange p ms false c.b n
        let vals := (List.range n).map fun i => if ssp then s.sramByte (src + i) else s.globalByte ms (c.b + i)
        let own := dsp == ssp
        let vals := if own then mixCopy (fun i => Config.freeNat (s.free + i) % 2 == 1) c.a c.b vals else vals
        let s := if own && c.a != c.b && c.a < c.b + n && c.b < c.a + n then { s with free := s.free + n } else s
        let s := if dsp then (s.touchSram p dst n).sramPoisonAfter c.ctx dst n
          else (s.touchRange p md true c.a n).l1DropRange c.core c.ctx c.a n
        let s := (List.range n).foldl (fun s i =>
          let b := vals.getD i (0, false)
          if dsp then s.putSram (dst + i) b else s.putGlobal md (c.a + i) b) s
        s.endCopy id c

/-- A TCPY descriptor (R311). -/
structure Tensor where
  base : Nat
  ty : Ty
  dims : Nat
  stored : Nat
  swizzle : Nat
  extent : List Nat
  stride : List Nat
  box : List Nat
  fill : Nat
deriving DecidableEq, Repr

/-- Bytes `[o, o + n)` of a record as a number. -/
def field (bs : List Byte) (o n : Nat) : Nat := leNat ((bs.drop o).take n)

def tensorOf (bs : List Byte) : Tensor where
  base := field bs 0 8
  ty := Ty.ofCode (BitVec.ofNat 6 (field bs 8 1))
  dims := field bs 9 1
  stored := field bs 10 1
  swizzle := field bs 11 1
  extent := (List.range 7).map fun d => field bs (0x10 + 4 * d) 4
  stride := 1 :: (List.range 6).map fun d => field bs (0x30 + 8 * d) 8
  box := (List.range 7).map fun d => field bs (0x60 + 2 * d) 2
  fill := field bs 0x70 8

def dataTy (t : Ty) : Bool :=
  match t with
  | .none | .q8 | .q4 | .pred | .reserved _ => false
  | _ => true

/-- The limits of R311. -/
def tensorOk (bs : List Byte) : Bool :=
  let t := tensorOf bs
  field bs 0x0C 4 == 0 && field bs 0x2C 4 == 0 && field bs 0x6E 2 == 0 && field bs 0x78 8 == 0 &&
  field bs 8 1 < 64 && dataTy t.ty && t.base / 2 ^ 56 == 0 && t.stored ≤ 2 && t.swizzle ≤ 3 &&
  (if t.stored == 0 then t.base % tyBytes t.ty == 0 else t.ty == .f32) &&
  1 ≤ t.dims && t.dims ≤ 7 &&
  (List.range 7).all fun d =>
    if d < t.dims then t.extent.getD d 0 ≥ 1 && 1 ≤ t.box.getD d 0 && t.box.getD d 0 ≤ 256 && t.stride.getD d 0 < 2 ^ 48
    else t.extent.getD d 0 == 0 && t.box.getD d 0 == 0 && (d == 0 || t.stride.getD d 0 == 0)

/-- The points of a box, the first index fastest. -/
def boxPoints : List Nat → List (List Nat)
  | [] => [[]]
  | n :: r => (boxPoints r).flatMap fun t => (List.range n).map fun x => x :: t

/-- The memory element of a box point, where it lies inside (R312). -/
def Tensor.posOf (t : Tensor) (origin b : List Nat) : Option Nat :=
  let x (d : Nat) : Int := sxt 32 (origin.getD d 0) + b.getD d 0
  if (List.range t.dims).all fun d => 0 ≤ x d && x d < t.extent.getD d 0 then
    some ((List.range t.dims).map fun d => (x d).toNat * t.stride.getD d 1).sum
  else none

/-- The slot of a box point, from the scratchpad address (R312). -/
def Tensor.slotAt (t : Tensor) (b : List Nat) : Nat :=
  let lin := (List.range t.dims).foldr (fun d acc => b.getD d 0 + t.box.getD d 1 * acc) 0
  let o := tyBytes t.ty * lin
  if t.swizzle = 0 then o else o ^^^ (o / 128 % 2 ^ t.swizzle * 16)

/-- Byte and nibble of a memory element. -/
def Tensor.placeOf (t : Tensor) (p : Nat) : Nat × Nat :=
  match t.stored with
  | 0 => (t.base + p * tyBytes t.ty, 0)
  | 1 => (t.base + p, 0)
  | _ => (t.base + p / 2, p % 2)

def Tensor.size (t : Tensor) : Nat := if t.stored = 0 then tyBytes t.ty else 1

/-- One element of a load TCPY into its slot (R313). -/
def State.tcpyLoad (s : State) (t : Tensor) (m : PageMap) (slot : Nat) (pos : Option Nat) : State :=
  let bytes : List (Byte × Bool) := match pos with
    | none => (leBytes (tyBytes t.ty) t.fill).map fun b => (b, false)
    | some q =>
      let (va, h) := t.placeOf q
      if t.stored = 0 then (List.range (tyBytes t.ty)).map fun i => s.globalByte m (va + i)
      else
        let (l, e) := m.leaf va
        let r := recordAt e (elemIndex l e va h)
        let b := s.globalByte m va
        let x := dequantise (s.record (s.keyIn m va) r) (codeOf t.stored b.1 h)
        (leBytes 4 x).map fun y => (y, b.2 || s.poisoned r)
  (List.range bytes.length).foldl (fun s i => s.putSram (slot + i) (bytes.getD i (0, false))) s

/-- One element of a store TCPY from its slot, and its flags (R313). -/
def State.tcpyStore (s : State) (t : Tensor) (m : PageMap) (slot pos : Nat) : State × FFlags :=
  let src := (List.range (tyBytes t.ty)).map fun i => s.sramByte (slot + i)
  let bad := src.any fun b => b.2
  let (va, h) := t.placeOf pos
  if t.stored = 0 then
    ((List.range src.length).foldl (fun s i => s.putGlobal m (va + i) ((src.getD i (0, false)).1, bad)) s, 0)
  else
    let (l, e) := m.leaf va
    let x := leNat (src.map Prod.fst)
    let (code, fl) := quantise f32 .rne (codeMax t.stored) (s.record (s.keyIn m va) (recordAt e (elemIndex l e va h))) x
    (s.putGlobal m va (putCode t.stored (s.globalByte m va).1 h code, bad), fl)

/-- The lowest address, of elements with their scale records, whose record is bad (R45, R216). -/
def State.lowestBad (s : State) (m : PageMap) (uses : List (Nat × Nat)) : Option Nat :=
  let bad := (nubN (uses.map Prod.snd)).filter fun r =>
    uses.any fun x => x.2 == r && recBad (s.record (s.keyIn m x.1) r)
  match uses.filter fun x => bad.contains x.2 with
  | [] => none
  | x :: r => some (r.foldl (fun m y => min m y.1) x.1)

/-- Everything a TCPY does once its descriptor is read. -/
def State.runTensor (s : State) (id : Nat) (c : CopyOp) (o : Fields) (t : Tensor) : State :=
  let p := c.payer
  let stack := stackOfCore c.core
  let store := o.md.spec.getLsbD 8
  let pts := boxPoints (t.box.take t.dims)
  let len := tyBytes t.ty * pts.length
  let sp := s.teamSram c c.b
  if !(s.team c.team).holds c.b len then s.copyAbort c .scratchpadBound c.b
  else if t.swizzle ≠ 0 ∧ (c.b % 1024 ≠ 0 ∨ len % 128 ≠ 0) then s.copyAbort c .descriptor c.b
  else
    let work := pts.map fun b => (sp + t.slotAt b, t.posOf c.c b)
    let places := work.filterMap fun w => w.2.map fun q => (t.placeOf q).1
    match places.find? globalBad with
    | some a => s.copyAbort c .addressRange a
    | none =>
      let spans := places.map fun a => (a, t.size)
      match s.walkMap p stack (if store then .write else .read) (unitsIn spans) with
      | (.error f, s) => s.copyFault id c (lowestAt spans f.1) f
      | (.ok pm, s) =>
        let m : PageMap := pm
        match m.find? fun x => pteFormat x.2.2 != t.stored with
        | some x => s.copyAbort c .formatMismatch (x.1 * 4096)
        | none =>
          let uses : List (Nat × Nat) := if t.stored = 0 then [] else
            work.filterMap fun w => w.2.map fun q =>
              let (va, h) := t.placeOf q
              let (l, e) := m.leaf va
              (va, recordAt e (elemIndex l e va h))
          let recs := nubN (uses.map Prod.snd)
          match s.lowestBad m uses with
          | some va => s.copyFault id c va (va, 3, 0, 0xFF, none)
          | none =>
            let s := (nubN (recs.map fun r => r / 32)).foldl (fun s x => s.touchL2 p (x * 32) .read) s
            let secs := nubN (places.flatMap fun a => sectorsOf a t.size)
            let covered (x : Nat) : Bool := (List.range 32).all fun i =>
              t.stored != 2 && places.any fun a => a ≤ x * 32 + i && x * 32 + i < a + t.size
            let s := secs.foldl (fun s x => s.touchRange p m store (x * 32) (if store && !covered x then 1 else 32)) s
            let slots := nubN (work.flatMap fun w => if store && w.2.isNone then [] else sectorsOf w.1 (tyBytes t.ty))
            let s := s.charge p (slots.length * s.wt p 11)
            if store then
              let (s, fl) := work.foldl (fun (a : State × FFlags) w =>
                match w.2 with
                | some q => let (s, fl) := a.1.tcpyStore t m w.1 q; (s, a.2 ||| fl)
                | none => a) (s, 0)
              let s := secs.foldl (fun s x => s.l1DropRange c.core c.ctx (x * 32) 32) s
              (s.modMember c.team c.gidx fun g => { g with fflags := g.fflags ||| fl }).endCopy id c
            else
              let s := work.foldl (fun s w => (s.sramPoisonAfter c.ctx w.1 (tyBytes t.ty)).tcpyLoad t m w.1 w.2) s
              s.endCopy id c

/-- A TCPY reads its descriptor, then acts (R310, R311). -/
def State.runTcpy (s : State) (id : Nat) (c : CopyOp) (o : Fields) : State :=
  match s.engineRead c.payer (stackOfCore c.core) c.a 128 with
  | (.error f, s) => s.copyFault id c c.a f
  | (.ok bs, s) => if tensorOk bs then s.runTensor id c o (tensorOf bs) else s.copyAbort c .descriptor c.a

/-- The acquire flag of an engine's work takes effect before its first read: as an acquire fence at its scope (R245, R310). -/
def State.engineAcquire (s : State) (core ctx : Nat) (scope : Option Nat) : State :=
  match scope with
  | some sc => s.fenceDrops core ctx 1 sc
  | none => s

/-- COPY_COMPLETE (R245, R308): the engine performs a copy whole once its acquire flag, and a TCPY's descriptor read,
find the slot's earlier accesses performed; then its release, and P3 falls. -/
def execCopyComplete (id : Nat) (s : State) : Host.Outcome State Fault Refusal :=
  match s.copies.find? id with
  | none => .next s
  | some c =>
    if c.fin || c.fault.isSome then .next s
    else
      let before := s.among c.prior
      let acq (o : Fields) : Option Nat := if o.md.spec.getLsbD 0 then some (bitsN o.md.spec.toNat 3 1) else none
      match c.ins with
      | .cpy o =>
        if (acq o).any fun sc => before.any fun x => s.unreleased sc x.2 then .next s
        else .next ((s.engineAcquire c.core c.ctx (acq o)).runCpy id c o)
      | .tcpy o =>
        if before.any (fun x => x.2.left != 0) then .next s
        else .next ((s.engineAcquire c.core c.ctx (acq o)).runTcpy id c o)
      | _ => .next s

/-! ## Collectives (R315 to R317, R432, R433) -/

def collTy (t : Ty) (redop op : Nat) : Bool :=
  match t with
  | .f64 | .f32 | .bf16 | .f16 => redop < 3
  | .i32 | .i64 | .n32 | .n64 => true
  | .b32 | .b64 => op < 2 && 3 ≤ redop
  | _ => false

/-- The limits of R316. -/
def collOk (bs : List Byte) (self : Nat) (inDomain : Bool) : Bool :=
  let op := field bs 0 1
  let redop := field bs 1 1
  let t := Ty.ofCode (BitVec.ofNat 6 (field bs 2 1))
  let fl := field bs 3 1
  let ranks := field bs 0x10 8
  op ≤ 3 && redop ≤ 5 && (op < 2 || redop == 0) && field bs 2 1 < 64 && collTy t redop op &&
  (if fl.testBit 0 then bitsN fl 3 1 ≤ 5 else bitsN fl 3 1 == 0) &&
  (if fl.testBit 4 then bitsN fl 7 5 ≤ 5 else bitsN fl 7 5 == 0) &&
  (if op == 3 then ranks.testBit (field bs 4 2) else field bs 4 2 == 0) &&
  field bs 6 2 == 0 && 1 ≤ field bs 8 8 && field bs 8 8 ≤ 2 ^ 32 &&
  (if inDomain then ranks.testBit self else ranks == 1) &&
  field bs 0x18 8 % tyBytes t == 0 && field bs 0x20 8 % tyBytes t == 0 && field bs 0x28 8 % 8 == 0 &&
  field bs 0x34 12 == 0

/-- The participating ranks in increasing order (R317). -/
def CollOp.members (c : CollOp) : List Nat := (List.range 64).filter fun r => c.ranks.testBit r

/-- Elements that a rank sends, and their bytes (R317). -/
def CollOp.sendCount (c : CollOp) : Nat := if c.op = 1 then c.members.length * c.count else c.count
def CollOp.sendLen (c : CollOp) : Nat := tyBytes c.ty * c.sendCount

/-- Elements that a rank receives, and their bytes (R317). -/
def CollOp.recvCount (c : CollOp) : Nat := if c.op = 2 then c.members.length * c.count else c.count
def CollOp.recvLen (c : CollOp) : Nat := tyBytes c.ty * c.recvCount

/-- COLL (R315): the engine reads the descriptor and accepts it; a replayable fault of that read holds the slot, and the
COLL issues again when it is resolved (log 15). -/
def execColl (o : Fields) (s : State) : Host.Outcome State Fault Refusal :=
  issue (.coll o) o s fun e s =>
    let a := e.scal o.a .n64
    if !e.takes then s
    else if globalBad a then s.faultAt e .addressRange e.live a
    else if a % 64 ≠ 0 then s.faultAt e .descriptor e.live a
    else
      match s.engineRead e.payer (stackOfCore e.me.core) a 64 with
      | (.error (u, _, _, _, some k), s) => s.faultAt e k e.live (max a u)
      | (.error (u, c, d, l, none), s) =>
        let id := s.next
        let s := s.launchAcc e
          { core := 0, slot := 0, pcs := 0, tag := 0, team := 0, ctx := 0, space := .global, op := .fetch, lanes := e.live,
            left := e.live, fault := some { va := max a u, cause := c, detail := d, level := l, kind := 0, lanes := e.live } }
        (s.setPc e e.pc false).hold e (.fetch id)
      | (.ok bs, s) =>
        let dom := s.domOf e.team.ctx
        let self := match dom with | some (_, d) => d.rank | none => 0
        if !(s.part (s.partOfCtx e.team.ctx)).ownsEngine (dieOfCore e.me.core) then s.faultAt e .descriptor e.live
        else if globalBad (field bs 0x18 8) || globalBad (field bs 0x20 8) || globalBad (field bs 0x28 8) then
          s.faultAt e .addressRange e.live
        else if !collOk bs self dom.isSome then s.faultAt e .descriptor e.live a
        else
          let op : CollOp :=
              { pcs := e.me.pcs, pc := e.pc
                die := dieOfCore e.me.core, core := e.me.core, team := e.g.team, gidx := e.g.idx, kid := e.kid,
                ctx := e.team.ctx, op := field bs 0 1, redop := field bs 1 1,
                ty := Ty.ofCode (BitVec.ofNat 6 (field bs 2 1)), flags := field bs 3 1, root := field bs 4 2,
                count := field bs 8 8, ranks := field bs 0x10 8, send := field bs 0x18 8, recv := field bs 0x20 8,
                doneW := field bs 0x28 8, ctag := field bs 0x30 4 }
          if rangeBad op.send op.sendLen then s.faultAt e .addressRange e.live (2 ^ 56)
          else if rangeBad op.recv op.recvLen then s.faultAt e .addressRange e.live (2 ^ 56)
          else
            let (id, s) := s.fresh
            { s with colls := s.colls.put id op }

/-- The engine of a die acts for the context (R323): the class of no stack applies (log 7). -/
def CollOp.payer (c : CollOp) : Payer := { ctx := c.ctx, team := some c.team, die := some c.die }

/-- A delivered message that belongs to a collective: its tag, from a participating rank (R432). -/
def CollOp.named (c : CollOp) (x : DomMsg) : Bool :=
  c.ranks.testBit x.src &&
  match x.body with
  | .collective tag .. => tag == c.ctag
  | .collAbort tag => tag == c.ctag
  | _ => false

/-- Forget what was delivered for a collective. -/
def State.dropInbox (s : State) (c : CollOp) : State :=
  match s.domOf c.ctx with
  | some (m, d) => s.setDom m { d with inbox := d.inbox.filter fun x => !c.named x }
  | none => s

/-- send and recv overlap where they may not (R317): recv is then undefined. -/
def CollOp.clashes (c : CollOp) : Bool :=
  c.send < c.recv + c.recvLen && c.recv < c.send + c.sendLen &&
    !((c.op == 0 || c.op == 3) && c.send == c.recv)

/-- Free bytes, drawn from number `from_` on (log 12). -/
def freeList (from_ n : Nat) : List Byte := (List.range n).map fun i => BitVec.ofNat 8 (Config.freeNat (from_ + i))

/-- recv where it is undefined (R317): a free byte at each address that the engine can write. Nobody is charged, and no
cache or TLB changes (log 12). -/
def State.freeRecv (s : State) (c : CollOp) : State :=
  let at_ (i : Nat) : Option (Nat × Nat × Byte) :=
    match s.walkUnits c.payer (stackOfCore c.core) .write (unitsOf (c.recv + i) 1) with
    | (none, t) =>
      let stack := stackOfCore c.core
      some (t.keyVia c.ctx stack (c.recv + i), t.paVia c.ctx stack (c.recv + i), BitVec.ofNat 8 (Config.freeNat (s.free + i)))
    | (some _, _) => none
  ({ s with free := s.free + c.recvLen } : State).putAll ((List.range c.recvLen).filterMap at_)

/-- Write a collective's done word and forget it, recv undefined unless it completed; a fault skips the write of the
word, counted (R317, R353). -/
def State.endColl (s : State) (id : Nat) (c : CollOp) (v : Nat) : State :=
  let s : State := { s with colls := s.colls.erase id }
  let s := if v = 1 then s else (s.dropInbox c).freeRecv c
  match s.engineWrite c.payer (stackOfCore c.core) c.doneW (leBytes 8 v) with
  | (.ok (), s) => s
  | (.error _, s) => s.countErrCtx c.ctx 11

/-- A collective meets a fault. -/
def State.collFault (s : State) (id : Nat) (c : CollOp) (lo : Nat) (f : Nat × Nat × Nat × Nat × Option Cause) : State :=
  let va := max lo f.1
  match f.2.2.2.2 with
  | some k => abortKernel s c.kid (s.workReport c.team c.gidx c.pcs c.pc k va)
  | none =>
    { s with colls := s.colls.put id { c with
        fault := some { va := va, cause := f.2.1, detail := f.2.2.1, level := f.2.2.2.1, kind := 5, lanes := 0 } } }

/-- Elements of a type from bytes. -/
def elemsOf (n : Nat) (bs : List Byte) (k : Nat) : List Nat := (List.range k).map fun i => field bs (n * i) n

/-- The reduction over positions (R432). -/
def collReduce (c : CollOp) (xs : List Nat) : Nat × FFlags :=
  let (v, fl) := treeRed (redCombine c.ty c.redop .rne) 6 xs
  (v.getD 0 0, fl)

/-- What the rank of position `q` receives, from the contributions in position order (R317). -/
def collResult (c : CollOp) (q : Nat) (inputs : List (List Nat)) : List Nat × FFlags :=
  let red (at_ : Nat) : List (Nat × FFlags) :=
    (List.range c.count).map fun i => collReduce c (inputs.map fun x => x.getD (at_ + i) 0)
  let out (r : List (Nat × FFlags)) : List Nat × FFlags := (r.map Prod.fst, r.foldl (fun a x => a ||| x.2) 0)
  match c.op with
  | 0 => out (red 0)
  | 1 => out (red (q * c.count))
  | 2 => (inputs.flatten, 0)
  | _ => (inputs.getD ((c.members.idxOf c.root)) [], 0)

/-- Charge for the elements combined (R323). -/
def collCost (s : State) (c : CollOp) : Nat :=
  if c.op ≥ 2 then 0
  else c.count * (c.members.length - 1) *
    (if c.ty == .f64 then s.wt c.payer 7 else if c.ty.isFloat then s.wt c.payer 6 else s.wt c.payer 5)

/-- Send a message of a collective to the other participating ranks, charged per flit and hop (R323, R432, R485). -/
def State.collSend (s : State) (c : CollOp) (kind : Nat) (words : List Nat) (flits : Nat) : State :=
  match s.domOf c.ctx with
  | none => s
  | some (m, d) =>
    s.sendRanks m kind flits words (c.members.filter (· != d.rank)) (some (c.ctx, c.core, c.team))

/-- The rank of this chip for a context. -/
def State.selfRank (s : State) (ctx : Nat) : Nat := match s.domOf ctx with | some (_, d) => d.rank | none => 0

/-- The acquire flag of a descriptor (R316). -/
def CollOp.acq (c : CollOp) : Option Nat := if c.flags.testBit 0 then some (bitsN c.flags 3 1) else none

/-- Read the contribution, after the acquire of the descriptor's flag, and send it, 224 bytes to a flit (R245, R485). -/
def State.collStart (s : State) (id : Nat) (c : CollOp) : State :=
  let s := s.engineAcquire c.core c.ctx c.acq
  let n := tyBytes c.ty
  let k := if c.op = 3 && s.selfRank c.ctx != c.root then 0 else c.sendCount
  match s.engineRead c.payer (stackOfCore c.core) c.send (n * k) with
  | (.error f, s) => s.collFault id c c.send f
  | (.ok bs, s) =>
    let c := { c with sent := true, vals := elemsOf n bs k }
    let s := { s with colls := s.colls.put id c }
    s.collSend c 2 ([c.ctag, c.op, c.redop, c.ty.code.toNat, c.count, c.ranks, c.root] ++ c.vals) (max 1 ((n * k + 223) / 224))

/-- Write the result, the flags and done (R317). -/
def State.collFinish (s : State) (id : Nat) (c : CollOp) : State :=
  let self := s.selfRank c.ctx
  let inputs := c.members.map fun r => if r = self then c.vals else c.inputs.get [] r
  let (out, fl) := collResult c (c.members.idxOf self) inputs
  let bs := out.flatMap (leBytes (tyBytes c.ty))
  let (bs, s) := if c.clashes then (freeList s.free bs.length, ({ s with free := s.free + bs.length } : State)) else (bs, s)
  match s.engineWrite c.payer (stackOfCore c.core) c.recv bs with
  | (.error f, s) => s.collFault id c c.recv f
  | (.ok (), s) =>
    let s := s.charge c.payer (collCost s c) false
    (s.modMember c.team c.gidx fun g => { g with fflags := g.fflags ||| fl }).endColl id c 1

/-- An earlier collective of the context with the same tag is in flight (R432). -/
def State.collTagBusy (s : State) (id : Nat) (c : CollOp) : Bool :=
  s.colls.any fun e => e.1 < id && e.2.ctx == c.ctx && e.2.ctag == c.ctag

/-- Take a contribution of another rank: the first of each, or a disagreement (R317, R432). -/
def CollOp.accept (c : CollOp) (x : DomMsg) : CollOp :=
  match x.body with
  | .collective _ op redop ty count ranks root vals =>
    if op = c.op ∧ redop = c.redop ∧ ty = c.ty.code.toNat ∧ count = c.count ∧ ranks = c.ranks ∧ root = c.root then
      { c with inputs := c.inputs.put x.src vals }
    else { c with bad := true }
  | _ => c

/-- Take what was delivered for a collective, the oldest message of each rank (R432). -/
def State.collGather (s : State) (id : Nat) (c : CollOp) : CollOp × State :=
  match s.domOf c.ctx with
  | none => (c, s)
  | some (m, d) =>
    let (c, kept) := d.inbox.foldl (fun (a : CollOp × List DomMsg) x =>
      let isIn := match x.body with | .collective .. => true | _ => false
      if c.named x && isIn && !a.1.inputs.has x.src then (a.1.accept x, a.2) else (a.1, a.2 ++ [x])) (c, [])
    (c, ({ s with colls := s.colls.put id c } : State).setDom m { d with inbox := kept })

/-- ABORT for the collective's tag has been delivered (R433). -/
def State.collAborted (s : State) (c : CollOp) : Bool :=
  match s.domOf c.ctx with
  | some (_, d) => d.inbox.any fun x => c.named x && (match x.body with | .collAbort _ => true | _ => false)
  | none => false

/-- A participating rank's contribution names a tag that no collective here has (R317). -/
def State.collStray (s : State) (c : CollOp) : Bool :=
  match s.domOf c.ctx with
  | some (_, d) => d.inbox.any fun x =>
      match x.body with
      | .collective tag _ _ _ _ ranks _ _ =>
        ranks == c.ranks && c.ranks.testBit x.src && !c.inputs.has x.src &&
          !(s.colls.any fun e => e.2.ctx == c.ctx && e.2.ctag == tag)
      | _ => false
  | none => false

/-- COLLECTIVE_COMPLETE: the engine reads and sends its contribution, and when every rank's has arrived writes the
result and done (R317); one that names another rank starts only when no re-key is pending (R332), and one of an aborted
kernel ends in COLLECTIVE_ABORT (R317). -/
def execCollectiveComplete (id : Nat) (s : State) : Host.Outcome State Fault Refusal :=
  match s.colls.find? id with
  | none => .next s
  | some c =>
    let others := c.members.filter (· != s.selfRank c.ctx)
    let waits := !c.sent && !others.isEmpty && (match s.domOf c.ctx with | some (_, d) => d.rekeyPending | none => false)
    if c.fault.isSome || c.bad || waits || s.collTagBusy id c || (s.kern c.kid).abort.isSome then .next s
    else
      let s := if c.sent then s else s.collStart id c
      let s := match s.colls.find? id with | some c => (s.collGather id c).2 | none => s
      match s.colls.find? id with
      | some c =>
        if c.sent && !c.bad && c.fault.isNone && others.all fun r => c.inputs.has r then .next (s.collFinish id c) else .next s
      | none => .next s

/-- COLLECTIVE_ABORT (R433): the issuer's kernel or a participant's has ended, the descriptors disagree, or the domain
is broken; done receives 2 or 3. -/
def execCollectiveAbort (id : Nat) (why : CollEnd) (s : State) : Host.Outcome State Fault Refusal :=
  match s.colls.find? id with
  | none => .next s
  | some c =>
    let gone := match s.kernels.find? c.kid with | some k => !k.st.abortable | none => true
    match why with
    | .aborted =>
      if gone || s.collAborted c then
        .next ((if gone then s.collSend c 3 [c.ctag] 1 else s).endColl id c 2)
      else .next s
    | .disagreed => if c.bad || s.collStray c then .next (s.endColl id c 2) else .next s
    | .domainLost =>
      let lost := match s.domOf c.ctx with | some (_, d) => d.st == .broken | none => true
      if lost && c.ranks != 2 ^ s.selfRank c.ctx then .next (s.endColl id c 3) else .next s

end Sys2Proof.Machine
end

