-- ==== Sys2Proof/Machine/System.lean ====
section
/-! DEFINITION. Special registers, service calls and traps, energy and capacity reads (R153 to R166). -/

namespace Sys2Proof.Machine

open Sys2Proof

/-! ## Special registers (R104, R153 to R155) -/

/-- The value of a special register that SRD reads into a scalar (R104, R154, R338). -/
def State.special (s : State) (e : Env) (code : Nat) : Nat :=
  let stack := stackOfCore e.me.core
  match code with
  | 0x01 => e.g.idx
  | 0x02 => e.team.idx
  | 0x03 => e.team.cluster.getD 0xFFFFFFFF
  | 0x04 => (e.team.idx * e.kern.rec_.team + e.g.idx) % 2 ^ 32
  | 0x05 => e.me.core
  | 0x06 => stack
  | 0x07 => tierOfCore e.me.core
  | 0x08 => dieOfCore e.me.core
  | 0x09 => e.g.dead.toNat + (if e.g.deadRead then 2 ^ 32 else 0)
  | 0x0A => e.run.toNat
  | 0x0B => e.g.fflags.toNat
  | 0x0C => e.g.srseed.toNat
  | 0x0D => (s.stackSt stack).clock % 2 ^ 64
  | 0x0E => (s.stackSt stack).cls
  | 0x0F => e.team.ctx
  | _ => 0

/-- SRD: %lane into a vector, every other register into a scalar (R153, R154); its write is part of its charge
(R140). -/
def execSrd (o : Fields) (s : State) : Host.Outcome State Fault Refusal :=
  issue (.srd o) o s fun e s =>
    let code := o.md.spec.toNat % 256
    if code = 0 then
      if e.run == 0 then s
      else s.writeName e.me.core e.me.slot e.me.pcs e.pc o.dst.toNat e.run fun l => BitVec.ofNat 32 (e.laneId l)
    else if e.takes then s.putS e o.dst.toNat (s.special e code)
    else s

/-- SWR: %fflags takes bits [4:0], %dead only clears bit 32, %srseed holds 1 for 0 (R50, R86, R155). -/
def execSwr (o : Fields) (s : State) : Host.Outcome State Fault Refusal :=
  issue (.swr o) o s fun e s =>
    let x := e.scal o.a .n64
    if !e.takes then s
    else
      match o.md.spec.toNat % 256 with
      | 0x0B => s.onIssuer e.me fun g => { g with fflags := BitVec.ofNat 5 x }
      | 0x09 => if x.testBit 32 then s.onIssuer e.me fun g => { g with deadRead := false } else s
      | 0x0C => s.onIssuer e.me fun g => { g with srseed := if x % 2 ^ 32 = 0 then 1 else BitVec.ofNat 32 x }
      | _ => s

/-! ## Service and trap records (R156 to R162) -/

/-- The record's bytes after its sequence number (R157). -/
def svcBody (e : Env) (mask : Mask) (code kind arg : Nat) (words : Nat → Nat) : List Byte :=
  leBytes 4 mask.toNat ++ leBytes 2 code ++ leBytes 1 kind ++ leBytes 1 e.me.pcs ++ leBytes 2 e.g.idx ++
    leBytes 2 0 ++ leBytes 4 e.team.idx ++ leBytes 4 0 ++ leBytes 8 e.pc ++ leBytes 8 arg ++
    leBytes 8 e.kern.rec_.done ++
    ((List.range 32).flatMap fun l => leBytes 4 (if mask.getLsbD l then words l else 0)) ++ leBytes 16 0

/-- Bytes of a record as numbers, one a byte: the data of its access. -/
def bytesNat (bs : List Byte) : List Nat := bs.map (·.toNat)
def natBytes (ns : List Nat) : List Byte := ns.map (BitVec.ofNat 8)

/-- Signal the service interrupt of a context (R455). -/
def State.svcIrq (s : State) (c : Nat) : State :=
  let x := s.ctx c
  if x.irqEnable then s.raiseIrq x.fn x.irqVector else s

/-- Write a waiting record at the producer's entry: producer advances, the interrupt is signalled, and the group's wait
for the reply has its sequence number. A replayable fault leaves the record's access waiting (R162). -/
def State.writeRecord (s : State) (id : Nat) (a : Access) : State :=
  let c := s.ctx a.ctx
  let p : Payer := { ctx := a.ctx, core := some a.core, team := some a.team }
  if c.svcFull then s
  else
    let va := c.svcBase + 192 * (c.svcProd % svcEntries c)
    match s.engineWrite p (stackOfCore a.core) va (leBytes 4 c.svcProd ++ natBytes (a.data.getD 0 [])) with
    | (.ok (), s) =>
      let c := s.ctx a.ctx
      let s := s.setCtx a.ctx { c with svcProd := (c.svcProd + 1) % 2 ^ 32 }
      let s := s.l1Drop a.core a.ctx fun x => va / 128 ≤ x.vline && x.vline ≤ (va + 191) / 128
      let s := { s with acc := s.acc.erase id }
      (s.modGroup a.core a.slot fun g =>
        { g with svc := g.svc.map fun w => { w with seq := some c.svcProd } }).svcIrq a.ctx
    | (.error (u, _, _, _, some k), s) =>
      abortKernel s (s.team a.team).kid
        { status := 3, cause := k.code, core := a.core, slot := a.slot, pcSlot := a.pcs, lanes := a.lanes,
          team := (s.team a.team).idx, pc := a.pc, address := max va u }
    | (.error (u, cause, d, l, none), s) =>
      let f : PageFault := { va := max va u, cause := cause, detail := d, level := l, kind := 1, lanes := a.lanes,
                             stuck := a.lanes }
      { s with acc := s.acc.put id { a with ea := [va], fault := some f } }

/-- Issue a record: both PC slots wait until the reply (R159). -/
def State.postRecord (s : State) (e : Env) (lanes : Mask) (dst : Nat) (trap : Bool) (body : List Byte) : State :=
  let s := s.onIssuer e.me fun g => { g with svc := some { seq := none, lanes := lanes, dst := dst, trap := trap, pc := e.pc } }
  let s := s.hold e .reply
  let id := s.next
  let s := s.launchAcc e { core := 0, slot := 0, pcs := 0, tag := 0, team := 0, ctx := 0, space := .global, op := .record,
                           lanes := lanes, left := lanes, data := [bytesNat body] }
  match s.acc.find? id with
  | some a => s.writeRecord id a
  | none => s

/-- SVC (R159). Without a requesting lane it has no further effect; DESIGN CHOICE: it is then charged no gather, since no word
is gathered (R140 names no exception; log 18). -/
def execSvc (o : Fields) (s : State) : Host.Outcome State Fault Refusal :=
  issue (.svc o) o s fun e s =>
    let word (l : Nat) := e.src o.a .b32 l
    if e.run == 0 then s
    else
      let bad := if e.prot then
          pairDiff fun l => if e.run.getLsbD l then [1, word l] else [0]
        else 0
      if bad != 0 then s.pairAbort e bad
      else
        let s := s.charge e.payer (s.wt e.payer 10)
        let mask := e.visible e.run
        s.postRecord e e.run o.dst.toNat false
          (svcBody e mask (o.md.spec.toNat % 2 ^ 16) 1 (e.scal o.b .n64) fun i => word (e.phys i))

/-- TRAP (R161): the trap abort, or in a debug launch a trap record. -/
def execTrap (o : Fields) (s : State) : Host.Outcome State Fault Refusal :=
  issue (.trap o) o s fun e s =>
    let code := o.md.spec.toNat % 2 ^ 16
    if !e.takes then s
    else if e.kern.rec_.flags.testBit 1 then
      s.postRecord e e.run 0 true (svcBody e (e.visible e.run) code 2 0 fun _ => 0)
    else s.abortAt e 9 0 0 0 code

/-! ## Energy reads (R163, R164) -/

/-- Key of the copy of a stack's cores: of a context, or of a kernel. -/
def copyKey (stack : Nat) (kern : Bool) (n : Nat) : Nat := 2 ^ 41 * stack + (if kern then 2 ^ 40 else 0) + n

/-- The totals of a context and of a kernel that a copy holds. -/
def ctxTotals (x : Ctx) : List Int := [x.charged, x.correction, x.footprint, x.filler, x.level]
def kernTotals (k : Kernel) : List Int := [k.charged, k.correction, k.footprint, k.filler, 0]

/-- The copies once a kernel's teams have come to cores: its context's and its own are as new on each stack, so that a
team's reads do not fall when it moves (R164, log 15). -/
def State.arrivedCopies (s : State) (cores : List Nat) (kid ctx : Nat) : Tbl (List Int) :=
  cores.foldl (fun t c =>
    (t.put (copyKey (stackOfCore c) false ctx) (ctxTotals (s.ctx ctx))).put (copyKey (stackOfCore c) true kid)
      (kernTotals (s.kern kid))) s.stackCopy

/-- The copy of a counter as the stack's last refresh left it: charged, correction, footprint, filler, bucket. -/
def State.copied (s : State) (stack : Nat) (kern : Bool) (n sel : Nat) : Int :=
  (s.stackCopy.get [] (copyKey stack kern n)).getD sel 0

/-- Energy limit less the copied total, clamped (R163). -/
def limitLeft (limit : Nat) (total : Int) : Int :=
  if limit = 0 then 2 ^ 63 - 1 else clampLevel ((limit : Int) - total)

def State.energyRead (s : State) (e : Env) (f : EnrdForm) (sel : Nat) : Int :=
  let stack := stackOfCore e.me.core
  match f with
  | .team => (e.team.charge : Int)
  | .ctx => s.copied stack false e.team.ctx sel
  | .kern =>
    if sel = 5 then
      limitLeft e.kern.rec_.limit (([0, 1, 2, 3].map fun k => s.copied stack true e.kid k).sum)
    else s.copied stack true e.kid sel

/-- ENRD writes 128 bits into a scalar pair (R163). -/
def execEnrd (f : EnrdForm) (o : Fields) (s : State) : Host.Outcome State Fault Refusal :=
  issue (.enrd f o) o s fun e s =>
    if e.takes then
      let x := wrapN 128 (s.energyRead e f (o.md.spec.toNat % 8))
      (s.putS e o.dst.toNat (x % 2 ^ 64)).putS e (o.dst.toNat + 1) (x / 2 ^ 64)
    else s

/-! ## Capacity reads (R165, R166) -/

/-- The stacks of a kernel's pool (R165). -/
def State.poolOf (s : State) (k : Kernel) : List Nat :=
  let p := s.part (s.partOfCtx k.ctx)
  (List.range 64).filter fun x => p.ownsStack x && (k.rec_.class_ == 0xFF || (s.stackSt x).pool == k.rec_.class_)

def stackCores (k : Nat) : List Nat := (List.range 4).map (coreOf k)

/-- A core counts as in service until its notice is posted (R165). -/
def CoreSt.counted (c : CoreSt) : Bool :=
  match c.st with
  | .service => true
  | .drain => !c.notified
  | _ => false

/-- The figures of R165 for a kernel. -/
def State.capFigure (s : State) (kid sel : Nat) : Nat :=
  let k := s.kern kid
  let pool := s.poolOf k
  let cores := pool.flatMap stackCores
  match sel with
  | 0 => k.notices % 2 ^ 64
  | 1 => (cores.filter fun c => (s.coreSt c).counted).length
  | 2 => (cores.filter fun c => let x := s.coreSt c; x.notified && (x.st == .drain || x.st == .test)).length
  | 3 => (cores.filter fun c => let x := s.coreSt c; x.st == .retired && x.retBy == some (s.partOfCtx k.ctx)).length
  | 4 => (pool.map fun x => if (stackCores x).all fun c => (s.coreSt c).counted then 2 ^ x else 0).sum
  | _ => k.lastChange

def execCaprd (o : Fields) (s : State) : Host.Outcome State Fault Refusal :=
  issue (.caprd o) o s fun e s =>
    if e.takes then s.putS e o.dst.toNat (s.capFigure e.kid (o.md.spec.toNat % 8)) else s

end Sys2Proof.Machine
end

