-- ==== Sys2Proof/Machine/Access.lean ====
section
/-! DEFINITION. Accesses in flight (R73 to R80, R224 to R236, R262 to R282): when one may perform, what it does at
memory, its walks, its return and its faults. -/

namespace Sys2Proof.Machine

open Sys2Proof

/-! ## Which lanes may perform (R226, R229, R232, R233, R240, R250, R253) -/

/-- A load sent again looks in L1 again, is charged again, and asks again over the window (R80, R81, R83). -/
def State.sentAgain (s : State) (a : Access) : Access :=
  s.lookL1 { a with paid := [], paidR := [], sent := 0, req := [] }

/-- The lanes of a list that may perform: `ok` of their own, and for a write no lower lane that addresses a byte of
theirs is held back, so that the highest lane writes last (R240). `held`: the lanes held back so far. -/
def State.inTurn (s : State) (a : Access) (ok : Nat → Bool) : List Nat → List Nat → List Nat
  | _, [] => []
  | held, l :: r =>
    let behind (k : Nat) : Bool :=
      (s.pieces a l).any fun p => (s.pieces a k).any fun q => mayShare (a.stuckAt k) p q
    if ok l && !(a.writes && held.any behind) then l :: s.inTurn a ok held r
    else s.inTurn a ok (l :: held) r

/-- Lanes that may perform now: they wait on no fault and no answer, their translations are held, no earlier access holds
them back, and no access that either slot of the group issued before addresses a byte of theirs (R226). -/
def State.readyLanes (s : State) (id : Nat) (a : Access) : List Nat :=
  if (s.among a.prior).any fun x => s.before a x.2 then []
  else
    let issued := s.acc.filter fun x => x.2.team == a.team && x.2.gidx == a.gidx && x.1 < id
    s.inTurn a (fun l =>
      !a.stuckAt l && !(issued.any fun x => x.2.left != 0 && s.overlaps a x.2 l) &&
        (match s.placeOf a (a.ea.getD l 0) with
         | .here _ => a.space != .global || (s.missing a l).isEmpty
         | _ => true)) [] (lanesOf (a.left &&& ~~~a.sent))

/-! ## Checks at translation (R278, orders 5 to 7) -/

inductive LaneCheck where
  | ok
  | record (va : Nat)       -- a bad scale record (R45)
  | bad (c : Cause)
deriving DecidableEq, Repr

/-- The scale record of an element at nibble `h` of byte `b`, by physical address (R208, R268). -/
def State.recordOf (s : State) (a : Access) (b h : Nat) : Option Nat :=
  (s.leafFor a b).map fun (l, e) => recordAt e (elemIndex l e b h)

/-- The elements of a lane on a format page: byte, nibble and scale record of each (R268). -/
def State.elemsAt (s : State) (a : Access) (va : Nat) : List (Nat × Nat × Nat) :=
  if s.formatFor a va = 0 then []
  else (elemPlaces (s.formatFor a va) a.count va).map fun (b, h) => (b, h, (s.recordOf a b h).getD 0)

/-- Scale records that a lane's elements use. -/
def State.recordsOf (s : State) (a : Access) (va : Nat) : List Nat := nubN ((s.elemsAt a va).map fun x => x.2.2)

def State.checkLane (s : State) (a : Access) (l : Nat) : LaneCheck :=
  match s.placeOf a (a.ea.getD l 0) with
  | .remote _ => .ok
  | .lost => .bad .domainLost
  | .bad => .bad (if a.writes then .write else .read)
  | .here va =>
    if a.space != .global then .ok
    else if s.pastLimit a (a.ea.getD l 0) (s.extent a va) then .bad (if a.writes then .write else .read)
    else
      match (s.elemsAt a va).find? fun x => recBad (s.record (s.keyFor a va) x.2.2) with
      | some x => .record x.1
      | none =>
        if a.isElem && va % (elemExtent (s.formatFor a va) a.count).2 != 0 then .bad .misaligned
        else
        match (s.unitsFor a l).findSome? fun u =>
            match s.leafFor a u with
            | some (_, e) => s.permit a.ctx e a.kind
            | none => none with
        | some c => .bad c
        | none => .ok

/-! ## Bytes -/

/-- The byte that a load takes at an address, and whether it is poisoned. -/
def State.loadByte (s : State) (a : Access) (va : Nat) : Byte × Bool :=
  if a.space != .global then s.sramByte va
  else
    match s.hitFor a va with
    | some x => (x.bytes.getD (va % 128) 0, false)
    | none => (s.byteFor a va, s.poisoned (s.paFor a va))

/-- A load that reads L1 where it hits. -/
def Access.reads (a : Access) : Bool :=
  match a.op with
  | .load | .elemLoad | .pop _ => true
  | _ => false

/-- Charge one sector of an access at the level that serves it, and fill L1 for a load (R267, R282). `whole`: a store
covers it. -/
def State.serveSector (s : State) (a : Access) (x : Nat) (whole : Bool) : State :=
  let va := x * 32
  let p := a.payer
  match s.hitFor a va, a.reads && !a.served with
  | some h, true => (s.charge p (s.wt p 12)).charge p (if h.key != 0 then s.wt p 13 else 0) false
  | _, _ =>
    let at_ := s.attrOf a va
    let s := s.serveL2 p at_.key at_.pa (if !a.writes then .read else if whole then .full else .part)
    if a.reads && !a.served then
      match s.leafFor a va with
      | some (l, e) => s.l1Fill a.core a.ctx va l e
      | none => s
    else s

def State.serveSectors (s : State) (a : Access) (whole : Nat → Bool) : List Nat → State
  | [] => s
  | x :: r => (s.serveSector a x (whole x)).serveSectors a whole r

/-- Store one byte of an access: at the home slice, in a matching L1 line of its core, or in the array. `u` is the state in which
the access performs, whose translations it takes. -/
def State.storeByte (s u : State) (a : Access) (va : Nat) (b : Byte) : State :=
  if a.space != .global then { s with sram := Tbl.set 0 s.sram va b }
  else
    let x := u.attrOf a va
    let t := s.putKeyed (u.keyNo x.key) x.pa b
    if a.served then t else t.l1Store a.core a.ctx va x.pa x.order x.format x.wr b

def State.storeBytes (s u : State) (a : Access) (va : Nat) : List Byte → State
  | [] => s
  | b :: r => (s.storeByte u a va b).storeBytes u a (va + 1) r

/-! ## Performing lanes -/

/-- The values of one lane of a load, and whether a byte or a scale record of it is poisoned (R268, R280). -/
def State.laneValues (s : State) (a : Access) (l : Nat) : List Nat × Bool :=
  let va := s.laneVa a l
  match s.formatFor a va with
  | 0 =>
    let n := tyBytes a.ty
    let bs := (List.range (a.count * n)).map fun i => s.loadByte a (va + i)
    (elemsOf n (bs.map Prod.fst) a.count, bs.any Prod.snd)
  | fmt =>
    let els := s.elemsAt a va
    (els.map fun x => dequantise (s.record (s.keyFor a va) x.2.2) (codeOf fmt (s.loadByte a x.1).1 x.2.1),
      els.any fun x => (s.loadByte a x.1).2 || s.poisoned x.2.2)

/-- The values of one lane of a load; none where the lane consumes poison (R268, R280). -/
def State.loadLane (s : State) (a : Access) (l : Nat) : Option (List Nat) :=
  if (s.laneValues a l).2 then none else some (s.laneValues a l).1

/-- Bytes that a lane of a store covers whole. -/
def State.coveredBytes (s : State) (a : Access) (l : Nat) : List Nat :=
  let va := s.laneVa a l
  if s.formatFor a va == 2 && a.count == 1 then []
  else (List.range (s.extent a va)).map fun i => va + i

/-- One lane of a store (R265, R266, R269): the state and the flags it raises. -/
def State.storeLane (s u : State) (a : Access) (l : Nat) : State × FFlags :=
  let va := u.laneVa a l
  let data := a.data.getD l []
  match u.formatFor a va with
  | 0 => (s.storeBytes u a va (data.flatMap (leBytes (tyBytes a.ty))), 0)
  | fmt =>
    ((u.elemsAt a va).zip data).foldl (fun (acc : State × FFlags) x =>
      let (s, fl) := acc
      let ((b, h, r), v) := x
      let (code, f) := quantise f32 .rne (codeMax fmt) (s.record (u.keyFor a va) r) v
      (s.storeByte u a b (putCode fmt (s.keyByte (u.keyFor a b) (u.paFor a b)) h code), fl ||| f)) (s, 0)

/-- Poison after a store: words wholly covered are cleared, others stay so and are counted (R280). -/
def State.poisonAfter (s u : State) (a : Access) (covered touched : List Nat) : State :=
  let w := if a.space == .global then 32 else 8
  (nubN (touched.map fun b => b / w)).foldl (fun s k =>
    let whole := (List.range w).all fun i => covered.contains (k * w + i)
    if a.space == .global then s.storePoison a.ctx (u.paFor a (k * 32) / 32) whole
    else if s.sramPoison.contains k then
      (if whole then { s with sramPoison := setDel s.sramPoison k } else s.countErrCtx a.ctx 5)
    else s) s

/-- What a lane of an atomic leaves: nothing returned where its word is poisoned (R272, R280). -/
def State.atomLane (s u : State) (a : Access) (op l : Nat) : State × Option (Nat × FFlags) :=
  let va := u.laneVa a l
  let n := tyBytes a.ty
  let bad := if a.space == .global then s.poisoned (u.paFor a va) else s.sramPoison.contains (va / 8)
  if bad then (s, none)
  else
    let old := leNat ((List.range n).map fun i =>
      if a.space == .global then s.keyByte (u.keyFor a (va + i)) (u.paFor a (va + i)) else Tbl.get 0 s.sram (va + i))
    let (new, fl) := atomNew op a.ty old (a.data.getD l [])
    (s.storeBytes u a va (leBytes n new), some (old, fl))

/-- The lanes of an atomic in increasing order (R240): values returned, flags, lanes at poisoned words. -/
def State.atomLanes (s u : State) (a : Access) (op : Nat) : List Nat → State × List (Nat × Nat) × FFlags × List Nat
  | [] => (s, [], 0, [])
  | l :: r =>
    let (s, x) := s.atomLane u a op l
    let (s, got, fl, bad) := s.atomLanes u a op r
    match x with
    | some (old, f) => (s, (l, old) :: got, fl ||| f, bad)
    | none => (s, got, fl, l :: bad)

/-- The sectors that lanes touch. -/
def State.sectorsFor (s : State) (a : Access) (lanes : List Nat) : List Nat :=
  nubN (lanes.flatMap fun l => let va := s.laneVa a l; sectorsOf va (s.extent a va))

/-- The scale-record sectors of lanes. -/
def State.recordSectors (s : State) (a : Access) (lanes : List Nat) : List Nat :=
  nubN (lanes.flatMap fun l => (s.recordsOf a (s.laneVa a l)).map fun r => r / 32)

/-- Charge what lanes of an access take at memory, each sector of the access once, whenever its lanes perform; a scale
record's sector is an L2 read (R282). -/
def State.serveLanes (s : State) (a : Access) (whole : Nat → Bool) (lanes : List Nat) : State :=
  let s' := ((s.recordSectors a lanes).filter fun x => !a.paidR.contains x).foldl
    (fun s x => s.touchL2 a.payer (x * 32) .read) s
  s'.serveSectors a whole ((s.sectorsFor a lanes).filter fun x => !a.paid.contains x)

/-- The access with what `serveLanes` charged. -/
def State.paidFor (s : State) (a : Access) (lanes : List Nat) : Access :=
  { a with paid := joinIds a.paid (s.sectorsFor a lanes), paidR := joinIds a.paidR (s.recordSectors a lanes) }

def maskFrom (ls : List Nat) : Mask := maskOf fun l => ls.contains l

/-- Perform local lanes of an access at once; global ones are charged, scratchpad ones were at issue. A popped entry keeps
its words even where they are poisoned: they say which lanes consume the poison (R84). -/
def State.performHere (s : State) (a : Access) (lanes : List Nat) : State × Access :=
  let m := maskFrom lanes
  let glob := a.space == .global
  let u := s
  let a' := { (if glob then s.paidFor a lanes else a) with left := a.left &&& ~~~m }
  match a.op with
  | .load | .elemLoad =>
    let vals := lanes.map fun l => (l, s.loadLane a l)
    let s := if glob then s.serveLanes a (fun _ => false) lanes else s
    (s, { a' with
      got := vals.foldl (fun t x => match x.2 with | some v => Tbl.put t x.1 v | none => t) a.got
      dying := a.dying ||| maskFrom (vals.filterMap fun x => if x.2.isNone then some x.1 else none) })
  | .pop _ =>
    let v := s.laneValues a 0
    (s.serveLanes a (fun _ => false) lanes, { a' with got := [(0, v.1)], dying := if v.2 then 1 else 0 })
  | .store | .elemStore | .push =>
    let covered := lanes.flatMap fun l => s.coveredBytes a l
    let touched := lanes.flatMap fun l => let va := s.laneVa a l; (List.range (s.extent a va)).map fun i => va + i
    let whole (x : Nat) : Bool := (List.range 32).all fun i => covered.contains (x * 32 + i)
    let s := if glob then s.serveLanes a whole lanes else s
    let s := s.poisonAfter u a covered touched
    let (s, fl) := lanes.foldl (fun (acc : State × FFlags) l =>
      let (s, f) := acc.1.storeLane u a l
      (s, acc.2 ||| f)) (s, 0)
    (s, { a' with raised := a.raised ||| fl })
  | .atom op ret =>
    let s := if glob then
        (s.serveLanes a (fun _ => false) lanes).charge a.payer (lanes.length * s.wt a.payer (atomEvent op a.ty)) false
      else s
    let (s, got, fl, bad) := s.atomLanes u a op lanes
    let s := if ret || !glob then s else bad.foldl (fun s _ => s.countErrCtx a.ctx 6) s
    (s, { a' with
      got := got.foldl (fun t x => Tbl.put t x.1 [x.2]) a.got
      raised := a.raised ||| fl
      dying := if ret || !glob then a.dying ||| maskFrom bad else a.dying })
  | _ => (s, a')

/-! ## Another chip's window (R250, R270, R430, R431) -/

/-- The rank whose window a lane addresses. -/
def rankOf (ea : Nat) : Nat := ea / 2 ^ 50 % 64

/-- The lanes of a mask that address the window of a rank. -/
def Access.lanesAt (a : Access) (m : Mask) (rank : Nat) : List Nat :=
  (lanesOf m).filter fun l => a.ea.getD l 0 / 2 ^ 56 == 1 && rankOf (a.ea.getD l 0) == rank

/-- Flits of a window request, and of its answer, over `n` sectors (R431). -/
def Access.flits (a : Access) (n : Nat) : Nat × Nat :=
  ((n + 11) / 12 + if a.writes then (n + 5) / 6 else 0,
    (match a.op with | .load | .elemLoad | .atom _ true => (n + 5) / 6 | _ => 0) + 1)

/-- Sectors of another chip's window that lanes address. -/
def Access.farSectors (a : Access) (lanes : List Nat) : Nat :=
  (nubN (lanes.flatMap fun l => sectorsOf (a.ea.getD l 0) a.span)).length

/-- Send the request of lanes that address another chip's window: they have performed when its answer comes. Its flits are
charged when they are sent, those of the answer when it comes (R431). -/
def State.sendWindow (s : State) (a : Access) (rank : Nat) (lanes : List Nat) : State × Access :=
  match s.domOf a.ctx with
  | none => (s, a)
  | some (m, _) =>
    let mask := maskFrom lanes
    let (k, s) := s.fresh
    (s.sendDom m 4 (a.flits (a.farSectors lanes)).1 (k :: mask.toNat :: lanes.map fun l => a.ea.getD l 0) rank
        (some (a.ctx, a.core, a.team)),
      { a with sent := a.sent ||| mask, req := a.req.put rank k })

/-! ## Completion -/

/-- Some lanes of an access have performed: an access that returns nothing completes when all have; an acquire drops
what R233 says, at the latest when the parts that are left order nothing (R231); arrivals may now count (R325). A store's flags are ORed in as its lanes complete (R269, R272). -/
def State.afterPerform (s : State) (id : Nat) (a : Access) : State :=
  let s := if a.dst.isSome || a.raised == 0 then s
    else s.modGroup a.core a.slot fun g => if g.tag = a.tag then { g with fflags := g.fflags ||| a.raised } else g
  let a := if a.dst.isSome then a else { a with raised := 0 }
  let s := { s with acc := s.acc.put id a }
  let s := if isAcq a && (a.left == 0 || !s.ordersAt a) then s.acquire a.core a.ctx a.scope else s
  if a.left != 0 then s.settleArrival a.core a.slot
  else
    let s :=
      if a.dst.isSome then s
      else
        match a.op with
        | .pop _ => s
        | _ =>
          let s := s.finishAcc id
          match s.group? a.core a.slot with
          | some g => if g.tag = a.tag ∧ a.dying ≠ 0 then s.killLanes a.core a.slot a.dying else s
          | none => s
    s.settleArrival a.core a.slot

/-- An access ends in a fault that aborts its kernel (R278). -/
def State.accessAbort (s : State) (a : Access) (c : Cause) (l : Nat) : State :=
  abortKernel s a.kid
    { status := 3, cause := c.code, core := a.core, slot := a.slot, pcSlot := a.pcs, lanes := 1#32 <<< l,
      team := (s.team a.team).idx, pc := a.pc, address := a.ea.getD l 0 }

/-- An access meets a replayable fault: its record, until it is written, gives the lowest faulting address (R79, R216). -/
def Access.meets (a : Access) (f : PageFault) : Access :=
  match a.fault with
  | none => { a with fault := some f }
  | some g =>
    { a with fault := some { (if g.recorded || g.va ≤ f.va then g else f) with stuck := g.stuck ||| f.stuck } }

/-- The kind of a fault record (R216). -/
def Access.faultKind (a : Access) : Nat :=
  match a.op with
  | .load | .elemLoad => 0
  | .store | .elemStore | .record => 1
  | .atom .. | .jdec => 2
  | .fetch | .spawn => 3
  | .push | .pop _ => 4

/-- The lanes that meet a bad scale record, with the lowest address of such an element (R45, R216). -/
def State.badRecord (s : State) (a : Access) (ready : List Nat) : Option (Nat × Mask) :=
  let bad := ready.filterMap fun l => match s.checkLane a l with | .record va => some (l, plainVa va) | _ => none
  match bad with
  | [] => none
  | x :: r => some (r.foldl (fun m y => min m y.2) x.2, maskFrom (bad.map Prod.fst))

/-- Send the ready lanes of each rank from which no answer is awaited. -/
def State.sendWindows (s : State) (a : Access) (lanes : List Nat) : List Nat → State × Access
  | [] => (s, a)
  | r :: rest =>
    let ls := a.lanesAt (maskFrom lanes) r
    let (s, a) := if ls.isEmpty || !(a.lanesAt a.sent r).isEmpty then (s, a) else s.sendWindow a r ls
    s.sendWindows a lanes rest

/-- Perform what may be performed of an access (R278): lanes in increasing order up to the first that fails a check; those
that meet a bad scale record wait for it to be resolved (R79). -/
def State.performAccess (s : State) (id : Nat) (a : Access) : State :=
  let ready := s.readyLanes id a
  match ready with
  | [] => s
  | _ =>
    let failing (l : Nat) : Option Cause := match s.checkLane a l with | .bad c => some c | _ => none
    let firstBad := ready.find? fun l => (failing l).isSome
    let good := ready.filter fun l => s.checkLane a l == .ok && firstBad.all (l < ·)
    let isHere (l : Nat) : Bool := match s.placeOf a (a.ea.getD l 0) with | .here _ => true | _ => false
    let here := good.filter isHere
    let far := good.filter fun l => !isHere l
    let a := match s.badRecord a ready with
      | some (va, m) => a.meets { va := va, cause := 3, detail := 0, level := 0xFF, kind := a.faultKind, lanes := a.left, stuck := m }
      | none => a
    let (s, a) := if here.isEmpty then (s, a) else s.performHere a here
    let (s, a) := s.sendWindows a far (nubN (far.map fun l => rankOf (a.ea.getD l 0)))
    let s := s.afterPerform id a
    match firstBad with
    | some l => s.accessAbort a ((failing l).getD .read) l
    | none => s

/-- The cause that another chip's answer reports (R270). -/
def answerCause (status : Nat) : Option Cause :=
  [Cause.read, .write, .world, .key, .misaligned].find? fun c => c.code == status

/-- The answer to a window request: the lanes that performed hold what came back; the others take the fault of the owning
chip, a replayable one recorded there and sent again when it is resolved (R270). -/
def State.windowAnswer (s : State) (ctx rank k status : Nat) (done dead : Mask) (flags : BitVec 5) (vals : List (List Nat)) :
    State :=
  match List.find? (fun e => e.2.ctx == ctx && e.2.req.find? rank == some k) s.acc with
  | none => s
  | some (id, a) =>
    let asked := a.lanesAt a.sent rank
    let hops := match s.domOf a.ctx with | some (_, d) => (s.hopsToRank d rank).getD 0 | none => 0
    let s := if asked.isEmpty then s
      else s.charge a.payer ((a.flits (a.farSectors asked)).2 * hops * s.wt a.payer 19) false
    let m := maskFrom asked
    let ok := if status = 0 then m else m &&& done
    let val (l : Nat) : List Nat := (List.range a.count).map fun i => ((vals.getD l []).getD i 0) % 2 ^ a.ty.width
    let a' := { a with
      left := a.left &&& ~~~ok, sent := a.sent &&& ~~~m, raised := a.raised ||| flags
      dying := if a.dst.isSome then a.dying ||| (dead &&& ok) else a.dying
      got := if a.dst.isSome then (lanesOf (ok &&& ~~~dead)).foldl (fun t l => Tbl.put t l (val l)) a.got else a.got }
    let rest := m &&& ~~~ok
    if asked.isEmpty then s
    else if rest == 0 then s.afterPerform id a'
    else if 1 ≤ status ∧ status ≤ 3 then
      let va := (lanesOf rest).foldl (fun x l => min x (a.ea.getD l 0)) (2 ^ 57)
      s.afterPerform id (a'.meets { va := va, cause := status, detail := 0, level := 0, kind := a.faultKind, lanes := a'.left,
                                    recorded := true, stuck := rest })
    else
      match answerCause status with
      | some c => (s.afterPerform id a').accessAbort a c ((lanesOf rest).headD 0)
      | none => s

/-- A SPAWN whose release is complete puts its record into the pool (R318). -/
def State.performSpawn (s : State) (id : Nat) (a : Access) : State :=
  if (s.among a.prior).any fun x => s.before a x.2 then s
  else
    let k := s.kern a.kid
    let d := a.data.getD 0 []
    if k.pool.length ≥ 65536 || !k.outside.isEmpty then s
    else
      ((s.enterPool a.kid { idx := 0, code := d.getD 0 0, frame := d.getD 1 0, join := d.getD 2 0, spawned := true }).finishAcc
        id).settleArrival a.core a.slot

/-- A JDEC performs its step; a record it makes that finds the pool full holds the JDEC's counter (R320). -/
def State.performJdec (s : State) (id : Nat) (a : Access) : State :=
  if s.readyLanes id a == [] then s
  else
    match s.checkLane a 0 with
    | .bad c => s.accessAbort a c 0
    | _ =>
      let (s, r) := s.joinStep a.payer (s.keyFor a (a.ea.getD 0 0)) (s.paFor a (a.ea.getD 0 0))
      let s := s.l1DropRange a.core a.ctx (a.ea.getD 0 0) 32
      let s := { s with acc := s.acc.put id { a with left := 0 } }
      let s := match r with
        | some r => s.makeRecord a.kid r (some id)
        | none => s
      let waiting := (s.kern a.kid).outside.any fun x => x.2 == some id
      (if waiting then s else s.finishAcc id).settleArrival a.core a.slot

/-- GLOBAL_ACCESS_PERFORMED (R77): an access performs for its lanes that may. -/
def execGlobalAccessPerformed (id : Nat) (s : State) : Host.Outcome State Fault Refusal :=
  match s.acc.find? id with
  | none => .next s
  | some a =>
    if a.left == 0 then .next s
    else
      match a.op with
      | .fetch => .next s
      | .record => .next (if a.fault.isSome then s else s.writeRecord id a)
      | .spawn => .next (s.performSpawn id a)
      | .jdec => .next (s.performJdec id a)
      | _ => .next (s.performAccess id a)

/-! ## Walks and faults (R79, R202, R214 to R217) -/

/-- The lowest address of an access in a 4 KiB unit. -/
def State.lowestIn (s : State) (a : Access) (u : Nat) : Nat :=
  (lanesOf a.left).foldl (fun m l =>
    let va := s.laneVa a l
    if (unitsOf va (s.extent a va)).contains u then min m (max va u) else m) (u + 4095)

/-- PAGE_WALK_COMPLETE (R202): the walk of the lowest missing page of the lanes that wait on no fault installs a
translation, or ends in a replayable fault that the lanes of that page wait on (R79, R215). -/
def execPageWalkComplete (id : Nat) (s : State) : Host.Outcome State Fault Refusal :=
  match s.acc.find? id with
  | none => .next s
  | some a =>
    if a.left == 0 || a.space != .global then .next s
    else
      match a.op with
      | .fetch | .record | .spawn => .next s
      | _ =>
        let wants (l : Nat) : List Nat :=
          match s.placeOf a (a.ea.getD l 0) with
          | .here _ => if a.stuckAt l then [] else s.missing a l
          | _ => []
        match (lanesOf a.left).flatMap wants with
        | [] => .next s
        | u :: r =>
          let u := r.foldl min u
          let stuck := maskOf fun l => a.left.getLsbD l && (wants l).contains u
          match s.walk a.payer a.stack u a.writes with
          | (.leaf .., s) => .next s
          | (.fault c d l, s) =>
            .next { s with acc := s.acc.put id (a.meets
              { va := plainVa (s.lowestIn { a with left := stuck } u), cause := c, detail := d, level := l, kind := a.faultKind,
                lanes := a.left, stuck := stuck }) }

/-- The ring entries of a fault ring; 0 while it is disabled (R215). -/
def FaultRing.entries (r : FaultRing) : Nat := if 6 ≤ r.log2 ∧ r.log2 ≤ 16 ∧ r.base < 2 ^ 52 then 2 ^ r.log2 else 0

/-- The bytes of a fault record (R216). -/
def recordBytes (f : PageFault) (ctx core slot seq : Nat) : List Byte :=
  leBytes 8 f.va ++ leBytes 2 ctx ++ leBytes 1 f.cause ++ leBytes 1 f.detail ++ leBytes 1 f.level ++ leBytes 1 f.kind ++
    leBytes 2 core ++ leBytes 2 slot ++ leBytes 2 0 ++ leBytes 4 f.lanes.toNat ++ leBytes 4 seq ++ leBytes 4 0

/-- Write a fault's record into the ring of the context's function, where there is room, and raise vector 0. -/
def State.writeFault (s : State) (ctx core slot : Nat) (f : PageFault) : Option State :=
  let fn := (s.ctx ctx).fn
  let r := s.ring fn
  if r.entries = 0 ∨ (r.prod + 2 ^ 32 - r.cons) % 2 ^ 32 ≥ r.entries then none
  else
    let s := s.writeMem (r.base + 32 * (r.prod % r.entries)) (recordBytes f ctx core slot r.prod)
    some ((s.setRing fn { r with prod := (r.prod + 1) % 2 ^ 32 }).raiseIrq fn 0)

/-- FAULT_RECORD_WRITE (R215, R216): of an access, a copy, a collective or a matrix operation. -/
def execFaultRecordWrite (id : Nat) (s : State) : Host.Outcome State Fault Refusal :=
  let go (ctx core slot : Nat) (f : PageFault) (done : State → State) : State :=
    if f.recorded then s
    else
      match s.writeFault ctx core slot f with
      | some s => done s
      | none => s
  match s.acc.find? id, s.copies.find? id, s.mats.find? id, s.colls.find? id with
  | some a, _, _, _ =>
    match a.fault with
    | some f => .next (go a.ctx a.core a.slot { f with lanes := if f.kind = 4 then 0 else a.left } fun s =>
        { s with acc := s.acc.put id { a with fault := some { f with recorded := true } } })
    | none => .next s
  | _, some c, _, _ =>
    match c.fault with
    | some f => .next (go c.ctx c.core 0xFFFF f fun s =>
        { s with copies := s.copies.put id { c with fault := some { f with recorded := true } } })
    | none => .next s
  | _, _, some m, _ =>
    match m.fault with
    | some f => .next (go m.ctx m.core 0xFFFF f fun s =>
        { s with mats := s.mats.put id { m with fault := some { f with recorded := true } } })
    | none => .next s
  | _, _, _, some c =>
    match c.fault with
    | some f => .next (go c.ctx c.core 0xFFFF f fun s =>
        { s with colls := s.colls.put id { c with fault := some { f with recorded := true } } })
    | none => .next s
  | _, _, _, _ => .next s

/-! ## Returns (R62, R74, R77, R102) -/

/-- An older access of the same kind has still to return: one path's in issue order, the SFU's likewise (R74, R170). One that
returns nothing holds no other back (R79). -/
def State.returnBlocked (s : State) (id : Nat) (a : Access) : Bool :=
  (s.accOf a.core a.slot a.tag).any fun e => e.1 < id && e.2.dst.isSome &&
    (match a.path with | some p => e.2.path == some p | none => e.2.space == .sfu)

/-- Write the register `i` of a returned access for its lanes. -/
def State.bindElem (s : State) (a : Access) (m : Mask) (dst i : Nat) : State :=
  let v (l : Nat) : Nat := loadedLane a.ty ((a.got.get [] l).getD i 0)
  let w := a.ty.isWide
  let n := dst + i * (if w then 2 else 1)
  let s := s.charge a.payer ((if w then 2 else 1) * s.wt a.payer 4)
  let s := s.writeName a.core a.slot a.pcs a.pc n m fun l => BitVec.ofNat 32 (v l)
  if w then s.writeName a.core a.slot a.pcs a.pc (n + 1) m fun l => BitVec.ofNat 32 (v l / 2 ^ 32) else s

/-- The lanes of a group that die with others: a protected launch's come in pairs (R89). -/
def State.dyingWith (s : State) (kid : Nat) (m : Mask) : Mask := if (s.kern kid).rec_.flags.testBit 0 then pairUp m else m

/-- A return is dropped and counted: its tag is not the slot's, or its group has retired (R102, R103, R150). -/
def State.dropReturn (s : State) (id : Nat) (a : Access) : State :=
  ({ s with acc := s.acc.erase id } : State).countRegEv a.core (a.slot / 256) a.ctx 1 1

/-- DEFERRED_RETURN (R74): the result binds its name, its flags are ORed in, its counter falls and the lanes that met
poison die, their pairs with them (R84, R89); a return whose tag is not the slot's is dropped and counted. -/
def execDeferredReturn (id : Nat) (s : State) : Host.Outcome State Fault Refusal :=
  match s.acc.find? id with
  | none => .next s
  | some a =>
    match a.dst with
    | none => .next s
    | some dst =>
      if a.left != 0 then .next s
      else if ((s.coreSt a.core).tags.get 0 a.slot) ≠ a.tag then .next (s.dropReturn id a)
      else
        match s.group? a.core a.slot with
        | none => .next (s.dropReturn id a)
        | some g =>
          if s.returnBlocked id a then .next s
          else
            let m := a.lanes &&& ~~~s.dyingWith a.kid a.dying &&& ~~~g.dead
            let s := if m = 0 then s else (List.range a.count).foldl (fun s i => s.bindElem a m dst i) s
            let s := s.modGroup a.core a.slot fun g => { g with fflags := g.fflags ||| a.raised }
            let s := match a.path with
              | some _ => ({ s with acc := s.acc.put id { a with dst := none } } : State).finishAcc id
              | none => { s with acc := s.acc.erase id }
            let s := if a.dying = 0 then s else s.killLanes a.core a.slot a.dying
            .next (s.settleArrival a.core a.slot)

/-- The popped entry of a group: its two words (R71). -/
def popEntry (a : Access) : Nat := (a.got.get [] 0).getD 0 0 + 2 ^ 64 * (a.got.get [] 0).getD 1 0

/-- DIVERGENCE_STACK_POP_RETURN (R69, R71, R72): the entry fills its slot; a reserved bit or an index of 0xFF aborts the
kernel; an entry with no live lane leaves the slot empty. -/
def execDivergenceStackPopReturn (core slot : Nat) (s : State) : Host.Outcome State Fault Refusal :=
  match s.group? core slot with
  | none => .next s
  | some g =>
    match (s.accOf core slot g.tag).findSome? fun e =>
        match e.2.op with
        | .pop x => if e.2.left == 0 then some (e.1, e.2, x) else none
        | _ => none with
    | none => .next s
    | some (id, a, x) =>
      let ent := popEntry a
      let index := bitsN ent 119 112
      let s := { s with acc := s.acc.erase id }
      if a.dying == 0 && (bitsN ent 127 120 != 0 || bitsN ent 79 57 != 0 || index == 0xFF) then
        let t := s.team g.team
        .next (abortKernel s t.kid { status := 3, cause := Cause.divergenceStack.code, core := core, slot := slot,
                                     pcSlot := x, lanes := g.liveLanes, team := t.idx,
                                     pc := (g.slotAt (1 - x)).pc })
      else
        let m := BitVec.ofNat 32 (bitsN ent 111 80) &&& ~~~g.dead
        let g := ({ g with slot0 := { g.slot0 with index := index }, slot1 := { g.slot1 with index := index } } : Group).setSlot
          x { pc := bitsN ent 56 0, mask := m, index := index, entered := true, seen := (g.slotAt x).seen }
        let g := ({ g with gone := g.gone &&& ~~~m } : Group).unpark x
        let g := if m == 0 then g.setSlot x { index := if x = 0 then index else 0xFF } else g
        let s := s.setGroup core slot g
        let s := if a.dying == 0 then s else s.killLanes core slot m
        .next (s.settleSlots core slot)

/-! ## Data races (R242 to R244) -/

/-- Accesses of two groups that conflict and that R243 does not exempt: some byte in common, at least one writes, not both
atomics, not both on S pages, and not a release with the acquire that may read it. -/
def State.races (s : State) (a b : Access) : Bool :=
  let isAtom (x : Access) : Bool := match x.op with | .atom .. => true | _ => false
  let plainOp (x : Access) : Bool := match x.op with | .load | .elemLoad | .store | .elemStore | .atom .. => true | _ => false
  !(a.team == b.team && a.gidx == b.gidx) && plainOp a && plainOp b && sameSpace a b && (a.writes || b.writes) &&
    !(isAtom a && isAtom b) && (a.order == 0 || b.order == 0) &&
    (s.leftPieces a).any fun p => (s.leftPieces b).any fun q =>
      !(p.order == some 0 && q.order == some 0) &&
        (match p.pa, q.pa with | some x, some y => meet x p.n y q.n | _, _ => false)

/-- A kernel has an access in flight that races (log 13). -/
def State.racing (s : State) (kid : Nat) : Bool :=
  s.acc.any fun x => x.2.kid == kid && s.acc.any fun y => s.races x.2 y.2

/-- A racing kernel's context may see any value in any location it can write: a byte of a page of its own, or of the scratchpad
of one of its teams, takes any value (R244). -/
def State.raceByte (s : State) (kid : Nat) (team : Option Nat) (va : Nat) (b : Byte) : State :=
  if !(s.kern kid).st.abortable || !s.racing kid then s
  else
    match team with
    | some u =>
      let t := s.team u
      if t.kid == kid && s.teams.has u && t.image.isNone && !t.slots.isEmpty && decide (va < t.scratchLen) then
        { s with sram := Tbl.set 0 s.sram (sramKey t.core (t.scratchAt + va)) b }
      else s
    | none =>
      if va / 2 ^ 56 ≠ 0 then s
      else
        match s.headLeaf (s.kern kid).ctx va .write with
        | some (l, e) => s.putKeyed (s.keyNo (pteKey e)) (paOf l e va) b
        | none => s

/-- A racing kernel may take any of its own faults (R244). -/
def State.raceAbort (s : State) (kid cause : Nat) : State :=
  if s.racing kid then abortKernel s kid { status := 3, cause := cause % 256 } else s

end Sys2Proof.Machine
end

