-- ==== Sys2Proof/Machine/Place.lean ====
section
/-! DEFINITION. Placement (R338 to R346): where teams fit, which place a set takes, starting a team; and which teams an
eviction for a deadline or for parked resources takes (R371, R380). -/

namespace Sys2Proof.Machine

open Sys2Proof

/-! ## Room on a core (R97, R343) -/

def State.slotsFree (s : State) (core q : Nat) : List Nat :=
  ((List.range 256).map (256 * q + ·)).filter fun x => (s.group? core x).isNone

/-- Registers reserved in a quarter by the groups there. -/
def State.regsHeld (s : State) (core q : Nat) : Nat :=
  ((s.groupsOn core).map fun e => if e.1 / 256 = q then (s.kern (s.team e.2.team).kid).rec_.regs else 0).sum

/-- Teams that hold resources of a core, those kept for their cluster included (R264). -/
def State.teamsOn (s : State) (core : Nat) : List (Nat × Team) :=
  s.teams.filter fun e => e.2.core == core && e.2.image.isNone

/-- The lowest multiple of 32 from which `n` units are free between the held ranges. -/
def gapFor (held : List (Nat × Nat)) (n : Nat) : Nat :=
  let ends := 0 :: held.map fun r => (r.1 + r.2 + 31) / 32 * 32
  let ok := ends.filter fun b => held.all fun r => b + n ≤ r.1 || r.1 + r.2 ≤ b
  ok.foldl min (ends.foldl max 0)

/-- Teams with these group indices fit on one core together. -/
def State.fitsOn (s : State) (k : Kernel) (core : Nat) (need : List (List Nat)) : Bool :=
  let c := s.coreSt core
  let on := s.teamsOn core
  c.st == .service &&
  ((List.range 4).all fun q =>
    let n := (need.map fun l => (l.filter fun g => g % 4 == q).length).sum
    n == 0 || (decide (n ≤ (s.slotsFree core q).length) &&
      decide (s.regsHeld core q + n * k.rec_.regs ≤ 8192 - c.removed.getD q 0))) &&
  decide ((on.map fun e => roundUp e.2.scratchLen 32).sum + need.length * roundUp k.rec_.scratch 32 ≤ c.scratch * 2 ^ 20) &&
  decide ((on.map fun e => e.2.tiles).sum + need.length * k.rec_.acc ≤ 128)

/-- An assignment of teams to cores fits. -/
def State.fitsAll (s : State) (k : Kernel) (asg : List (Nat × List Nat)) : Bool :=
  (nubN (asg.map Prod.fst)).all fun c => s.fitsOn k c ((asg.filter fun x => x.1 == c).map Prod.snd)

/-! ## Stacks that may take a kernel (R26, R27, R341, R385, R386, R405, R413, R447) -/

def State.stackOk (s : State) (k : Kernel) (x : Nat) : Bool :=
  let st := s.stackSt x
  let d := s.dieSt (dieOfStack x)
  st.pool == st.cls && !st.retired && !st.heldOut && d.latched == (s.ctx k.ctx).world && !d.changing &&
    decide ((s.part (s.partOfCtx k.ctx)).railVote ≤ d.rail)

/-- Tiers in service (R342). -/
def State.tiersIn (s : State) (x : Nat) : List Nat := (List.range 4).filter fun t => (s.coreSt (coreOf x t)).st == .service

/-- Free group slots of a stack's tiers in service (R342). -/
def State.freeSlots (s : State) (x : Nat) : Nat :=
  ((s.tiersIn x).map fun t => ((List.range 4).map fun q => (s.slotsFree (coreOf x t) q).length).sum).sum

/-- Insert a number by its reading, behind those of the same reading (R344). -/
def insTier (f : Nat → Int) (t : Nat) : List Nat → List Nat
  | [] => [t]
  | u :: r => if f t < f u then t :: u :: r else u :: insTier f t r

/-- Tiers in service by their STK_IMBAL reading. -/
def State.tiersByLoad (s : State) (x : Nat) : List Nat :=
  (s.tiersIn x).foldl (fun acc t => insTier (fun u => (s.stackSt x).imbal.getD u 0) t acc) []

/-! ## Places: one stack, or the stacks of a cluster's rectangle (R342, R345, R346) -/

/-- What is to be placed. -/
inductive SetKind where
  | plain | cluster | restore
deriving DecidableEq, Repr

/-- Stacks of the 2 × 2, 2 × 4, 4 × 2, 2 × 6 and 6 × 2 rectangles of `n` stacks of a die (R345). -/
def rects (n d : Nat) : List (List Nat) :=
  (List.range 16).flatMap fun i =>
    let at_ (j : Nat) : Nat := 16 * d + j
    (if i % 4 + n ≤ 4 then [(List.range n).map fun m => at_ (i + m)] else []) ++
    (if n > 1 && i / 4 + n ≤ 4 then [(List.range n).map fun m => at_ (i + 4 * m)] else [])

/-- The cores that the teams of a set take on a place, if it is eligible. -/
def State.assign (s : State) (k : Kernel) (kind : SetKind) (need : List (List Nat)) (place : List Nat) : Option (List Nat) :=
  let x := place.getD 0 0
  let n := need.length
  match kind with
  | .plain =>
    let tiers := if n = (s.tiersIn x).length then s.tiersIn x else (s.tiersByLoad x).take n
    let cores := tiers.map (coreOf x)
    if n ≤ cores.length && n ≠ 0 && s.fitsAll k (cores.zip need) then some cores else none
  | .restore =>
    ((s.tiersByLoad x).find? fun t => s.fitsOn k (coreOf x t) need).map fun t => [coreOf x t]
  | .cluster =>
    let cores := (List.range n).map fun r => coreOf (place.getD (r / 4 % place.length) 0) (r % 4)
    if (place.all fun x => (s.tiersIn x).length == 4) && s.fitsAll k (cores.zip need) then some cores else none

/-- The eligible places of a kernel's set with the cores it takes. For a kernel of class any, those of the class with the
most stacks with room, the lower class on a tie (R341, R346); DESIGN CHOICE: for a cluster, those that lie in an eligible
rectangle (log 18). A plain set takes as many teams as the stack has tiers in service, or all of them where `exact`. -/
def State.places (s : State) (k : Kernel) (kind : SetKind) (exact : Bool) (need : List (List Nat)) : List (List Nat × List Nat) :=
  let pool := s.poolOf k
  let cand := match kind with
    | .cluster => (List.range 4).flatMap (rects k.rec_.cluster)
    | _ => pool.map fun x => [x]
  let good := cand.filter fun p =>
    p.all fun x => pool.contains x && s.stackOk k x && (s.stackSt x).pool == (s.stackSt (p.getD 0 0)).pool
  let hits := good.filterMap fun p =>
    let n := if kind == .plain && !exact then need.take (s.tiersIn (p.getD 0 0)).length else need
    (s.assign k kind n p).map fun c => (p, c)
  if k.rec_.class_ != 0xFF then hits
  else
    let cnt (c : Nat) : Nat := (nubN ((hits.filter fun h => (s.stackSt (h.1.getD 0 0)).pool == c).flatMap Prod.fst)).length
    let best := (List.range 4).foldl (fun b c => if cnt c > cnt b then c else b) 0
    hits.filter fun h => (s.stackSt (h.1.getD 0 0)).pool == best

/-- Among the places of a die: the most free group slots, the lowest first stack on a tie (R342, R346). -/
def State.bestPlace (s : State) (d : Nat) (ps : List (List Nat × List Nat)) : Option (List Nat × List Nat) :=
  let room (p : List Nat × List Nat) : Nat := (p.1.map s.freeSlots).sum
  (ps.filter fun p => dieOfStack (p.1.getD 0 0) == d).foldl (fun b p =>
    match b with
    | none => some p
    | some q => if room p > room q || (room p == room q && p.1.getD 0 0 < q.1.getD 0 0) then some p else some q) none

/-- No set waits at a die Harness (R367). -/
def State.dieFree (s : State) (d : Nat) : Bool := !(s.sets.any fun x => x.die == d)

/-- The die that follows the last set's among the dies with an eligible place (R342), and with no set waiting (R367). -/
def State.nextDie (s : State) (ps : List (List Nat × List Nat)) : Option Nat :=
  ([1, 2, 3, 4].map fun i => (s.lastDie + i) % 4).find? fun d =>
    s.dieFree d && ps.any fun p => dieOfStack (p.1.getD 0 0) == d

/-! ## Starting a team (R338, R339, R50, R90) -/

/-- A slot for a group of a quarter: any free one (log 4). -/
def State.pickSlot (s : State) (core q : Nat) : Nat × State :=
  let free := s.slotsFree core q
  let (n, s) := s.draw free.length
  (free.getD n (256 * q), s)

def srSeedFor (seed grid : Nat) : W32 :=
  let x := (BitVec.ofNat 32 seed) ^^^ (BitVec.ofNat 32 (grid * 0x9E3779B9))
  if x = 0 then 1 else x

/-- Start the groups of a team on its core, in increasing index. DESIGN CHOICE: a SPAWN record's code pointer is fetched at its low
57 bits (log 18). -/
def State.startGroups (s : State) (uid code : Nat) (k : Kernel) : List Nat → State
  | [] => s
  | g :: r =>
    let t := s.team uid
    let (slot, s) := s.pickSlot t.core (g % 4)
    let (tag, s) := s.newTag t.core slot
    let grp : Group :=
      { team := uid, idx := g, tag := tag, srseed := srSeedFor k.rec_.srSeed (t.idx * k.rec_.team + g),
        slot0 := { pc := code, mask := 0xFFFFFFFF, entered := true } }
    ((s.setGroup t.core slot grp).setTeam uid { t with slots := t.slots ++ [slot] }).startGroups uid code k r

/-- The header of a team's scratchpad (R339). -/
def headerBytes (t : Team) (k : Kernel) : List Byte :=
  leBytes 8 t.frame ++ leBytes 8 k.rec_.params ++ leBytes 8 t.join ++ leBytes 4 k.rec_.gridTeams ++
    leBytes 2 (if t.cluster.isSome then t.rank else 0xFFFF) ++ leBytes 2 k.rec_.clusterTeams ++ leBytes 32 0

/-- Bases of a new allocation on a core: scratchpad and tiles. -/
def State.bases (s : State) (core scratch tiles : Nat) : Nat × Nat :=
  let on := s.teamsOn core
  (gapFor (on.map fun e => (e.2.scratchAt, e.2.scratchLen)) scratch,
   gapFor (on.map fun e => (e.2.tileAt, e.2.tiles)) tiles)

/-- Zero a team's tiles (R92). -/
def State.zeroTiles (s : State) (core at_ n : Nat) : State :=
  { s with
    tile := s.tile.filter fun e => e.1 < tileKey core at_ 0 || tileKey core (at_ + n) 0 ≤ e.1
    tilePoison := s.tilePoison.filter fun x => x < 2 ^ 16 * core + at_ || 2 ^ 16 * core + at_ + n ≤ x }

/-- Start a team from its record on a core (R338, R339): what the record's writer and the runtime released is visible to
it (R249). -/
def State.startTeam (s : State) (kid : Nat) (band prov core : Nat) (r : Rec) : State :=
  let k := s.kern kid
  let (uid, s) := s.fresh
  let b := s.bases core k.rec_.scratch k.rec_.acc
  let clus := k.rec_.cluster != 0 && !r.spawned
  let t : Team :=
    { kid := kid, ctx := k.ctx, idx := r.idx, core := core, frame := r.frame, join := r.join, spawned := r.spawned,
      cluster := if clus then some (r.idx / k.rec_.clusterTeams) else none
      rank := if clus then r.idx % k.rec_.clusterTeams else 0
      live := List.range k.rec_.team, scratchAt := b.1, scratchLen := k.rec_.scratch, tileAt := b.2, tiles := k.rec_.acc,
      prov := prov, band := band, placedAt := uid }
  let s := s.zeroTiles core b.2 k.rec_.acc
  let s := { s with
    sram := writeBytes s.sram (sramKey core b.1) (headerBytes t k)
    sramPoison := s.sramPoison.filter fun w => w < sramKey core b.1 / 8 || sramKey core b.1 / 8 + 8 ≤ w }
  let s := ((s.setTeam uid t).startGroups uid r.code k (List.range k.rec_.team)).acquire core k.ctx (if r.spawned then 3 else 5)
  s.settleCtx k.ctx .placed

/-! ## The next set of a queue (R363, R366, R368) -/

/-- What a queue would hand out next: records of a kernel, or evicted teams to restore. -/
structure Plan where
  kid : Nat
  recs : List Rec
  restore : List Nat
deriving DecidableEq, Repr

/-- Kernels of a queue short of COMPLETING, in order of launch. -/
def State.kernelsOf (s : State) (q : Nat) : List (Nat × Kernel) := s.kernels.filter fun e => e.2.queue == q && e.2.st.abortable

/-- The records of a kernel's pool that are in no set: a record leaves the pool when it is placed (R319). -/
def State.poolLeft (s : State) (kid : Nat) (k : Kernel) : List Rec :=
  let held := (s.sets.filter fun x => x.kid == kid).flatMap fun x => x.recs
  k.pool.filter fun r => !held.contains r

/-- The record of grid team `t` (R338, R339, R342). -/
def gridRec (k : Kernel) (t : Nat) : Rec :=
  { idx := t, code := k.rec_.entry, frame := (k.rec_.frameBase + t * k.rec_.frameStride) % 2 ^ 64, join := 0, spawned := false }

def State.nextPlan (s : State) (q : Nat) : Option Plan :=
  let ks := s.kernelsOf q
  let waiting := s.sets.flatMap fun x => x.restore
  let away := s.teams.filter fun e =>
    e.2.image.isSome && !waiting.contains e.1 && (s.kern e.2.kid).queue == q && (s.kern e.2.kid).st.abortable
  match away with
  | (u, t) :: _ => some { kid := t.kid, recs := [], restore := (s.clusterOf u).map Prod.fst }
  | [] =>
    match List.find? (fun e => !(s.poolLeft e.1 e.2).isEmpty) ks with
    | some (kid, k) => some { kid := kid, recs := (s.poolLeft kid k).take 4, restore := [] }
    | none =>
      match List.find? (fun e => decide (e.2.nextTeam < e.2.rec_.gridTeams)) ks with
      | some (kid, k) =>
        let n := if k.rec_.cluster = 0 then min 4 (k.rec_.gridTeams - k.nextTeam) else k.rec_.clusterTeams
        some { kid := kid, recs := (List.range n).map fun i => gridRec k (k.nextTeam + i), restore := [] }
      | none => none

def State.planKind (s : State) (p : Plan) : SetKind :=
  if !p.restore.isEmpty then (if p.restore.length > 1 || (s.team (p.restore.getD 0 0)).cluster.isSome then .cluster else .restore)
  else if (s.kern p.kid).rec_.cluster ≠ 0 && !(p.recs.any fun r => r.spawned) then .cluster else .plain

/-- Group indices of each team of a plan: those an image holds, or the launch record's (R343). -/
def State.planNeed (s : State) (p : Plan) : List (List Nat) :=
  if p.restore.isEmpty then p.recs.map fun _ => List.range (s.kern p.kid).rec_.team
  else p.restore.map fun u => match (s.team u).image with | some im => im.groups.map Prod.fst | none => []

def State.planPlaces (s : State) (p : Plan) : List (List Nat × List Nat) :=
  s.places (s.kern p.kid) (s.planKind p) false (s.planNeed p)

/-- Cause 6: the context is parked on energy, or evicted and not to be restored now (R366, R375). -/
def State.energyHeld (s : State) (c : Nat) : Bool :=
  let x := s.ctx c
  match x.st with
  | .parked => true
  | .evicted => x.held || !(x.unmetered || decide (x.level ≥ (x.resume * 2 ^ 30 : Nat)))
  | _ => x.held

/-- The causes of R366 that hold back a plan's records: 4, 5 and 6, in that order. -/
def State.planCauses (s : State) (p : Plan) : List Nat :=
  let k := s.kern p.kid
  (if (s.poolOf k).isEmpty then [4] else []) ++
  (if (s.planPlaces p).isEmpty && !(s.poolOf k).isEmpty then [5] else []) ++
  (if s.energyHeld k.ctx then [6] else [])

/-! ## Room for images (R381, R382) -/

/-- Length of a team's image: `logs`, `mats` and `copies` are the entries it would hold. -/
def State.imageLen (s : State) (uid logs mats copies : Nat) : Nat :=
  let t := s.team uid
  let gs := s.groups.filter fun e => e.2.team == uid
  64 + 256 + (gs.map fun e => 2048 + 128 * e.2.v.length).sum + 1024 * logs + 128 * mats + 256 * copies + t.scratchLen +
    16384 * t.tiles

/-- The first range of a context's save area, in 4 KiB units, that holds `n` bytes beside the ranges `taken`. -/
def State.saveRange (s : State) (c n : Nat) (taken : List (Nat × Nat)) : Option Nat :=
  let x := s.ctx c
  let held := taken ++ s.teams.filterMap fun e =>
    match e.2.image with
    | some im => if e.2.ctx == c then some (im.addr, roundUp im.len 4096) else none
    | none => none
  let size := roundUp n 4096
  ((List.range x.saveSize).map fun i => x.saveBase * 4096 + 4096 * i).find? fun a =>
    a + size ≤ (x.saveBase + x.saveSize) * 4096 && held.all fun r => a + size ≤ r.1 || r.1 + r.2 ≤ a

/-- The image lengths of several teams, with nothing in flight. -/
def State.canSave (s : State) (uids : List Nat) : Bool :=
  (uids.foldl (fun acc u =>
    match acc with
    | some taken =>
      let n := s.imageLen u 0 0 0
      (s.saveRange (s.team u).ctx n taken).map fun a => (a, roundUp n 4096) :: taken
    | none => none) (some [])).isSome

/-! ## Teams to evict for a set (R371, R380) -/

/-- The state as it would stand without some teams. -/
def State.without (s : State) (us : List Nat) : State :=
  { s with groups := s.groups.filter fun e => !us.contains e.2.team, teams := s.teams.filter fun e => !us.contains e.1 }

/-- A team with the teams of its cluster (R264). -/
def State.withCluster (s : State) (us : List Nat) : List Nat := nubN (us.flatMap fun u => (s.clusterOf u).map Prod.fst)

/-- Whether a place could take the set without some teams. -/
def State.placeFits (s : State) (p : Plan) (place us : List Nat) : Bool :=
  let t := s.without us
  let need := if s.planKind p == .plain then (s.planNeed p).take (t.tiersIn (place.getD 0 0)).length else s.planNeed p
  (t.assign (s.kern p.kid) (s.planKind p) need place).isSome

/-- Teams are taken in order until the place fits; those not needed are then spared, the last in order first. -/
def State.victims (s : State) (p : Plan) (place order : List Nat) : Option (List Nat) :=
  match (List.range (order.length + 1)).find? fun n => s.placeFits p place (s.withCluster (order.take n)) with
  | none => none
  | some n =>
    let all := s.withCluster (order.take n)
    some ((order.take n).foldr (fun u keep =>
      let less := keep.filter fun v => !(s.withCluster [u]).contains v
      if s.placeFits p place less then less else keep) all)

/-- The stack, and the fewest teams on it, whose eviction makes a set eligible: teams that `f` offers, of band 2 before
band 1 before band 0, the most recently placed first; the lower stack on a tie. -/
def State.evictionFor (s : State) (p : Plan) (f : Nat → Team → Bool) : Option (Nat × List Nat) :=
  let k := s.kern p.kid
  let pool := (s.poolOf k).filter fun x => s.stackOk k x
  let cand : List (List Nat) := match s.planKind p with
    | .cluster => ((List.range 4).flatMap (rects k.rec_.cluster)).filter fun r => r.all fun x => pool.contains x
    | _ => pool.map fun x => [x]
  let offered := s.teams.filter fun e =>
    !e.2.retired && e.2.image.isNone && !e.2.live.isEmpty && f e.1 e.2 && s.canSave ((s.clusterOf e.1).map Prod.fst) &&
      (s.coreSt e.2.core).st != .drain
  let found := cand.filterMap fun pl =>
    let on := offered.filter fun e => pl.contains (stackOfCore e.2.core)
    let order := [2, 1, 0].flatMap fun b => ((on.filter fun e => e.2.band == b).map Prod.fst).foldl
      (fun acc u => insTier (fun v => -((s.team v).placedAt : Int)) u acc) []
    (s.victims p pl order).map fun v => (pl.getD 0 0, v)
  found.foldl (fun b x =>
    match b with
    | none => some x
    | some y => if x.2.length < y.2.length || (x.2.length == y.2.length && x.1 < y.1) then some x else some y) none

/-- Order the eviction of teams: their groups issue nothing more (R381). -/
def State.orderEviction (s : State) : List Nat → State
  | [] => s
  | u :: r => (if s.teams.has u then s.setTeam u { s.team u with evict := true } else s).orderEviction r

end Sys2Proof.Machine
end

