-- ==== Sys2Proof/Machine/Queue.lean ====
section
/-! DEFINITION. Queues and kernels: commands (R355 to R362), launch records (R335, R336), the states of kernels and how
they end (R347 to R354), selection by band and deficit (R363 to R371). -/

namespace Sys2Proof.Machine

open Sys2Proof

/-! ## Windows (R442, R453, R458) -/

/-- Bring-up is over: the windows answer (R458). -/
def State.ready (s : State) : Bool := s.rndPhase == 4

/-- A function's window answers to writes: the physical function, or an active virtual one (R442, R443). -/
def State.fnLive (s : State) (f : Nat) : Bool := f == 0 || (s.vf f).st == .active

/-- A function reaches a queue through its window: one that its partition owns (R355, R439), in its range (R442). -/
def State.reachQ (s : State) (f q : Nat) : Bool :=
  q < 1024 && (s.part (s.partOfFn f)).ownsQueue q &&
    (f == 0 || decide ((s.vf f).qbase ≤ q) && decide (q < (s.vf f).qbase + (s.vf f).qcount))

/-- A function reaches a context: one created through its own window; the physical function reaches a free one too. -/
def State.reachC (s : State) (f c : Nat) : Bool := c < 4096 && ((s.ctx c).fn == f || (s.ctx c).st == .free)

/-- A write through a function's window is refused and counted (R449). -/
def State.refuseWrite (s : State) (f : Nat) : State := s.countErr (s.partOfFn f) 0

/-- The partition whose copy counts a queue's events. -/
def State.partOfQ (s : State) (q : Nat) : Nat := (s.ownerOf 11 q).getD 64

/-! ## What a queue holds (R355, R360, R363, R366) -/

def Queue.entries (x : Queue) : Nat := if 4 ≤ x.log2 ∧ x.log2 ≤ 16 then 2 ^ x.log2 else 0

def Queue.waiting (x : Queue) : Bool := x.running.any fun r => match r with | .wait .. => true | _ => false

/-- The function that reaches the queue is suspending or suspended: no further command starts (R443). -/
def State.qSuspended (s : State) (q : Nat) : Bool :=
  s.vfs.any fun e => (e.2.st == .suspending || e.2.st == .suspended) && e.2.qbase ≤ q && q < e.2.qbase + e.2.qcount

/-- The head command may start, its `after` flag aside. -/
def State.mayStart (s : State) (q : Nat) : Bool :=
  let x := s.queue q
  x.enable && x.entries != 0 && x.cons != x.prod && x.head.isNone && !x.waiting && x.fault == 0 && !s.qSuspended q

def State.canStart (s : State) (c : Cmd) : Bool := s.mayStart c.q && (!c.after || (s.queue c.q).running.isEmpty)

/-- The causes in force (R366). -/
def State.causes (s : State) (q : Nat) : List Nat :=
  let x := s.queue q
  (if x.fault = 1 then [1] else []) ++ (if x.pend && !x.running.isEmpty then [2] else []) ++
  (if x.waiting then [3] else []) ++
  (match s.nextPlan q with | some p => s.planCauses p | none => []) ++ (if x.fault = 7 then [7] else [])

/-- A kernel of the queue has a record to place, or a team to restore (R363). -/
def State.hasRecords (s : State) (q : Nat) : Bool := (s.nextPlan q).isSome

/-- Neither work nor command is left (R363). -/
def State.qEmpty (s : State) (q : Nat) : Bool :=
  let x := s.queue q
  x.cons == x.prod && x.head.isNone && !x.waiting && !s.hasRecords q

/-- The queue enters or leaves IDLE as its work stands; only from READY or BLOCKED does its deficit fall to zero (R363). -/
def State.settleQueue (s : State) (q : Nat) : State :=
  let x := s.queue q
  if !x.enable then if x.idle then s else s.setQueue q { x with idle := true }
  else if s.qEmpty q then
    if x.idle then s else s.setQueue q { x with idle := true, deficit := min x.deficit 0 }
  else s.leaveIdle q

/-- The state that Q_STATUS shows (R355, R363). -/
def State.qState (s : State) (q : Nat) : Nat :=
  let x := s.queue q
  if !x.enable then 0
  else if s.qEmpty q then 1
  else
    let records := match s.nextPlan q with | some p => (s.planCauses p).isEmpty | none => false
    let command := s.mayStart q && !(x.pend && !x.running.isEmpty)
    if records || command then 2 else 3

/-- Quiet: IDLE or DISABLED, and every kernel started has reached DONE (R355). -/
def State.qQuiet (s : State) (q : Nat) : Bool :=
  s.qState q ≤ 1 && s.kernels.all fun e => e.2.queue != q || e.2.st == .done

/-- Some kernel's slack, and whether the queue is urgent: never with threshold 0 (R355, R369). -/
def State.slackOf (s : State) (q : Nat) : Option Int :=
  ((s.kernelsOf q).filter fun e => e.2.rec_.deadline != 0).foldl (fun b e =>
    let x : Int := (e.2.rec_.deadline : Int) - ((s.headClock : Int) - e.2.accepted)
    match b with | none => some x | some y => some (min x y)) none

def State.slackLow (s : State) (q : Nat) : Bool :=
  match s.slackOf q with
  | some x => (s.queue q).band == 0 && (s.queue q).thresh != 0 && decide (x < ((s.queue q).thresh : Int))
  | none => false

def State.urgentNow (s : State) (q : Nat) : Bool := (s.queue q).urgent && s.slackLow q

/-! ## Head reads and writes -/

/-- The Harness head's acquire at .sys: host lines held in L2 are not older than it (R233, R356). -/
def State.headAcquire (s : State) : State := s.dropHost

/-- Read bytes of a context's space with that acquire; an address of the domain window or above faults. -/
def State.headGet (s : State) (c va n : Nat) : Option (List Byte) × State :=
  if va / 2 ^ 56 ≠ 0 then (none, s) else s.headAcquire.headRead c va n

/-- Write bytes, or skip and count event 11 (R353). -/
def State.headPut (s : State) (c va align : Nat) (bs : List Byte) : State :=
  if va / 2 ^ 56 ≠ 0 ∨ va % align ≠ 0 then s.countErrCtx c 11
  else match s.headWrite c va bs with | some s => s | none => s.countErrCtx c 11

/-- Take the head command (R360). -/
def State.take (s : State) (q : Nat) : State :=
  let x := s.queue q
  s.setQueue q { x with cons := (x.cons + 1) % 2 ^ 32, pend := false }

/-- Write a command's done word (R359). -/
def State.cmdDone (s : State) (q done v : Nat) : State := s.headPut (s.queue q).ctx done 8 (leBytes 8 v)

/-- What the head finds at the head of a queue: nothing to start, a ring it cannot read (cause 1), a command held back by its
after flag (cause 2), an unknown op, or a command (R356, R360, R366). -/
inductive HeadFind where
  | nothing | fault | after | unknown (done : Nat) | command (i : Instr)
deriving DecidableEq, Repr

/-- Read the head command of a queue. -/
def State.findCommand (s : State) (q : Nat) : HeadFind × State :=
  let x := s.queue q
  if !s.mayStart q then (.nothing, s)
  else
    match s.headGet x.ctx (x.base + 64 * (x.cons % x.entries)) 64 with
    | (none, s) => (.fault, s)
    | (some bs, s) =>
      if (field bs 1 1).testBit 0 && !x.running.isEmpty then (.after, s)
      else match decodeCommand q bs with
        | some i => (.command i, s)
        | none => (.unknown (field bs 8 8), s)

/-- The command could not read what it names: not taken, cause 7 (R359, R366). -/
def State.recordFault (s : State) (q : Nat) : State := s.setQueue q { s.queue q with fault := 7 }

/-- A malformed command's end: status 2. -/
def State.malformedCmd (s : State) (c : Cmd) : State := ((s.take c.q).cmdDone c.q c.done 2).settleQueue c.q

/-- A privileged command may not act here (R359, R361). -/
def State.notAllowed (s : State) (c : Cmd) : Bool :=
  !(s.queue c.q).priv || decide (c.ctx ≥ 4096) || s.partOfCtx c.ctx != s.partOfQ c.q

/-! ## The end of a kernel (R349, R351 to R354) -/

/-- A kernel reaches DONE: its launch command is complete, and taken if it was not; aborts that name it are complete. -/
def State.closeKernel (s : State) (kid : Nat) : State :=
  let k := s.kern kid
  let q := k.queue
  let x := s.queue q
  let s := s.setKern kid { k with st := .done, noted := false }
  let s := s.setQueue q { x with
    head := if x.head = some kid then none else x.head
    cons := if x.head = some kid then (x.cons + 1) % 2 ^ 32 else x.cons
    running := x.running.filter fun r => match r with | .launch i => i != kid | _ => true }
  let s := s.queues.foldl (fun s e =>
    let ends := e.2.running.filterMap fun r => match r with | .abort i d => if i == kid then some d else none | _ => none
    let s := s.setQueue e.1 { s.queue e.1 with
      running := (s.queue e.1).running.filter fun r => match r with | .abort i _ => i != kid | _ => true }
    (ends.foldl (fun s d => s.cmdDone e.1 d 1) s).settleQueue e.1) s
  s.settleQueue q

/-- The join step, then the done word, then DONE (R352, R353). -/
def State.finishKernel (s : State) (kid status cause : Nat) : State :=
  let k := s.kern kid
  let s := if k.rec_.join = 0 then s
    else match s.headJoin kid k.rec_.join false with
      | some s => s
      | none => s.countErrCtx k.ctx 11
  (s.headPut k.ctx k.rec_.done 8 (leBytes 8 (status + 256 * cause))).closeKernel kid

/-- The bytes of an abort report (R353). -/
def reportBytes (a : AbortInfo) (total : Int) : List Byte :=
  leBytes 1 a.status ++ leBytes 1 a.cause ++ leBytes 2 a.core ++ leBytes 2 a.slot ++ leBytes 1 a.pcSlot ++ leBytes 1 0 ++
    leBytes 4 a.lanes.toNat ++ leBytes 4 a.team ++ leBytes 8 a.pc ++ leBytes 8 a.address ++ leBytes 8 a.value ++
    leBytes 8 (wrapN 64 total) ++ leBytes 16 0

/-- Accesses of a kernel not yet performed (R249). -/
def State.unperformed (s : State) (kid : Nat) : Bool := s.acc.any fun e => e.2.kid == kid && e.2.left != 0 && e.2.space != .sfu

/-- KERNEL_COMPLETE (R349, R352): a running kernel with no team, no record and no retirement step left enters COMPLETING;
one in COMPLETING, its accesses performed, performs its join step and writes done. -/
def execKernelComplete (kid : Nat) (s : State) : Host.Outcome State Fault Refusal :=
  match s.kernels.find? kid with
  | none => .next s
  | some k =>
    match k.st with
    | .running =>
      if (s.teamsOf kid).isEmpty && k.pool.isEmpty && k.outside.isEmpty && k.joins.isEmpty then
        .next (s.setKern kid { k with st := .completing })
      else .next s
    | .completing => if s.unperformed kid then .next s else .next (s.finishKernel kid 1 0)
    | _ => .next s

/-- REPLY commands of a queue that `f` picks, by team, group and sequence number, are complete with status `v` (R358). -/
def State.endReplies (s : State) (q : Nat) (f : Nat → Nat → Nat → Bool) (v : Nat) : State :=
  let x := s.queue q
  let ends := x.running.filterMap fun r => match r with | .reply t i n d => if f t i n then some d else none | _ => none
  if ends.isEmpty then s
  else
    let s := s.setQueue q { x with running := x.running.filter fun r => match r with | .reply t i n _ => !f t i n | _ => true }
    (ends.foldl (fun s d => s.cmdDone q d v) s).settleQueue q

/-- Replies held for a killed team answer nothing: ignored, counted, and complete with status 4 (R162, R359). -/
def State.refuseReplies (s : State) (uid : Nat) : State :=
  s.queues.foldl (fun s e =>
    let n := (e.2.running.filter fun r => match r with | .reply t _ _ _ => t == uid | _ => false).length
    let s := (List.range n).foldl (fun s _ => s.countErrCtx e.2.ctx 2) s
    s.endReplies e.1 (fun t _ _ => t == uid) 4) s

/-- Free a killed team: posted, and charged back unless it had retired (R347, R368). -/
def State.freeKilled (s : State) (uid : Nat) : State :=
  let t := s.team uid
  let s := (s.refuseReplies uid).postTeam uid
  let s := if t.retired then s else s.chargeBack t
  let s := { s with teams := s.teams.erase uid }
  (s.returnAllowance t.core t.ctx).settleCtx t.ctx .left

/-- ABORT_CLEANUP (R351): stores already issued have performed and collectives have ended; the teams are freed, then the
report, the join step and the done word. -/
def execAbortCleanup (kid : Nat) (s : State) : Host.Outcome State Fault Refusal :=
  match s.kernels.find? kid with
  | none => .next s
  | some k =>
    if k.st != .aborting || s.unperformed kid || s.colls.any (fun e => e.2.kid == kid) then .next s
    else
      let s := ((s.teamsOf kid).map Prod.fst).foldl (fun s u => s.freeKilled u) s
      match k.abort with
      | none => .next s
      | some a =>
        let s := if k.rec_.report = 0 then s else s.headPut k.ctx k.rec_.report 64 (reportBytes a k.total)
        .next (s.finishKernel kid a.status a.cause)

/-- DEADLINE_EXPIRY (R348). -/
def execDeadlineExpiry (kid : Nat) (s : State) : Host.Outcome State Fault Refusal :=
  let k := s.kern kid
  if s.kernels.has kid && k.rec_.flags.testBit 3 && k.rec_.deadline != 0 && k.st.abortable &&
      decide (s.headClock ≥ k.accepted + k.rec_.deadline) then
    .next (abortKernel s kid { status := 5 })
  else .next s

/-- QUEUE_URGENT (R369): Q_STATUS.urgent shows whether some kernel's slack lies below the threshold. -/
def execQueueUrgent (q : Nat) (s : State) : Host.Outcome State Fault Refusal :=
  .next (s.setQueue q { s.queue q with urgent := s.slackLow q })

/-! ## DOORBELL (R356) -/

/-- DOORBELL: a producer write through a function's window; a record or ring that could not be read is tried again. -/
def execDoorbell (fn q : Nat) (producer : W32) (s : State) : Host.Outcome State Fault Refusal :=
  let x := s.queue q
  if !s.ready then .next s
  else if !s.reachQ fn q || !(s.fnLive fn || (s.vf fn).st == .suspended || (s.vf fn).st == .suspending) then
    .next (s.refuseWrite fn)
  else if x.entries = 0 ∨ (producer.toNat + 2 ^ 32 - x.cons) % 2 ^ 32 > x.entries then .next (s.countErr (s.partOfQ q) 1)
  else .next ((s.setQueue q { x with prod := producer.toNat, fault := 0 }).settleQueue q)

/-! ## LAUNCH (R335, R336) -/

def launchOf (bs : List Byte) : Launch where
  entry := field bs 0 8
  regs := field bs 8 2
  team := field bs 0x0A 1
  cluster := field bs 0x0B 1
  scratch := field bs 0x0C 4
  acc := field bs 0x10 1
  class_ := field bs 0x11 1
  flags := field bs 0x12 1
  paramBytes := field bs 0x14 4
  limit := field bs 0x18 8
  params := field bs 0x20 8
  gridTeams := field bs 0x28 4
  clusterTeams := field bs 0x2C 2
  frameBase := field bs 0x30 8
  frameStride := field bs 0x38 4
  srSeed := field bs 0x3C 4
  done := field bs 0x40 8
  join := field bs 0x48 8
  report := field bs 0x50 8
  notice := field bs 0x58 8
  deadline := field bs 0x60 8

/-- Reserved bytes and bits of a launch record are zero. -/
def launchClean (bs : List Byte) : Bool :=
  field bs 0x13 1 == 0 && field bs 0x2E 2 == 0 && field bs 0x12 1 / 16 == 0 && field bs 0x68 24 == 0

def Launch.limits (l : Launch) : Bool :=
  l.entry < 2 ^ 57 && 1 ≤ l.regs && l.regs ≤ 256 && 1 ≤ l.team && l.team ≤ 64 && l.cluster ≤ 3 &&
  64 ≤ l.scratch && l.scratch ≤ 14 * 2 ^ 20 && l.acc ≤ 32 && (l.class_ ≤ 3 || l.class_ == 0xFF) &&
  (l.params != 0 || l.paramBytes == 0) && 1 ≤ l.gridTeams && l.gridTeams ≤ 2 ^ 31 &&
  (if l.cluster = 0 then l.clusterTeams == 0 else 1 ≤ l.clusterTeams && l.clusterTeams ≤ 255) &&
  decide (l.frameStride ≥ 1024 * l.team) && l.done != 0

def Launch.aligned (l : Launch) : Bool :=
  l.entry % 64 == 0 && l.paramBytes % 16 == 0 && l.params % 16 == 0 && l.frameBase % 1024 == 0 &&
  l.frameStride % 1024 == 0 && l.done % 8 == 0 && l.join % 32 == 0 && l.report % 64 == 0 && l.notice % 8 == 0

/-- No core of the kernel's pool could hold one team, even empty (R336). -/
def State.noFit (s : State) (k : Kernel) : Bool :=
  let pool := s.poolOf k
  let holds (c : Nat) : Bool :=
    let x := s.coreSt c
    x.st != .retired && decide (roundUp k.rec_.scratch 32 ≤ x.scratch * 2 ^ 20) &&
    (List.range 4).all fun q =>
      decide (((List.range k.rec_.team).filter fun g => g % 4 == q).length * k.rec_.regs ≤ 8192 - x.removed.getD q 0)
  !pool.isEmpty && !(pool.flatMap stackCores).any holds

/-- The refusal detail of a record: the lowest that applies (R336). -/
def State.refusal (s : State) (k : Kernel) (clean : Bool) : Nat :=
  let l := k.rec_
  if !clean then 1
  else if !l.limits || (s.ctx k.ctx).st == .faulted then 2
  else if !l.aligned then 3
  else if l.cluster ≠ 0 ∧ l.gridTeams % l.clusterTeams ≠ 0 then 4
  else if s.noFit k then 5
  else 0

/-- Everything but what a refused kernel would have been charged: it is charged nothing (R336). -/
def State.uncharged (s old : State) : State := { s with ctxs := old.ctxs }

/-- LAUNCH: accept a kernel by reading its record, or refuse it. -/
def execLaunch (c : Cmd) (s : State) : Host.Outcome State Fault Refusal :=
  if !s.canStart c then .next s
  else if c.o10 % 64 ≠ 0 ∨ c.o10 / 2 ^ 57 ≠ 0 then
    .next (((s.take c.q).countErr (s.partOfQ c.q) 14).settleQueue c.q)
  else
    let x := s.queue c.q
    match s.headGet x.ctx c.o10 128 with
    | (none, t) => .next (t.recordFault c.q)
    | (some bs, t) =>
      let clean := c.clean && c.ctx == 0 && c.done == 0 && c.o18 == 0 && c.o20 == 0 && c.rest
      let (kid, t) := t.fresh
      let k : Kernel := { ctx := x.ctx, queue := c.q, rec_ := launchOf bs, accepted := s.headClock }
      let detail := t.refusal k (clean && launchClean bs)
      if detail = 0 then
        let t := t.setKern kid k
        .next ((t.setQueue c.q { t.queue c.q with
          head := some kid, running := (t.queue c.q).running ++ [.launch kid], pend := false }).settleQueue c.q)
      else
        let t := (t.setKern kid { k with st := .completing }).setQueue c.q { t.queue c.q with
          head := some kid, running := (t.queue c.q).running ++ [.launch kid], pend := false }
        .next ((t.finishKernel kid 2 detail).uncharged t)

/-! ## REPLY (R160, R162) -/

/-- The group that waits for the reply to a record, by team and index. -/
def State.replyFor (s : State) (c seq : Nat) : Option (Nat × Nat) :=
  let want (g : Group) : Bool := match g.svc with | some w => w.seq == some seq | none => false
  match List.find? (fun e => (s.team e.2.team).ctx == c && want e.2) s.groups with
  | some (_, g) => some (g.team, g.idx)
  | none => s.teams.findSome? fun (u, t) =>
      match t.image with
      | some im => if t.ctx == c then (List.find? (fun e => want e.2) im.groups).map fun e => (u, e.1) else none
      | none => none

/-- The lanes 2i and 2i + 1 of a protected launch take word i (R160). -/
def replyWord (bs : List Byte) (prot : Bool) (l : Nat) : Nat := field bs (8 + 4 * (if prot then l / 2 else l)) 4

/-- Deliver a reply block to the group that waits (R160): the words are written, or the kernel is aborted. -/
def State.deliver (s : State) (core slot : Nat) (bs : List Byte) : State :=
  match s.group? core slot with
  | none => s
  | some g =>
    match g.svc with
    | none => s
    | some w =>
      let t := s.team g.team
      let x := if g.slot0.held == .reply then 0 else 1
      if field bs 0 8 ≠ 0 then
        abortKernel s t.kid { status := 8, core := core, slot := slot, pcSlot := x,
                               team := t.idx, pc := w.pc, value := field bs 0 4 }
      else
        let p : Payer := { ctx := t.ctx, core := some core, team := some g.team }
        let prot := (s.kern t.kid).rec_.flags.testBit 0
        let m := w.lanes &&& g.liveLanes
        let s := if w.trap || m = 0 then s
          else (s.charge p (s.wt p 4)).writeName core slot x w.pc w.dst m fun l =>
            BitVec.ofNat 32 (replyWord bs prot l)
        (s.modGroup core slot fun g => { g.release (· == .reply) with svc := none }).acquire core t.ctx 5

/-- REPLY: one for an evicted team's group is held, and complete once it is delivered (R162, R358). -/
def execReply (c : Cmd) (s : State) : Host.Outcome State Fault Refusal :=
  let ctx := (s.queue c.q).ctx
  if !s.canStart c then .next s
  else if !(c.clean && c.rest && c.o20 == 0 && c.done % 8 == 0 && c.o10 / 2 ^ 32 == 0 && c.o18 % 8 == 0) ||
      c.o18 / 2 ^ 57 ≠ 0 then .next (s.malformedCmd c)
  else if c.ctx ≠ 0 ∧ c.ctx ≠ ctx then .next (((s.take c.q).cmdDone c.q c.done 3).settleQueue c.q)
  else
    match s.replyFor ctx c.o10 with
    | none => .next ((((s.take c.q).countErrCtx ctx 2).cmdDone c.q c.done 4).settleQueue c.q)
    | some (uid, gidx) =>
      if s.replies.any fun r => r.team == uid && r.idx == gidx && r.seq == c.o10 then
        .next ((((s.take c.q).countErrCtx ctx 2).cmdDone c.q c.done 4).settleQueue c.q)
      else
        match s.headGet ctx c.o18 136 with
        | (none, s) => .next (s.recordFault c.q)
        | (some bs, s) =>
          let s := s.take c.q
          match s.findMember uid gidx with
          | some (core, slot) => .next (((s.deliver core slot bs).cmdDone c.q c.done 1).settleQueue c.q)
          | none =>
            let r : HeldReply := { q := c.q, team := uid, idx := gidx, seq := c.o10, bytes := bs }
            let x := s.queue c.q
            .next (({ s with replies := s.replies ++ [r] } : State).setQueue c.q { x with
              running := x.running ++ [.reply uid gidx c.o10 c.done] })

/-! ## WAIT and SIGNAL (R358) -/

def condHolds (cond value x : Nat) : Bool := if cond = 0 then x ≥ value else x == value

/-- Read the word of the queue's WAIT; when the condition holds the command is complete. -/
def State.pollWait (s : State) (q : Nat) : State :=
  match (s.queue q).running.findSome? fun r => match r with | .wait a v c d p => some (a, v, c, d, p) | _ => none with
  | none => s
  | some (a, v, c, d, _) =>
    let notWait (r : Running) : Bool := match r with | .wait .. => false | _ => true
    let (bs, s) := s.headGet (s.queue q).ctx a 8
    let x := s.queue q
    let ok := match bs with | some b => condHolds c v (leNat b) | none => false
    if ok then ((s.setQueue q { x with running := x.running.filter notWait }).cmdDone q d 1).settleQueue q
    else s.setQueue q { x with running := x.running.filter notWait ++ [.wait a v c d s.headClock] }

/-- WAIT: later commands are held until the word meets the condition; its first read comes at once. -/
def execWait (c : Cmd) (s : State) : Host.Outcome State Fault Refusal :=
  if !s.canStart c then .next s
  else if !(c.clean && c.ctx == 0 && c.done % 8 == 0 && c.o10 % 8 == 0 && c.o20 ≤ 1 && c.rest) || c.o10 / 2 ^ 57 ≠ 0 then
    .next (s.malformedCmd c)
  else
    let s := s.take c.q
    let x := s.queue c.q
    .next ((s.setQueue c.q { x with running := x.running ++ [.wait c.o10 c.o18 c.o20 c.done s.headClock] }).pollWait c.q)

/-- WAIT_POLL: 256 Harness head clocks after the last read. -/
def execWaitPoll (q : Nat) (s : State) : Host.Outcome State Fault Refusal :=
  let due := (s.queue q).running.any fun r => match r with | .wait _ _ _ _ p => decide (s.headClock ≥ p + 256) | _ => false
  .next (if due then s.pollWait q else s)

/-- SIGNAL. -/
def execSignal (c : Cmd) (s : State) : Host.Outcome State Fault Refusal :=
  if !s.canStart c then .next s
  else if !(c.clean && c.ctx == 0 && c.done % 8 == 0 && c.o10 % 8 == 0 && c.o20 == 0 && c.rest) || c.o10 / 2 ^ 57 ≠ 0 then
    .next (s.malformedCmd c)
  else
    let s := (s.take c.q).headPut (s.queue c.q).ctx c.o10 8 (leBytes 8 c.o18)
    .next ((s.cmdDone c.q c.done 1).settleQueue c.q)

/-! ## RESOLVE and ABORT (R217, R362) -/

def hits (f : Option PageFault) (lo n : Nat) : Bool :=
  match f with
  | some x => decide (lo ≤ x.va) && decide (x.va < lo + 4096 * n)
  | none => false

/-- Re-issue the waiting accesses of a context whose lowest faulting address lies in the range (R80, R81): a fetch is
fetched again, the others translate afresh. -/
def State.resolveRange (s : State) (c lo n : Nat) : State :=
  let fetches := s.acc.filter fun e => e.2.ctx == c && e.2.op == .fetch && hits e.2.fault lo n
  let s := fetches.foldl (fun s e => s.modGroup e.2.core e.2.slot fun g => g.release (· == .fetch e.1)) s
  { s with
    acc := s.acc.filterMap fun e =>
      if e.2.ctx == c && hits e.2.fault lo n then
        (if e.2.op == .fetch then none else some (e.1, { s.sentAgain e.2 with fault := none }))
      else some e
    copies := s.copies.map fun e => if e.2.ctx == c && hits e.2.fault lo n then (e.1, { e.2 with fault := none }) else e
    mats := s.mats.map fun e => if e.2.ctx == c && hits e.2.fault lo n then (e.1, { e.2 with fault := none }) else e
    colls := s.colls.map fun e => if e.2.ctx == c && hits e.2.fault lo n then (e.1, { e.2 with fault := none }) else e }

/-- RESOLVE. -/
def execResolve (c : Cmd) (s : State) : Host.Outcome State Fault Refusal :=
  if !s.canStart c then .next s
  else if !(c.clean && c.done % 8 == 0 && c.o10 % 4096 == 0 && 1 ≤ c.o18 && c.o18 ≤ 2 ^ 45 && c.o20 == 0 && c.rest) ||
      c.ctx ≥ 4096 || c.o10 / 2 ^ 57 ≠ 0 then
    .next (s.malformedCmd c)
  else if s.notAllowed c then .next (((s.take c.q).cmdDone c.q c.done 3).settleQueue c.q)
  else if (s.ctx c.ctx).st == .teardown || (s.ctx c.ctx).st == .dead then
    .next (((s.take c.q).cmdDone c.q c.done 4).settleQueue c.q)
  else .next ((((s.take c.q).resolveRange c.ctx c.o10 c.o18).cmdDone c.q c.done 1).settleQueue c.q)

/-- ABORT: the kernel of the context that the done word names. -/
def execAbort (c : Cmd) (s : State) : Host.Outcome State Fault Refusal :=
  if !s.canStart c then .next s
  else if !(c.clean && c.done % 8 == 0 && c.o10 % 8 == 0 && (c.o18 == 6 || c.o18 == 13) && c.o20 == 0 && c.rest) ||
      c.ctx ≥ 4096 || c.o10 / 2 ^ 57 ≠ 0 then
    .next (s.malformedCmd c)
  else if s.notAllowed c then .next (((s.take c.q).cmdDone c.q c.done 3).settleQueue c.q)
  else
    let s := s.take c.q
    match List.find? (fun e => e.2.ctx == c.ctx && e.2.rec_.done == c.o10 && e.2.st != .done) s.kernels with
    | none => .next (((s.countErr (s.partOfQ c.q) 2).cmdDone c.q c.done 4).settleQueue c.q)
    | some (kid, k) =>
      if k.st == .completing then .next (((abortKernel s kid { status := c.o18 }).cmdDone c.q c.done 4).settleQueue c.q)
      else
        let s := abortKernel s kid { status := c.o18 }
        let x := s.queue c.q
        .next (s.setQueue c.q { x with running := x.running ++ [.abort kid c.done] })

/-! ## INVALIDATE (R218, R219) -/

/-- The descriptor of a privileged command: its bytes, or how it ends without one. `none` in the first place: the command
ended or waits. -/
def State.descriptor (s : State) (c : Cmd) : Option (List Byte) × State :=
  if c.o10 / 2 ^ 57 ≠ 0 || s.notAllowed { c with ctx := if c.ctx < 4096 then c.ctx else 0 } then
    (none, ((s.take c.q).countErr (s.partOfQ c.q) 14).settleQueue c.q)
  else
    match s.headGet (s.queue c.q).ctx c.o10 32 with
    | (none, s) => (none, s.recordFault c.q)
    | (some bs, s) => (some bs, s.take c.q)

/-- Write the completion word of a descriptor at a physical address; elsewhere than at a word of R204 it is counted. -/
def State.physDone (s : State) (q pa v : Nat) : State :=
  if pa % 8 == 0 && (tierOfPa pa).isSome then
    s.putBytes ((List.range 8).map fun i => (pa + i, BitVec.ofNat 8 (v / 2 ^ (8 * i))))
  else s.countErr (s.partOfQ q) 14

/-- The valid leaves that a table of a context maps in a range of addresses: virtual base, level and entry. -/
def State.leaves (s : State) (lo hi : Nat) : Nat → Nat → Nat → List (Nat × Nat × Nat)
  | 0, _, _ => []
  | l + 1, t, base =>
    (List.range 512).flatMap fun i =>
      let va := base + i * pageSize l
      if hi ≤ va || va + pageSize l ≤ lo then []
      else
        let e := leNat ((List.range 16).map fun j => s.memByte (t + 16 * i + j))
        if !pteValid e || s.malformed e l then []
        else if pteLeaf e then [(va, l, e)]
        else s.leaves lo hi l (ptePa e * 4096) va

/-- L2 lines of a range's pages and of the scale records of its leaves (R218). -/
def State.linesOf (s : State) (ls : List (Nat × Nat × Nat)) : List Nat :=
  (s.l2.filter fun x => ls.any fun e =>
    let pa := ptePa e.2.2 * 4096
    let size := pageSize e.2.1
    let recs := 4 * ((if pteFormat e.2.2 == 2 then 2 * size else size) / groupSize e.2.2)
    (pa ≤ x.1 * 128 && x.1 * 128 < pa + size) ||
    (pteFormat e.2.2 != 0 && pteScale e.2.2 < x.1 * 128 + 128 && x.1 * 128 < pteScale e.2.2 + recs)).map Prod.fst

/-- Matrix operations that pin a line that `f` picks, or that have translated a unit that `g` picks for their context and will
use it in their compute phase (R218, R219). -/
def State.pinnersOf (s : State) (f : Nat → Bool) (g : Nat → Nat → Bool) : List Nat :=
  (s.mats.filter fun e => e.2.pins.any f || (e.2.fetched && e.2.pages.any fun u => g e.2.ctx (u.1 * 4096))).map Prod.fst

/-- Start an invalidation: translations and L1 lines of the range are dropped; INVALIDATION_DONE finishes it. -/
def State.startInval (s : State) (q start pages ctx : Nat) (level : Nat) (phys wb : Bool) (doneW : Nat) : State :=
  let lo := if pages = 0 then 0 else start
  let hi := if pages = 0 then 2 ^ 57 else start + 4096 * pages
  let inR (x : Nat) : Bool := lo ≤ x && x < hi
  let ls := if phys then [] else s.leaves lo hi 5 ((s.ctx ctx).root * 8192) 0 ++
    s.tlb.filterMap fun e =>
      if e.ctx == ctx && pteLeaf e.pte && e.vnum * pageSize e.level < hi && lo < (e.vnum + 1) * pageSize e.level then
        some (e.vnum * pageSize e.level, e.level, e.pte) else none
  let lines := if phys then (s.l2.filter fun x => inR (x.1 * 128)).map Prod.fst else if wb then s.linesOf ls else []
  let pins := s.pinnersOf (fun l => if phys then inR (l * 128)
    else ls.any fun e => ptePa e.2.2 * 4096 ≤ l * 128 && l * 128 < ptePa e.2.2 * 4096 + pageSize e.2.1)
    fun c va => !phys && c == ctx && inR va
  let s := if phys then s else { s with
    tlb := s.tlb.filter fun e => !(e.ctx == ctx && (level == 1 || pteLeaf e.pte) &&
      e.vnum * pageSize e.level < hi && lo < (e.vnum + 1) * pageSize e.level)
    l1 := s.l1.filter fun x => !(x.ctx == ctx && inR (x.vline * 128)) }
  let (id, s) := s.fresh
  let v : Inval := { q := q, start := start, pages := pages, ctx := ctx, phys := phys, wb := wb, doneW := doneW,
                     mats := pins, lines := lines }
  let x := s.queue q
  ({ s with invals := s.invals.put id v } : State).setQueue q { x with running := x.running ++ [.inval id] }

/-- INVALIDATE: its descriptor is read; a bad one leaves everything as it is and 2 in its done word. -/
def execInvalidate (c : Cmd) (s : State) : Host.Outcome State Fault Refusal :=
  if !s.canStart c then .next s
  else
    match s.descriptor c with
    | (none, s) => .next s
    | (some bs, s) =>
      let start := field bs 0 8
      let pages := field bs 8 8
      let ctx := field bs 0x10 2
      let fl := field bs 0x13 1
      let phys := fl.testBit 1
      let fits := if phys then pages != 0 && decide (start + 4096 * pages ≤ 2 ^ 52) else decide (start + 4096 * pages ≤ 2 ^ 57)
      let ok := c.clean && c.done == 0 && c.ctx < 4096 && c.o18 == 0 && c.o20 == 0 && c.rest && start % 4096 == 0 && fits &&
        field bs 0x12 1 ≤ 1 && fl / 4 == 0 && field bs 0x14 4 == 0 &&
        (phys || (ctx < 4096 && s.partOfCtx ctx == s.partOfQ c.q))
      if ok then .next (s.startInval c.q start pages ctx (field bs 0x12 1) phys (fl.testBit 0) (field bs 0x18 8))
      else .next ((s.physDone c.q (field bs 0x18 8) 2).settleQueue c.q)

/-- INVALIDATION_DONE: the matrix operations that hold lines or translations of the range have ended; with wb its L2 lines are
written back and dropped; 1 is written into done. -/
def execInvalidationDone (id : Nat) (s : State) : Host.Outcome State Fault Refusal :=
  match s.invals.find? id with
  | none => .next s
  | some v =>
    if v.mats.any fun m => match s.mats.find? m with | some x => x.fetched | none => false then .next s
    else
      let s := if v.wb then s.dropL2s v.lines else s
      let s := { s with invals := s.invals.erase id }
      let x := s.queue v.q
      let s := s.setQueue v.q { x with running := x.running.filter fun r => match r with | .inval i => i != id | _ => true }
      .next ((s.physDone v.q v.doneW 1).settleQueue v.q)

/-! ## MIGRATE (R221) -/

/-- MIGRATE: the engine takes the descriptor; a malformed one leaves 2 in its done word. -/
def execMigrate (c : Cmd) (s : State) : Host.Outcome State Fault Refusal :=
  if !s.canStart c then .next s
  else
    match s.descriptor c with
    | (none, s) => .next s
    | (some bs, s) =>
      let src := field bs 0 8
      let dst := field bs 8 8
      let pages := field bs 0x10 4
      let ctx := field bs 0x14 2
      let n := 4096 * pages
      let one (a : Nat) : Bool := (tierOfPa a).isSome && tierOfPa a == tierOfPa (a + n - 1)
      let ok := c.clean && c.done == 0 && c.ctx < 4096 && c.o18 == 0 && c.o20 == 0 && c.rest && src % 4096 == 0 &&
        dst % 4096 == 0 && 1 ≤ pages && pages ≤ 2 ^ 18 && field bs 0x17 1 == 0 && one src && one dst &&
        !(src < dst + n && dst < src + n) && ctx < 4096 && s.partOfCtx ctx == s.partOfQ c.q
      if ok then
        let (id, s) := s.fresh
        let m : Migr := { q := c.q, src := src, dst := dst, pages := pages, ctx := ctx, key := field bs 0x16 1,
                          doneW := field bs 0x18 8 }
        let x := s.queue c.q
        .next (({ s with migrs := s.migrs.put id m } : State).setQueue c.q { x with running := x.running ++ [.migr id] })
      else .next ((s.physDone c.q (field bs 0x18 8) 2).settleQueue c.q)

/-- An integrity failure of a world (R375, R388): every context of it enters FAULTED, its kernels are aborted, its images
discarded; counted. -/
def State.failCtx (s : State) (c : Nat) : State :=
  let x := s.ctx c
  match x.st with
  | .ready | .active | .parked | .evicted =>
    let s := s.setCtx c { x with st := .faulted }
    ((s.kernels.filter fun e => e.2.ctx == c && e.2.st.abortable).map Prod.fst).foldl
      (fun s k => abortKernel s k { status := 12 }) s
  | _ => s

def State.failWorld (s : State) (w : Nat) : State :=
  ((s.ctxs.filter fun e => e.2.world == w).map Prod.fst).foldl (fun s c => s.failCtx c) s

/-- Poison of a copied page follows its sectors; each poisoned word moved is counted (R221). -/
def State.movePoison (s : State) (ctx src dst n : Nat) : State :=
  let from_ := s.poison.filter fun x => src / 32 ≤ x && x < (src + n) / 32
  let s := { s with poison := s.poison.filter fun x => !(dst / 32 ≤ x && x < (dst + n) / 32) }
  from_.foldl (fun s x => ({ s with poison := setIns s.poison (x - src / 32 + dst / 32) } : State).countErrCtx ctx 4) s

/-- The engine copies `n` bytes, its charges with them: each sector is read under its key and written under it (R221). -/
def State.moveBytes (s : State) (m : Migr) (n : Nat) : State :=
  let p : Payer := { ctx := m.ctx }
  let s := s.charge p ((n + 63) / 64 * (s.wt p (burstEvent m.src) + s.wt p (burstEvent m.dst))) false
  let k := s.keyNo m.key
  let s := s.putAll ((List.range n).map fun i => (k, m.dst + i, s.keyByte k (m.src + i)))
  s.movePoison m.ctx m.src m.dst n

/-- MIGRATION_DONE: the engine's acquire, the copy with its charges, its release, and done: 1, or 3 where a page with a
key fails its check; DESIGN CHOICE: the sectors before the one that fails are then copied (log 18). -/
def execMigrationDone (id : Nat) (s : State) : Host.Outcome State Fault Refusal :=
  match s.migrs.find? id with
  | none => .next s
  | some m =>
    let n := 4096 * m.pages
    let s := { s with migrs := s.migrs.erase id }
    let x := s.queue m.q
    let s := s.setQueue m.q { x with running := x.running.filter fun r => match r with | .migr i => i != id | _ => true }
    let s := s.headAcquire
    match if m.key = 0 then none else s.poison.find? fun p => m.src / 32 ≤ p && p < (m.src + n) / 32 with
    | some p =>
      let s := s.moveBytes m (p * 32 - m.src)
      let s := if (s.ctx m.ctx).world = 0 then s.failCtx m.ctx else s.failWorld (s.ctx m.ctx).world
      .next (((s.countErrCtx m.ctx 13).physDone m.q m.doneW 3).settleQueue m.q)
    | none =>
      let s := s.moveBytes m n
      .next ((s.physDone m.q m.doneW 1).settleQueue m.q)

/-! ## QUEUE_SELECTION (R367 to R371, R380) -/

/-- Add one refill round's worth `m` times (R368). -/
def Queue.refill (x : Queue) (m : Nat) : Queue :=
  if m = 0 then x else { x with deficit := max (-(2 ^ 63)) (min (x.deficit + m * x.quantum) x.quantum) }

/-- Rounds until a queue's deficit is positive. -/
def Queue.roundsFor (x : Queue) : Nat := if x.deficit > 0 then 0 else (-x.deficit).toNat / max x.quantum 1 + 1

/-- A queue after refill rounds of a partition's band: every queue of the band that is not IDLE takes them (R365, R368). -/
def State.refilled (s : State) (p band m q : Nat) : Queue :=
  let x := s.queue q
  if x.band == band && (s.part p).ownsQueue q && !(x.enable && s.qEmpty q) then x.refill m else x

/-- Apply refill rounds to a partition's band. -/
def State.refillBand (s : State) (p band m : Nat) : State :=
  if m = 0 then s
  else
    { s with queues := (List.range 1024).filterMap fun q =>
        let x := s.refilled p band m q
        if x = {} then none else some (q, x) }

/-- Charge the provisional amount, and note the set with its place in the rotation (R368). -/
def State.handOut (s : State) (p q : Nat) (pl : Plan) (die stack : Nat) (deadline : Bool) : State :=
  let x := s.queue q
  let plain := s.planKind pl == .plain
  let recs := if plain then pl.recs.take (s.tiersIn stack).length else pl.recs
  let n := recs.length + pl.restore.length
  let prov := x.quantum / 16
  let s := s.setQueue q { x with deficit := max (-(2 ^ 63)) (x.deficit - n * prov) }
  let k := s.kern pl.kid
  let fromPool := recs.any fun r => r.spawned
  let s := s.setKern pl.kid { k with
    nextTeam := if fromPool then k.nextTeam else k.nextTeam + recs.length
    st := if k.st == .queued && !recs.isEmpty then .dispatching else k.st
    noted := k.noted || k.rec_.flags.testBit 2 }
  let set : PlaceSet := { q := q, kid := pl.kid, die := die, prov := prov, recs := recs, restore := pl.restore, deadlineFor := deadline }
  { s with sets := s.sets ++ [set], lastDie := die, rot := s.rot.put (4 * p + x.band) (q + 1) }

/-- The queue chosen among candidates of one band (R367): urgent ones of band 0 by slack, else the first with a positive
deficit in rotation, after the refill rounds that the band needs. -/
def State.chooseQueue (s : State) (p band : Nat) (cands : List Nat) : Option Nat × State :=
  let urgent := if band = 0 then cands.filter fun q => s.urgentNow q else []
  let least := urgent.foldl (fun b q =>
    match b with
    | none => some q
    | some r => if (s.slackOf q).getD 0 < (s.slackOf r).getD 0 then some q else some r) (none : Option Nat)
  match least with
  | some q => (some q, s)
  | none =>
    let m := match cands.map fun q => (s.queue q).roundsFor with
      | [] => 0
      | r :: rs => rs.foldl min r
    let s := s.refillBand p band m
    let last := s.rot.get 1024 (4 * p + band)
    let pos := cands.filter fun q => (s.queue q).deficit > 0
    (match pos.find? fun q => q ≥ last with
     | some q => some q
     | none => pos.head?, s)

/-- Queues whose records compete: READY, or DISABLED with records of started kernels (R364, R365), that the partition
owns, with no cause 4 or 6 and no team of the set already on its way. -/
def State.competing (s : State) (p : Nat) : List (Nat × Plan) :=
  (s.queues.map Prod.fst).filterMap fun q =>
    if !(s.part p).ownsQueue q then none
    else match s.nextPlan q with
      | some pl =>
        let cs := s.planCauses pl
        if cs.contains 4 || cs.contains 6 then none else some (q, pl)
      | none => none

/-- Teams whose eviction makes a set eligible, on a die where no set waits: the die, the stack and the teams. -/
def State.roomFor (s : State) (pl : Plan) (f : Nat → Team → Bool) : Option (Nat × Nat × List Nat) :=
  match s.evictionFor pl f with
  | some (x, v) => if s.dieFree (dieOfStack x) then some (dieOfStack x, x, v) else none
  | none => none

/-- The deadline eviction of a partition, one at a time: of the urgent queues whose set is eligible nowhere, that of the least
slack for which some eviction makes room (R371). -/
def State.deadlineRoom (s : State) (p : Nat) : Option (Nat × Plan × Nat × Nat × List Nat) :=
  if s.sets.any fun x => x.deadlineFor && (s.part p).ownsQueue x.q then none
  else
    let blocked := (s.competing p).filter fun c => s.urgentNow c.1 && (s.planPlaces c.2).isEmpty
    let order := (blocked.map Prod.fst).foldl (fun acc q => insTier (fun r => (s.slackOf r).getD 0) q acc) []
    order.findSome? fun q => (List.find? (fun c => c.1 == q) blocked).bind fun c =>
      (s.roomFor c.2 fun _ t => t.band != 0 && s.partOfCtx t.ctx == p).map fun r => (q, c.2, r)

/-- Parked teams of the partition, which make room for any of its sets (R380). -/
def State.parkedTeam (s : State) (p : Nat) (t : Team) : Bool := (s.ctx t.ctx).st == .parked && s.partOfCtx t.ctx == p

/-- A set can go out: some place is eligible, or would be without parked teams (R380). -/
def State.canGo (s : State) (p : Nat) (pl : Plan) : Bool :=
  !(s.planPlaces pl).isEmpty || (s.evictionFor pl fun _ t => s.parkedTeam p t).isSome

/-- Where a set goes: its die, the stack that tells how many records it takes, and the parked teams that leave for it. -/
def State.target (s : State) (p : Nat) (pl : Plan) : Option (Nat × Nat × List Nat) :=
  match s.planPlaces pl with
  | [] => s.roomFor pl fun _ t => s.parkedTeam p t
  | ps => (s.nextDie ps).bind fun d => (s.bestPlace d ps).map fun b => (d, b.1.getD 0 0, [])

/-- Select for one partition: a deadline eviction first (R371); then R367 over every queue whose set can go out. Where the
chosen set's dies all have a set waiting, no selection is made. -/
def State.selectFor (s : State) (p : Nat) : State :=
  match s.deadlineRoom p with
  | some (q, pl, d, x, v) => (s.orderEviction v).handOut p q pl d x true
  | none =>
    let ready := (s.competing p).filter fun c => s.canGo p c.2
    let band := ready.foldl (fun b c => min b (s.queue c.1).band) 4
    let ready := ready.filter fun c => (s.queue c.1).band == band
    match s.chooseQueue p band (ready.map Prod.fst) with
    | (none, _) => s
    | (some q, t) =>
      match (List.find? (fun c => c.1 == q) ready).bind fun c => (s.target p c.2).map fun r => (c.2, r) with
      | some (pl, d, x, v) => (t.orderEviction v).handOut p q pl d x false
      | none => s

/-- QUEUE_SELECTION: a die Harness with no set waiting; of the partitions that own a stack of the die and have a queue to
select, any one (log 4). -/
def execQueueSelection (die : Nat) (s : State) : Host.Outcome State Fault Refusal :=
  if !s.dieFree die then .next s
  else
    let ps := (List.range 64).filter fun p =>
      ((List.range 16).any fun i => (s.part p).ownsStack (16 * die + i)) && !(s.competing p).isEmpty
    match ps with
    | [] => .next s
    | [p] => .next (s.selectFor p)
    | _ =>
      let (n, s) := s.draw ps.length
      .next (s.selectFor (ps.getD n 0))

/-! ## SET_PLACEMENT (R342, R344, R345) -/

/-- Start the teams of a set, each on its core. -/
def State.startTeams (s : State) (kid band prov : Nat) : List (Rec × Nat) → State
  | [] => s
  | (r, c) :: rest => (s.startTeam kid band prov c r).startTeams kid band prov rest

/-- The first set handed to a die. -/
def State.headSet (s : State) (die : Nat) : Option PlaceSet := s.sets.find? fun x => x.die == die

/-- The cores that a set would take on its die now. -/
def State.coresFor (s : State) (x : PlaceSet) : List Nat :=
  let pl : Plan := { kid := x.kid, recs := x.recs, restore := x.restore }
  match s.bestPlace x.die (s.places (s.kern x.kid) (s.planKind pl) true (s.planNeed pl)) with
  | some (_, cores) => cores
  | none => []

/-- A set has left its die Harness: its records leave the pool (R319), and the last grid record placed makes the kernel RUNNING, and its LAUNCH is taken
(R349, R360). -/
def State.afterSet (s : State) (x : PlaceSet) (grid : Nat) : State :=
  let s := { s with sets := s.sets.erase x }
  let k := s.kern x.kid
  let k := { k with placed := k.placed + grid, pool := k.pool.filter fun r => !x.recs.contains r }
  let runs := k.st == .dispatching && k.placed == k.rec_.gridTeams
  let s := s.setKern x.kid (if runs then { k with st := .running } else k)
  let q := s.queue x.q
  let s := if runs && q.head == some x.kid then
      s.setQueue x.q { q with head := none, cons := (q.cons + 1) % 2 ^ 32 } else s
  s.settleQueue x.q

/-- Some core's stack is in retention, which it leaves first (R412). -/
def State.anyRetention (s : State) (cores : List Nat) : Bool := cores.any fun c => (s.stackSt (stackOfCore c)).retention

/-- The first set of records of a kernel: its records are placed in the order they were handed out, whatever the die (R343,
R345); sets of different kernels are not held to one order (log 15). -/
def State.firstOf (s : State) (kid : Nat) : Option PlaceSet := s.sets.find? fun x => x.kid == kid && !x.recs.isEmpty

/-- SET_PLACEMENT: the first set of a die goes to its best eligible place; a restore set waits for TEAM_RESTORE. -/
def execSetPlacement (die : Nat) (s : State) : Host.Outcome State Fault Refusal :=
  match s.headSet die with
  | none => .next s
  | some x =>
    if x.recs.isEmpty || s.firstOf x.kid != some x then .next s
    else
      let pl : Plan := { kid := x.kid, recs := x.recs, restore := [] }
      let k := s.kern x.kid
      match s.bestPlace die (s.places k (s.planKind pl) true (s.planNeed pl)) with
      | none => .next s
      | some (_, cores) =>
        if s.anyRetention cores then .next s else
        let s := s.startTeams x.kid (s.queue x.q).band x.prov (x.recs.zip cores)
        .next (State.afterSet { s with stackCopy := s.arrivedCopies cores x.kid k.ctx } x (x.recs.filter fun r => !r.spawned).length)

end Sys2Proof.Machine
end

