-- ==== Sys2Proof/Machine/Context.lean ====
section
/-! DEFINITION. Contexts (ch. 15): team images (R381 to R385), reconciliation and buckets (R378, R379), context commands
(R375), worlds and scrubs (R386 to R388), teardown (R389, R390). -/

namespace Sys2Proof.Machine

open Sys2Proof

/-! ## When a team may be saved (R82, R307, R314) -/

/-- A copy that touches the team's scratchpad (R314). -/
def CopyOp.scratchy (c : CopyOp) : Bool :=
  match c.ins with
  | .cpy o => o.md.spec.getLsbD 8 || o.md.spec.getLsbD 9
  | _ => true

/-- Accesses of a team's groups, abandoned ones aside. -/
def State.teamAcc (s : State) (uid : Nat) : List (Nat × Access) := s.acc.filter fun e => e.2.team == uid && e.2.gidx < 64

/-- The lanes of an access that cannot perform before a fault is resolved: they wait on one, or behind lanes, given by access,
that do (R226, R229, R232, R240). -/
def State.blockedLanes (s : State) (old : Tbl Mask) (a : Access) : Mask :=
  let stuck : List (Nat × Access × Mask) := (s.accOf a.core a.slot a.tag).filterMap fun e =>
    let m := old.get 0 e.1
    if m == 0 then none else some (e.1, e.2, m)
  if stuck.any fun x => a.prior.contains x.1 && s.before a x.2.1 then a.left
  else
    let behind (l : Nat) : Bool := stuck.any fun x => s.overlaps a { x.2.1 with left := x.2.2 } l
    let own := maskOf fun l => a.left.getLsbD l && (a.stuckAt l || behind l)
    maskOf fun l => a.left.getLsbD l && (own.getLsbD l || (a.writes && (lanesOf own).any fun k =>
      k < l && (s.pieces a l).any fun p => (s.pieces a k).any fun q => mayShare true p q))

/-- Those lanes, for each access of a list in order of issue. -/
def State.blockedAll (s : State) : List (Nat × Access) → Tbl Mask → Tbl Mask
  | [], t => t
  | e :: r, t =>
    let m := s.blockedLanes t e.2
    s.blockedAll r (if m == 0 then t else t.put e.1 m)

/-- An access that the image may hold (R82): a load, which is abandoned; a fetch, which is made again; a record not yet
written (R162); one whose unfinished
lanes all wait on a fault or behind one; one that has performed, and whose result or counter waits for an older access. -/
def State.savable (s : State) (blocked : Tbl Mask) (id : Nat) (a : Access) : Bool :=
  match a.op with
  | .load | .elemLoad | .fetch | .record => a.space == .global
  | _ =>
    a.space == .global && (a.left &&& ~~~(blocked.get 0 id)) == 0 &&
      (a.left != 0 || (if a.dst.isSome then s.returnBlocked id a else a.done))

/-- The team is settled: what was sent has completed, no matrix operation is past its fetch phase, no copy works on its
scratchpad. -/
def State.settled (s : State) (uid : Nat) : Bool :=
  (let blocked := s.blockedAll (s.teamAcc uid) []
   (s.teamAcc uid).all fun e => s.savable blocked e.1 e.2) &&
  (s.mats.all fun e => e.2.team != uid || !e.2.fetched) &&
  (s.copies.all fun e => e.2.team != uid || e.2.fin || !e.2.scratchy || e.2.fault.isSome)

/-- Log entries that the image holds (R382). -/
def isLogged (a : Access) : Bool :=
  match a.op with
  | .fetch | .spawn | .record | .push | .pop _ => false
  | _ => !a.done

/-! ## Saving (R381 to R383) -/

/-- A group as saved: withdrawn from the cinch to issue its MMA again, a fetch that waits made again (R307); the
arrival of a slot on the stack is kept, and no fetched line is (R108). -/
def savedGroup (g : Group) : Group :=
  let back (x : Nat) (p : PcSlot) : PcSlot :=
    match g.cinch.find? x with
    | some a => { p with pc := a.pc, held := .no, line := none, ahead := [] }
    | none => { p with held := (match p.held with | .fetch _ => .no | h => h), line := none, ahead := [] }
  let stay := g.cinch.filter fun e => 2 ≤ e.1
  { g with
    slot0 := back 0 g.slot0, slot1 := back 1 g.slot1, mmaSeq := g.mmaSeq - (g.cinch.length - stay.length), cinch := stay }

/-- The charge of a save or a restore (R381): array, cipher, the L2 weight of each sector, bursts. -/
def State.chargeImage (s : State) (uid addr len : Nat) : State :=
  let t := s.team uid
  let p : Payer := { ctx := t.ctx, core := some t.core, team := some uid }
  let n := (len + 31) / 32
  let each := s.wt p 11 + (if (s.ctx t.ctx).world = 0 then 0 else s.wt p 13)
  let l2 := ((List.range n).map fun i => s.wt p (l2Event p (addr + 32 * i))).sum
  s.charge p (n * each + l2 + (len + 63) / 64 * s.wt p (burstEvent addr)) false

/-- Free values as bytes: the body of an image, and the tag of a protected one (log 10, log 11). -/
def freeBytes (from_ n : Nat) : List Byte := (List.range n).map fun i => BitVec.ofNat 8 (Config.freeNat (from_ + i))

/-- The header of an image (R382). -/
def imageHeader (counter team ctx world groups bytes scratch tiles : Nat) (tag : List Byte) : List Byte :=
  leBytes 8 counter ++ leBytes 4 team ++ leBytes 2 ctx ++ leBytes 1 world ++ leBytes 1 groups ++ leBytes 4 bytes ++
    leBytes 4 scratch ++ leBytes 1 tiles ++ leBytes 7 0 ++ tag ++ leBytes 16 0

/-- The bytes of an image as saved, from its numbers. -/
def imageBytes (t : Team) (im : Image) (world : Nat) : List Byte :=
  imageHeader im.counter t.idx t.ctx world im.groups.length im.len t.scratchLen t.tiles
    (if world = 0 then leBytes 16 0 else freeBytes im.body 16) ++ freeBytes (im.body + 16) (im.len - 64)

/-- Entries of a byte array in a range, by their offset. -/
def sliceOf_ (t : Tbl Byte) (lo n : Nat) : List (Nat × Byte) :=
  t.filterMap fun e => if lo ≤ e.1 && e.1 < lo + n then some (e.1 - lo, e.2) else none

def sliceSet (l : List Nat) (lo n : Nat) : List Nat := l.filterMap fun x => if lo ≤ x && x < lo + n then some (x - lo) else none

/-- The image of a settled team. -/
def State.imageOf (s : State) (uid addr len counter : Nat) : Image :=
  let t := s.team uid
  let n := roundUp t.scratchLen 32
  { groups := s.groups.filterMap fun e => if e.2.team == uid then some (e.2.idx, savedGroup e.2) else none
    log := (s.teamAcc uid).filterMap fun e =>
      match e.2.op with
      | .fetch => none
      | _ => some (e.1, { e.2 with fault := none, hits := [], paid := [], paidR := [], sent := 0, req := [] })
    mats := s.mats.filterMap fun e =>
      if e.2.team == uid then some (e.1, { e.2 with pins := [], unpinned := [], pages := [], fault := none }) else none
    copies := s.copies.filterMap fun e =>
      if e.2.team == uid && !e.2.fin && e.2.scratchy then some (e.1, { e.2 with fault := none }) else none
    scratch := sliceOf_ s.sram (sramKey t.core t.scratchAt) n
    tiles := sliceOf_ s.tile (tileKey t.core t.tileAt 0) (2 ^ 14 * t.tiles)
    tpoison := sliceSet s.tilePoison (2 ^ 16 * t.core + t.tileAt) t.tiles
    spoison := sliceSet s.sramPoison (sramKey t.core t.scratchAt / 8) (n / 8)
    addr := addr, len := len, counter := counter, body := s.free }

/-- Loads already sent, but for lanes that wait on a fault, are charged as they are served, return to a slot that has a new tag,
and are dropped there; the image keeps what lanes finished before (R78, R81, R82). -/
def State.abandon (s : State) (uid : Nat) : State :=
  (s.teamAcc uid).foldl (fun s e =>
    let a := e.2
    let sent := match a.op with
      | .load | .elemLoad => a.left &&& ~~~(match a.fault with | some f => f.stuck | none => 0)
      | _ => 0
    let here := (s.readyLanes e.1 a).filter fun l => sent.getLsbD l &&
      (match s.placeOf a (a.ea.getD l 0) with | .here _ => true | _ => false)
    let s := if here.isEmpty then s else (s.performHere a here).1
    let s := { s with acc := s.acc.erase e.1 }
    if sent != 0 then
      let (id, s) := s.fresh
      { s with acc := s.acc.put id { a with gidx := 64, path := none, left := 0, done := true } }
    else s) s

/-- Save a settled team at an address of its save area and free what it holds (R381). -/
def State.saveTeam (s : State) (uid addr len : Nat) : State :=
  let s := s.chargeImage uid addr len
  let t := s.team uid
  let c := s.ctx t.ctx
  let s := s.setCtx t.ctx { c with saves := c.saves + 1, cmdTeams := c.cmdTeams + 1 }
  let im := s.imageOf uid addr len (c.saves + 1)
  let s := { s with free := s.free + 16 + len }
  let s := s.putBytes ((List.range len).zip (imageBytes t im c.world) |>.map fun e => (addr + e.1, e.2))
  let s := { s with poison := s.poison.filter fun x => !(addr ≤ x * 32 && x * 32 + 32 ≤ addr + len) }
  let s := (s.abandon uid).killGroups t.core t.slots
  let s := { s with
    mats := s.mats.filter fun e => e.2.team != uid
    copies := s.copies.filter fun e => !(e.2.team == uid && !e.2.fin && e.2.scratchy) }
  let s := (s.setTeam uid { s.team uid with image := some im, slots := [], evict := false }).leaveIdle (s.kern t.kid).queue
  (s.returnAllowance t.core t.ctx).settleCtx t.ctx .evicted

/-- Something asks for the team's eviction: an order (R371, R380, R395), its context's evict command, or its function's
suspension (R375, R443). -/
def State.evictAsked (s : State) (t : Team) : Bool :=
  t.evict || (s.ctx t.ctx).cmd == 4 || (s.vf (s.ctx t.ctx).fn).st == .suspending

/-- Teams of a cluster that are resident or keep its scratchpad, with the length of each image. -/
def State.evictSizes (s : State) (uid : Nat) : List (Nat × Nat) :=
  ((s.clusterOf uid).filter fun e => e.2.image.isNone).map fun e =>
    (e.1, s.imageLen e.1 (((s.teamAcc e.1).filter fun a => isLogged a.2).length)
      (s.mats.filter fun m => m.2.team == e.1).length
      (s.copies.filter fun m => m.2.team == e.1 && !m.2.fin && m.2.scratchy).length)

/-- Ranges for several images of one context, if they fit. -/
def State.allocImages (s : State) (ctx : Nat) : List (Nat × Nat) → List (Nat × Nat) → Option (List (Nat × Nat × Nat))
  | [], _ => some []
  | (u, n) :: r, taken =>
    match s.saveRange ctx n taken with
    | none => none
    | some a => (s.allocImages ctx r ((a, roundUp n 4096) :: taken)).map fun l => (u, a, n) :: l

/-- TEAM_EVICTION (R381): a team whose eviction is asked for stops issuing; once it is settled, with its cluster, it is
saved; where no range fits, it is not evicted. -/
def execTeamEviction (uid : Nat) (s : State) : Host.Outcome State Fault Refusal :=
  match s.teams.find? uid with
  | none => .next s
  | some t =>
    if t.image.isSome || t.live.isEmpty || !s.evictAsked t then .next s
    else if !t.evict then .next (s.orderEviction ((s.clusterOf uid).map Prod.fst))
    else
      let sizes := s.evictSizes uid
      if !sizes.all fun e => s.settled e.1 then .next s
      else
        match s.allocImages t.ctx sizes [] with
        | none => .next (sizes.foldl (fun s e => s.setTeam e.1 { s.team e.1 with evict := false }) s)
        | some l => .next ((l.foldl (fun s e => s.saveTeam e.1 e.2.1 e.2.2) s).settleCmd t.ctx)

/-! ## Restoring (R384, R385) -/

/-- Rind accepts an image: its counter is the list's and, for a nonzero world, its bytes are as sealed (log 11). -/
def State.imageGood (s : State) (t : Team) (im : Image) : Bool :=
  let world := (s.ctx t.ctx).world
  if world = 0 then s.readMem im.addr 8 == im.counter
  else ((List.range im.len).map fun i => s.memByte (im.addr + i)) == imageBytes t im world

def shiftIn (t : Tbl Byte) (lo n : Nat) (l : List (Nat × Byte)) : Tbl Byte :=
  l.foldl (fun t e => t.set 0 (lo + e.1) e.2) (t.filter fun e => e.1 < lo || lo + n ≤ e.1)

/-- Place the groups of an image, each with a fresh tag. -/
def State.restoreGroups (s : State) (uid : Nat) : List (Nat × Group) → State
  | [] => s
  | (i, g) :: r =>
    let t := s.team uid
    let (slot, s) := s.pickSlot t.core (i % 4)
    let (tag, s) := s.newTag t.core slot
    ((s.setGroup t.core slot { g with tag := tag }).setTeam uid { t with slots := t.slots ++ [slot] }).restoreGroups uid r

/-- Where a group of a restored team lies: core, slot, tag. -/
def State.seatOf (s : State) (uid i : Nat) : Nat × Nat × Nat :=
  match s.findMember uid i with
  | some (c, x) => (c, x, ((s.group? c x).getD {}).tag)
  | none => (0, 0, 0)

def State.restoreMats (s : State) (uid core : Nat) : List (Nat × MatOp) → State
  | [] => s
  | (id, m) :: r =>
    let ms := m.members.map fun x => let p := s.seatOf uid x.idx; { x with slot := p.2.1, tag := p.2.2 }
    ({ s with mats := s.mats.put id { m with core := core, members := ms } } : State).restoreMats uid core r

def State.restoreCopies (s : State) (core : Nat) : List (Nat × CopyOp) → State
  | [] => s
  | (id, c) :: r => ({ s with copies := s.copies.put id { c with core := core } } : State).restoreCopies core r

/-- The log is replayed: its accesses are in flight again, under the fresh tags (R83). -/
def State.restoreLog (s : State) (uid : Nat) : List (Nat × Access) → State
  | [] => s
  | (id, a) :: r =>
    let p := s.seatOf uid a.gidx
    ({ s with acc := s.acc.put id (s.sentAgain { a with core := p.1, slot := p.2.1, tag := p.2.2 }) } : State).restoreLog uid r

/-- Restore a team whole on a core, in the order of R384; replies and barrier releases held for it are delivered. -/
def State.restoreTeam (s : State) (uid core band prov : Nat) : State :=
  let t := s.team uid
  match t.image with
  | none => s
  | some im =>
    let b := s.bases core t.scratchLen t.tiles
    let (n, s) := s.fresh
    let s := s.setTeam uid { t with placedAt := n, core := core, image := none, scratchAt := b.1, tileAt := b.2, slots := [],
                                    prov := t.prov + prov, band := band }
    let s := (s.chargeImage uid im.addr im.len).restoreGroups uid im.groups
    let n := roundUp t.scratchLen 32
    let s := s.zeroTiles core b.2 t.tiles
    let s := { s with
      tile := shiftIn s.tile (tileKey core b.2 0) (2 ^ 14 * t.tiles) im.tiles
      sram := shiftIn s.sram (sramKey core b.1) n im.scratch
      tilePoison := im.tpoison.foldl (fun l x => setIns l (2 ^ 16 * core + b.2 + x)) s.tilePoison
      sramPoison := im.spoison.foldl (fun l x => setIns l (sramKey core b.1 / 8 + x))
        (s.sramPoison.filter fun x => x < sramKey core b.1 / 8 || sramKey core b.1 / 8 + n / 8 ≤ x) }
    let s := ((s.restoreMats uid core im.mats).restoreCopies core im.copies).restoreLog uid im.log
    let s := (s.acquire core t.ctx 4).settleCtx t.ctx .restored
    let mine := s.replies.filter fun r => r.team == uid
    let s := { s with replies := s.replies.filter fun r => r.team != uid }
    let s := mine.foldl (fun s r =>
      match s.findMember uid r.idx with
      | some (c, x) => (s.deliver c x r.bytes).endReplies r.q (fun u i n => u == uid && i == r.idx && n == r.seq) 1
      | none => s) s
    if s.dbarHeld.contains uid then
      ({ s with dbarHeld := s.dbarHeld.filter (· != uid) } : State).releaseTeam uid (· == .dbar)
    else s

/-- TEAM_RESTORE (R346, R384, R385): the restore set at the head of its die is checked and placed whole on the best
eligible place; a refused image places nothing and its context enters FAULTED. -/
def execTeamRestore (uid : Nat) (s : State) : Host.Outcome State Fault Refusal :=
  match s.sets.find? fun x => x.restore.contains uid with
  | none => .next s
  | some x =>
    if s.headSet x.die != some x then .next s
    else
      let pl : Plan := { kid := x.kid, recs := [], restore := x.restore }
      let k := s.kern x.kid
      match s.bestPlace x.die (s.places k (s.planKind pl) true (s.planNeed pl)) with
      | none => .next s
      | some (_, cores) =>
        if s.anyRetention cores then .next s else
        let good := x.restore.all fun u => match (s.team u).image with | some im => s.imageGood (s.team u) im | none => false
        if !good then .next (s.failCtx k.ctx)
        else
          let band := (s.queue x.q).band
          let s := (x.restore.zip cores).foldl (fun s e => s.restoreTeam e.1 e.2 band x.prov) s
          .next (State.afterSet { s with stackCopy := s.arrivedCopies cores x.kid k.ctx } x 0)

/-! ## Reconciliation (R347, R378) -/

/-- Bytes that contexts, and kernels, hold on a stack's cores: `f` picks a team's key. -/
def State.bytesHeld (s : State) (k : Nat) (f : Team → Nat) (key : Nat) : Nat :=
  ((s.teams.filter fun e => e.2.image.isNone && stackOfCore e.2.core == k && f e.2 == key).map fun e =>
    e.2.scratchLen + 16384 * e.2.tiles +
      ((s.groups.filter fun g => g.2.team == e.1).map fun g => 128 * g.2.v.length + 512 + 32).sum).sum

def addAll (t : Tbl Nat) (f : Nat → Nat) : List Nat → Tbl Nat
  | [] => t
  | x :: r => addAll (t.set 0 x (t.get 0 x + f x)) f r

/-- FOOTPRINT_SAMPLE (R378): at each multiple of 1024 of %clock. -/
def execFootprintSample (stk : Nat) (s : State) : Host.Outcome State Fault Refusal :=
  let st := s.stackSt stk
  if st.clock / 1024 ≤ st.sampled then .next s
  else
    let on := s.teams.filter fun e => e.2.image.isNone && stackOfCore e.2.core == stk
    .next (s.setStack stk { st with
      sampled := st.sampled + 1
      samples := addAll st.samples (s.bytesHeld stk fun t => t.ctx) (nubN (on.map fun e => e.2.ctx))
      kernB := addAll st.kernB (s.bytesHeld stk fun t => t.kid) (nubN (on.map fun e => e.2.kid)) })

/-- Split an amount over several receivers: the spec does not say how; all but the last part are free (log 4). -/
def State.split (s : State) (x : Int) : List Nat → List (Nat × Int) × State
  | [] => ([], s)
  | [k] => ([(k, x)], s)
  | k :: r =>
    let (n, s) := s.draw (x.natAbs + 1)
    let y : Int := if x < 0 then -(n : Int) else n
    let (l, s) := s.split (x - y) r
    ((k, y) :: l, s)

/-- The three parts of R347 that a window adds. -/
inductive Part3 where
  | corr | foot | fill
deriving DecidableEq, Repr

/-- Add a share to a kernel's total, and to its teams on the stack. -/
def State.addShare (s : State) (stk : Nat) (w : Part3) (kid : Nat) (y : Int) : State :=
  let k := s.kern kid
  let s := if s.kernels.has kid then
      s.setKern kid (match w with
        | .corr => { k with correction := sxt 96 (wrapN 96 (k.correction + y)) }
        | .foot => { k with footprint := (k.footprint + y.toNat) % 2 ^ 96 }
        | .fill => { k with filler := (k.filler + y.toNat) % 2 ^ 96 })
    else s
  let on := ((s.teamsOf kid).filter fun e => e.2.image.isNone && stackOfCore e.2.core == stk).map Prod.fst
  let (l, s) := s.split y on
  l.foldl (fun s e =>
    let t := s.team e.1
    s.setTeam e.1 (match w with
      | .corr => { t with corr := t.corr + e.2 }
      | .foot => { t with foot := t.foot + e.2 }
      | .fill => { t with fill := t.fill + e.2 })) s

/-- Share an amount of a context over its kernels of the window. -/
def State.shareOut (s : State) (stk : Nat) (w : Part3) (ctx : Nat) (keys : List Nat) (x : Int) : State :=
  let (l, s) := s.split x (keys.filter fun k => (s.kern k).ctx == ctx)
  l.foldl (fun s e => s.addShare stk w e.1 e.2) s

/-- Bill a context: an account and the bucket, past any allowance (R378). -/
def State.billCtx (s : State) (c : Nat) (f : Ctx → Ctx) (x : Int) : State :=
  let y := f (s.ctx c)
  (s.setCtx c (if y.unmetered then y else { y with level := clampLevel (y.level - x) })).unpark c

/-- The copies that ENRD reads on a stack take the totals as they stand (R164). -/
def State.refreshCopies (s : State) (stk : Nat) : State :=
  let s := s.ctxs.foldl (fun s e =>
    { s with stackCopy := s.stackCopy.put (copyKey stk false e.1) (ctxTotals e.2) }) s
  s.kernels.foldl (fun s e =>
    { s with stackCopy := s.stackCopy.put (copyKey stk true e.1) (kernTotals e.2) }) s

/-- RECONCILIATION_WINDOW (R347, R378): the sensor's energy is free (log 8). -/
def execReconciliationWindow (stk : Nat) (s : State) : Host.Outcome State Fault Refusal :=
  let st := s.stackSt stk
  if st.clock / 2 ^ 16 ≤ st.reconciled then .next s
  else
    let (m, s) := s.draw (2 ^ 63)
    let w26 := Config.weight st.cls 26
    let p (i : Nat) : Nat := w26 * st.samples.get 0 i / 1024
    let c : Nat := (st.charges.map Prod.snd).sum
    let fl := st.fillerE
    let rem : Int := (m : Int) - c - fl - ((st.samples.map fun e => p e.1).sum : Nat)
    let s := s.setStack stk { s.stackSt stk with
      reconciled := st.reconciled + 1, charges := [], samples := [], kernC := [], kernB := [], fillerE := 0 }
    let s := (st.samples.map Prod.fst).foldl (fun s i =>
      if p i = 0 then s
      else (s.billCtx i (fun x => { x with footprint := (x.footprint + p i) % 2 ^ 96 }) (p i)).shareOut stk .foot i
        (st.kernB.map Prod.fst) (p i)) s
    let (s, paid) := st.charges.foldl (fun (a : State × Int) e =>
      if e.2 = 0 ∨ c = 0 then a
      else
        let corr := Int.tdiv (rem * e.2) c
        let fill := fl * e.2 / c
        let s := a.1.billCtx e.1 (fun x => { x with
          correction := sxt 96 (wrapN 96 (x.correction + corr)), filler := (x.filler + fill) % 2 ^ 96 }) (corr + fill)
        ((s.shareOut stk .corr e.1 (st.kernC.map Prod.fst) corr).shareOut stk .fill e.1 (st.kernC.map Prod.fst) fill,
          a.2 + corr + fill)) (s, 0)
    let d := dieOfStack stk
    let s := s.setDie d { s.dieSt d with account := (s.dieSt d).account + (rem + fl - paid) }
    let on := (s.teams.filter fun e => e.2.image.isNone && stackOfCore e.2.core == stk).map Prod.fst
    let s := on.foldl (fun s u => s.postTeam u) s
    let s := s.refreshCopies stk
    .next ((s.kernels.map Prod.fst).foldl (fun s k => s.checkLimit k) s)

/-! ## Buckets (R379) -/

/-- The die whose oscillator paces a partition's refill ticks. -/
def State.tickDie (s : State) (p : Nat) : Nat :=
  match (List.range 64).find? fun k => (s.part p).ownsStack k with
  | some k => dieOfStack k
  | none => 0

/-- Footprint billing of a context's images at a tick: trunc(20 b / 1024) fJ each (R378). -/
def State.billImages (s : State) (c : Nat) : State :=
  (s.teams.filter fun e => e.2.ctx == c && e.2.image.isSome).foldl (fun s e =>
    let n := match e.2.image with | some im => 20 * im.len / 1024 | none => 0
    let s := s.billCtx c (fun x => { x with footprint := (x.footprint + n) % 2 ^ 96 }) n
    let t := s.team e.1
    let k := s.kern t.kid
    (s.setTeam e.1 { t with foot := t.foot + n }).setKern t.kid { k with footprint := (k.footprint + n) % 2 ^ 96 }) s

/-- The governor of a die holds a context back: the die's draw, or its partition's, would pass its cap (R30, R445). -/
def State.heldBack (s : State) (die c : Nat) : Bool := (s.dieSt die).paced || (s.dieSt die).pacedParts.testBit (s.partOfCtx c)

/-- REFILL_TICK (R379): each 1,024 clocks of a die's reference oscillator; while the die is paced it waits for a later one
(R30), and the contexts of a partition that is paced take no refill (R445). -/
def execRefillTick (die : Nat) (s : State) : Host.Outcome State Fault Refusal :=
  let d := s.dieSt die
  if d.ref / 1024 ≤ d.refills || d.paced then .next s
  else
    let s := s.setDie die { d with refills := d.refills + 1 }
    let mine := (s.ctxs.filter fun e => s.tickDie (s.partOfCtx e.1) == die).map Prod.fst
    .next (mine.foldl (fun s c =>
      let x := s.ctx c
      let top : Int := (x.cap * 2 ^ 30 : Nat)
      let s := if s.heldBack die c then s
        else s.setCtx c { x with level := if x.unmetered then top else min (x.level + (x.rate * 2 ^ 20 : Nat)) top }
      (s.billImages c).unpark c) s)

/-- GRANT_REQUEST (R379): a core with fewer than 2^31 fJ left for a context asks; a refusal parks the context. While its
governor holds it back, no grant is made (R30, R445). -/
def execGrantRequest (core ctx : Nat) (s : State) : Host.Outcome State Fault Refusal :=
  let x := s.ctx ctx
  let have_ := s.allow.get 0 (4096 * core + ctx)
  let here := (s.groupsOn core).any fun e => (s.team e.2.team).ctx == ctx
  if x.unmetered || !here || decide (have_ ≥ 2 ^ 31) || x.st != .active || s.heldBack (dieOfCore core) ctx then .next s
  else if x.level > 0 then
    let g := min (2 ^ 32) x.level.toNat
    .next (({ s with allow := s.allow.set 0 (4096 * core + ctx) (have_ + g) } : State).setCtx ctx { x with level := x.level - g })
  else .next (s.setCtx ctx { x with st := .parked })

/-! ## Context commands (R375) -/

/-- A command through a function's window: refused and counted where the window does not reach the context. -/
def State.ctxCommand (s : State) (fn c : Nat) (f : Ctx → State) : State :=
  if !s.ready then s
  else if !s.fnLive fn || !s.reachC fn c then s.refuseWrite fn
  else f (s.ctx c)

def State.ctxResult (s : State) (c r : Nat) : State := s.setCtx c { s.ctx c with result := r }

/-- CREATE: a nonzero world must be one of the partition's, and takes a free key slot, any one (log 4). -/
def execCreate (fn ctx : Nat) (s : State) : Host.Outcome State Fault Refusal :=
  .next (s.ctxCommand fn ctx fun x =>
    if x.st != .free then s.ctxResult ctx 2
    else if !((s.part (s.partOfFn fn)).worlds.testBit x.world) && x.world != 0 then s.ctxResult ctx 4
    else
      let made (k : Nat) : Ctx := { x with
        st := .ready, fn := fn, keySlot := k, result := 1, charged := 0, correction := 0, footprint := 0, filler := 0,
        saves := 0, held := false, cmd := 0, stage := 0 }
      if x.world = 0 then s.setCtx ctx (made 0)
      else
        match (List.range 256).filter fun k => k != 0 && !s.keys.has k with
        | [] => s.ctxResult ctx 3
        | ks =>
          let (n, s) := s.draw ks.length
          let k := ks.getD n 1
          let (id, s) := s.fresh
          ({ s with keys := s.keys.put k x.world, keyIds := s.keyIds.put k (id + 2) } : State).setCtx ctx (made k))

/-- FREE. -/
def execFree (fn ctx : Nat) (s : State) : Host.Outcome State Fault Refusal :=
  .next (s.ctxCommand fn ctx fun x =>
    if x.st != .dead then s.ctxResult ctx 2
    else s.setCtx ctx { x with
      st := .free, result := 1, charged := 0, correction := 0, footprint := 0, filler := 0, level := 0, keySlot := 0,
      held := false, cmd := 0, saves := 0, stage := 0, fn := 0 })

/-- EVICT: every resident team's eviction is ordered, and the context is held. -/
def execEvict (fn ctx : Nat) (s : State) : Host.Outcome State Fault Refusal :=
  .next (s.ctxCommand fn ctx fun x =>
    if x.st == .active || x.st == .parked then
      let s := s.setCtx ctx { x with held := true, cmd := 4, cmdTeams := 0 }
      s.orderEviction ((s.teams.filter fun e => e.2.ctx == ctx && e.2.image.isNone && !e.2.retired).map Prod.fst)
    else s.ctxResult ctx 2)

/-- RESUME. -/
def execResume (fn ctx : Nat) (s : State) : Host.Outcome State Fault Refusal :=
  .next (s.ctxCommand fn ctx fun x =>
    if x.st == .evicted && x.held then s.setCtx ctx { x with held := false, result := 1 } else s.ctxResult ctx 2)

/-! ## Die worlds and scrubs (R386, R387) -/

/-- A team of a world is resident on a die. -/
def State.worldOn (s : State) (die world : Nat) : Bool :=
  s.teams.any fun e => dieOfCore e.2.core == die && (s.ctx e.2.ctx).world == world && e.2.here

/-- DIE_WORLD_REQUEST: a write of RND_DIEWORLD by the physical function. -/
def execDieWorldRequest (fn die : Nat) (target : BitVec 4) (s : State) : Host.Outcome State Fault Refusal :=
  let d := s.dieSt die
  let w := target.toNat
  let owners := (List.range 64).filter fun p => (List.range 16).any fun i => (s.part p).ownsStack (16 * die + i)
  if !s.ready || die ≥ 4 then .next s
  else if fn ≠ 0 ∨ d.changing then .next (s.refuseWrite fn)
  else if w ≠ 0 && !(owners.all fun p => (s.part p).worlds.testBit w) then .next (s.refuseWrite fn)
  else if w = d.latched then .next (s.setDie die { d with target := w })
  else .next (s.setDie die { d with target := w, changing := true })

/-- DIE_WORLD_CHANGE: with no team of the latched world left, a nonzero world's die starts its scrub; from world 0 the
target is latched. -/
def execDieWorldChange (die : Nat) (s : State) : Host.Outcome State Fault Refusal :=
  let d := s.dieSt die
  if !d.changing || d.busy || s.worldOn die d.latched then .next s
  else if d.latched = 0 then .next (s.setDie die { d with latched := d.target, changing := false })
  else .next (s.setDie die { d with busy := true, scrubDone := false, cores := 0 })

/-- L2 lines of a die's slices under pages of a world, and those written under a key that is bound to it (R387). -/
def State.worldLines (s : State) (die world : Nat) : List Nat :=
  let ls := (s.ctxs.filter fun e => e.2.world == world).flatMap fun e =>
    (s.leaves 0 (2 ^ 57) 5 (e.2.root * 8192) 0).filter fun x => pteWorld x.2.2 == world
  let ids := (s.keys.filter fun e => e.2 == world).map fun e => s.keyNo e.1
  let keyed := (s.l2.map Prod.fst).filter fun l => (List.range 4).any fun i => ids.contains (s.sealKey.get 0 (4 * l + i))
  (nubN (s.linesOf ls ++ keyed)).filter fun l => sliceOf (l * 128) / 64 == die

/-- Zero every array of a die (R387). -/
def State.zeroDie (s : State) (die : Nat) : State :=
  let off (k : Nat) : Bool := decide (k < sramKey (64 * die) 0) || decide (sramKey (64 * die + 64) 0 ≤ k)
  { s with
    sram := s.sram.filter fun e => off e.1
    tile := s.tile.filter fun e => off e.1
    sramPoison := s.sramPoison.filter fun x => off (8 * x)
    tilePoison := s.tilePoison.filter fun x => x < 2 ^ 16 * (64 * die) || 2 ^ 16 * (64 * die + 64) ≤ x
    l1 := s.l1.filter fun x => dieOfCore x.core != die }

/-- RND_STATUS shows a new phase; vector 2 is raised on the physical function (R455, R457). -/
def State.setPhase (s : State) (n : Nat) : State := ({ s with rndPhase := n } : State).raiseIrq 0 2

/-- One more core of a die under scrub has been zero-written (R387). -/
def State.scrubCore (s : State) (die : Nat) : State :=
  let d := s.dieSt die
  if d.busy && d.cores < 64 then s.setDie die { d with cores := d.cores + 1 } else s

/-- SCRUB_COMPLETE (R387, R458): arrays zeroed, L1 and the leaving world's L2 lines dropped, the target latched. How many sectors
a scrub writes is not given: free (log 4). -/
def execScrubComplete (die : Nat) (s : State) : Host.Outcome State Fault Refusal :=
  let d := s.dieSt die
  let inTest := (List.range 64).any fun i => (s.coreSt (64 * die + i)).st == .test
  if !d.busy || inTest then .next s
  else
    let s := (s.zeroDie die).dropL2s (s.worldLines die d.latched)
    let (n, s) := s.draw (2 ^ 32)
    let fJ := n * Config.weight 2 11
    let s := match d.scrubFor with
      | some c => s.charge { ctx := c } fJ false
      | none => s.chargeDie die fJ
    let d := s.dieSt die
    let s := s.setDie die { d with
      busy := false, scrubDone := true, cores := 64, scrubFor := none, changing := false,
      latched := if d.changing then d.target else d.latched }
    if s.rndPhase = 2 && (List.range 4).all fun i => !(s.dieSt i).busy then .next (s.setPhase 3) else .next s

/-! ## Teardown (R389, R390) -/

/-- Kernels of a context with a group waiting at the DBAR are aborted with domain-lost; its collectives that name another
rank end with done 3; LEAVE goes to every live rank (R424). -/
def State.leaveDomain (s : State) (m : Nat) : State :=
  let d := s.dom m
  let s := s.dbarAbort m .domainLost
  let s := (s.colls.filter fun e => e.2.ctx == d.ctx && e.2.ranks != 2 ^ d.rank).foldl (fun s e => s.endColl e.1 e.2 3) s
  s.sendRanks m 5 1 [] d.liveRanks

/-- The kept flits of a slot are discarded (R420). -/
def State.dropDomFlits (s : State) (m : Nat) : State :=
  let keep (x : Sent) : Bool := x.dom != some m
  let clean (l : LinkSt) : LinkSt := { l with unacked := l.unacked.filter keep }
  { s with heldFlits := s.heldFlits.filter keep, links := s.links.map fun e => (e.1, clean e.2) }

/-- The slot is IDLE, and Rind has erased the domain's secret. -/
def State.idleDomain (s : State) (m : Nat) : State :=
  let s := s.dropDomFlits m
  let d := s.dom m
  s.setDom m { d with
    rank := 0, epoch := 0, group := d.group.map fun e => (e.1, { e.2 with live := false, self := false }),
    st := .idle, secret := false, newSecret := false, leaving := [], failed := [], rekeyPending := false, rekeyed := false,
    early := [], inbox := [], sendSeq := [], recvSeq := [], ctlSend := [], ctlRecv := [], barVal := none, barLocal := false, barRanks := [],
    barEarly := [], hbLink := [], hbSince := [] }

/-- Start a change of a die to world 0 for a teardown (step 5). -/
def State.changeForTeardown (s : State) (c die : Nat) : State :=
  s.setDie die { s.dieSt die with target := 0, changing := true, scrubFor := some c }

/-- The dies that step 5 changes: those latched to the context's world, if no other context of the world remains. -/
def State.diesToLeave (s : State) (c : Nat) : List Nat :=
  let w := (s.ctx c).world
  if w = 0 || s.ctxs.any fun e => e.1 != c && e.2.world == w && e.2.st != .free && e.2.st != .dead then []
  else (List.range 4).filter fun d => (s.dieSt d).latched == w

/-- A queue whose context is torn down (R363). -/
def Queue.torn (x : Queue) : Queue :=
  let keep (r : Running) : Bool := match r with | .wait .. => false | _ => true
  { x with enable := false, cons := x.prod, head := none, fault := 0, pend := false, running := x.running.filter keep }

/-- Step 1 of R390 for one context. -/
def State.tearDown (s : State) (c : Nat) : State :=
  let x := s.ctx c
  let s := s.setCtx c { x with st := .teardown, cmd := 0, held := false }
  let s : State := { s with queues := s.queues.map fun e => (e.1, if e.2.ctx == c then e.2.torn else e.2) }
  let s := ((s.kernels.filter fun e => e.2.ctx == c && e.2.st.abortable).map Prod.fst).foldl
    (fun s k => abortKernel s k { status := 0x0B }) s
  ((s.doms.filter fun e => e.2.ctx == c && e.2.st != .idle).map Prod.fst).foldl (fun s m => (s.leaveDomain m).idleDomain m) s

/-- Steps 3 and 4: the context's L1 and TLB entries are dropped, its L2 lines written back and dropped, and the key of a
nonzero world is gone. -/
def State.forgetCtx (s : State) (c : Nat) : State :=
  let x := s.ctx c
  let lines := s.linesOf (s.leaves 0 (2 ^ 57) 5 (x.root * 8192) 0)
  let s : State := { s with l1 := s.l1.filter fun e => e.ctx != c, tlb := s.tlb.filter fun e => e.ctx != c }
  let s := s.dropL2s lines
  if x.world = 0 then s else { s with keys := s.keys.erase x.keySlot, keyIds := s.keyIds.erase x.keySlot }

/-- TEARDOWN: from any state but FREE and DEAD (R375, R389). -/
def execTeardown (fn ctx : Nat) (s : State) : Host.Outcome State Fault Refusal :=
  .next (s.ctxCommand fn ctx fun x =>
    if x.st == .free || x.st == .dead then s.ctxResult ctx 2
    else if x.st == .teardown then s
    else s.tearDown ctx)

/-- TEARDOWN_COMPLETE: every kernel having ended, steps 3 to 5 of R390; then, no scrub of the teardown being left, DEAD. -/
def execTeardownComplete (ctx : Nat) (s : State) : Host.Outcome State Fault Refusal :=
  let x := s.ctx ctx
  let busy := (List.range 4).any fun d => (s.dieSt d).scrubFor == some ctx
  let live := s.kernels.any fun e => e.2.ctx == ctx && e.2.st != .done
  let dead (s : State) : State := s.setCtx ctx { s.ctx ctx with st := .dead, result := 1 }
  if x.st != .teardown || live then .next s
  else if x.stage = 0 then
    let s := s.forgetCtx ctx
    match s.diesToLeave ctx with
    | [] => .next (dead s)
    | ds =>
      let s := s.setCtx ctx { s.ctx ctx with stage := 1 }
      .next (ds.foldl (fun s d => s.changeForTeardown ctx d) s)
  else if busy then .next s
  else .next (dead s)

/-! ## Integrity (R388) -/

/-- Contexts of a world, with the numbers of their keys. -/
def State.worldKeys (s : State) (world : Nat) : List (Nat × Nat) :=
  (s.ctxs.filter fun e => e.2.world == world && e.2.st != .free && e.2.st != .dead).map fun e => (e.1, s.keyNo e.2.keySlot)

/-- A sweep reads the sectors that the period touched, each charged to its page's context. -/
def State.sweep (s : State) (ks : List (Nat × Nat)) : State :=
  let mine := s.touched.filter fun e => ks.any fun k => k.2 == e.2
  let s : State := { s with touched := s.touched.filter fun e => !ks.any fun k => k.2 == e.2 }
  mine.foldl (fun s e =>
    match ks.find? fun k => k.2 == e.2 with
    | some k => s.touchL2 (headPayer k.1) (e.1 * 32) .read
    | none => s) s

/-- INTEGRITY_SWEEP: each 2^30 Harness head clocks; whether the hashes differ is free (log 4, log 11). -/
def execIntegritySweep (world : Nat) (s : State) : Host.Outcome State Fault Refusal :=
  let n := s.sweeps.get 0 world
  if world = 0 ∨ s.headClock / 2 ^ 30 ≤ n then .next s
  else
    let ks := s.worldKeys world
    let s := ({ s with sweeps := s.sweeps.put world (n + 1) } : State).sweep ks
    let (bad, s) := s.draw 2
    if bad = 1 then
      let parts := nubN (ks.map fun k => s.partOfCtx k.1)
      .next (parts.foldl (fun s p => s.countErr p 13) (s.failWorld world))
    else .next s

end Sys2Proof.Machine
end

