-- ==== Sys2Proof/Machine/Awl.lean ====
section
/-! DEFINITION. Cores and stacks (ch. 16): class changes (R26, R27), leases (R391 to R400), suspicion and retirement (R401 to
R406), tier balance (R407 to R411), retention (R412, R413), the matrix budget's windows (R305). -/

namespace Sys2Proof.Machine

open Sys2Proof

/-! ## Capacity notices (R165, R166, R354) -/

/-- A change that belongs to a kernel's pool: CAPRD's copies, then the event word of a registered kernel. -/
def State.noteKernel (s : State) (kid kind unit : Nat) : State :=
  let k := s.kern kid
  let n := k.notices + 1
  let v := kind * 2 ^ 32 + unit * 2 ^ 16 + n % 2 ^ 16
  let s := s.setKern kid { k with notices := n, lastChange := v }
  if k.noted then
    match (if k.rec_.notice / 2 ^ 56 ≠ 0 then none else s.headWrite k.ctx k.rec_.notice (leBytes 8 v)) with
    | some s => s
    | none => s
  else s

def State.noteKernels (s : State) (kind unit : Nat) (f : Kernel → Bool) : State :=
  ((s.kernels.filter fun e => e.2.st != .done && f e.2).map Prod.fst).foldl (fun s k => s.noteKernel k kind unit) s

/-- A change of a core belongs to the pool that holds its stack. -/
def State.noteCore (s : State) (kind core : Nat) : State :=
  s.noteKernels kind core fun k => (s.poolOf k).contains (stackOfCore core)

/-- A change of a link or channel belongs to every pool of the partition that owns it. -/
def State.noteUnit (s : State) (kind unit : Nat) (owns : Part → Bool) : State :=
  s.noteKernels kind unit fun k => owns (s.part (s.partOfCtx k.ctx))

/-! ## Class changes (R26, R27) -/

/-- No team holds anything of the stack. -/
def State.stackEmpty (s : State) (k : Nat) : Bool := !(s.teams.any fun e => stackOfCore e.2.core == k && e.2.here)

/-- CLASS_CHANGE: an owned, empty stack with no tier under lease takes the class of its pool. -/
def execClassChange (stk : Nat) (s : State) : Host.Outcome State Fault Refusal :=
  let st := s.stackSt stk
  if st.pool ≠ st.cls ∧ s.stackEmpty stk ∧ !s.leasing stk ∧ !st.retention ∧ (s.ownerOf 0 stk).isSome then
    .next (s.setStack stk { st with cls := st.pool })
  else .next s

/-! ## Retirement (R404, R405) -/

def State.shunt (s : State) (core : Nat) : State :=
  let k := stackOfCore core
  s.setStack k { s.stackSt k with shunt := (s.stackSt k).shunt ||| (1 <<< tierOfCore core) }

/-- A core enters RETIRED: shunted, in the repair map, noticed (kind 3). -/
def State.coreRetired (s : State) (core : Nat) : State :=
  let s := s.setCore core { s.coreSt core with
    st := .retired, retiring := false, forced := false, grace := 0, notified := false, retBy := s.ownerOf 0 (stackOfCore core) }
  let s := s.setScore core { s.scoreOf core with retired := true }
  (s.shunt core).noteCore 3 core

/-- The remaining cores of a stack that retires as a whole: one in TEST retires directly, the others drain at once. -/
def State.drainRest (s : State) (stk : Nat) : State :=
  (stackCores stk).foldl (fun s c =>
    match (s.coreSt c).st with
    | .retired => s
    | .test => s.coreRetired c
    | _ => s.setCore c { s.coreSt c with st := .drain, retiring := true, grace := (s.stackSt stk).clock + 2 ^ (s.dieSt (dieOfStack stk)).graceLog }) s

/-- The stack is retired when its last core is. -/
def State.settleStack (s : State) (stk : Nat) : State :=
  if (stackCores stk).all fun c => (s.coreSt c).st == .retired then s.setStack stk { s.stackSt stk with retired := true } else s

/-- Retire a core for a cause of R404; a second retired tier retires the stack, with one record of kind 5 (R405). -/
def State.retireCore (s : State) (core cause : Nat) : State :=
  let stk := stackOfCore core
  let whole := ((stackCores stk).filter fun c => (s.coreSt c).st == .retired).length
  let s := s.coreRetired core
  if whole = 0 then s.recordRetirement (dieOfCore core) 1 cause core core
  else if whole = 1 then
    let s := s.recordRetirement (dieOfCore core) 1 cause core core
    ((s.recordRetirement (dieOfCore core) 5 3 stk core).drainRest stk).settleStack stk
  else s.settleStack stk

/-! ## Core leases (R391 to R398) -/

/-- A core begins its test: the notice, then the patterns (R395). -/
def State.enterTest (s : State) (core : Nat) : State :=
  let s := s.setCore core { s.coreSt core with st := .test, notified := true, grace := 0 }
  s.noteCore 1 core

/-- A core's lease starts: it drains (R395). -/
def State.startCoreLease (s : State) (c : Nat) : State :=
  s.setCore c { s.coreSt c with
    st := .drain, notified := false
    grace := (s.stackSt (stackOfCore c)).clock + 2 ^ (s.dieSt (dieOfCore c)).graceLog }

/-- Forced leases run in increasing tier order, each from an empty core (R391); with the last one ended the stack returns to
placement (R413). -/
def State.nextForced (s : State) (stk : Nat) : State :=
  let st := s.stackSt stk
  if !st.heldOut || s.leasing stk then s
  else
    match (stackCores stk).find? fun c => (s.coreSt c).forced && (s.coreSt c).st == .service with
    | some c => s.startCoreLease c
    | none => s.setStack stk { s.stackSt stk with heldOut := false }

/-- A score that reached 4096 while a lease ran drains its core when that lease ends (R392). -/
def State.nextRetiring (s : State) (stk : Nat) : State :=
  if s.leasing stk then s
  else
    match (stackCores stk).find? fun c => (s.coreSt c).retiring && (s.coreSt c).st == .service with
    | some c => s.setCore c { s.coreSt c with st := .drain, grace := (s.stackSt stk).clock + 2 ^ (s.dieSt (dieOfCore c)).graceLog }
    | none => s

/-- Whether Awl may start a lease of a core now (R391, R392). -/
def State.coreLeasable (s : State) (c : Nat) : Bool :=
  let st := s.stackSt (stackOfCore c)
  (s.coreSt c).st == .service && !s.leasing (stackOfCore c) && st.pool == st.cls && !st.retention && !st.heldOut

/-! ## Link states (R415, R420, R435) -/

/-- The reference clock of the governor that minds a power dealing: the link's die, or die 0 for partitions (log 15). -/
def State.govClock (s : State) (k : Nat) : Nat := (s.dieSt (if k < 16 then k / 4 else 0)).ref

/-- Whose share a dealing draws on: the module's for a link and for dealings of index 64, else the partition's (R445). -/
def State.shareOf (s : State) (k : Nat) : Part := if k < 16 ∨ (k - 16) / 128 = 64 then s.share else s.part ((k - 16) / 128)

def State.setShareOf (s : State) (k : Nat) (x : Part) : State :=
  if k < 16 ∨ (k - 16) / 128 = 64 then { s with share := x } else s.setPart ((k - 16) / 128) x

/-- What a borrower gives back: its share of `borrowed` falls by the loan (R435). -/
def State.giveBack (s : State) (k : Nat) : State :=
  let l := s.link k
  let x := s.shareOf k
  (s.setShareOf k { x with borrowed := x.borrowed - l.borrowed }).setLink k { l with borrowed := 0 }

/-- Flits that only cross one link and belong to no domain: they are not held for a route (R420). -/
def Sent.linkOnly (m : Sent) : Bool := [11, 12, 13, 14, 15, 16, 18, 21].contains m.kind

/-- A link takes a new state; leaving UP, a borrower gives its loan back at once, a lender waits 1,000 clocks (R435), and
the flits kept for a route stay with the link until FLIT_RESEND (R420). -/
def State.linkTo (s : State) (k : Nat) (st : LinkState) : State :=
  let was := (s.link k).st
  let s := s.setLink k { s.link k with st := st, inState := 0, leased := false }
  if was == .up && st != .up then
    let s := s.giveBack k
    let l := s.link k
    s.setLink k { l with
      unacked := l.unacked.filter fun m => !m.linkOnly, offered := 0, asked := 0
      reclaimAt := if l.lent = 0 then none else l.reclaimAt.or (some (s.govClock k)) }
  else s

/-- A leased link goes into loopback, with notice kind 4 (R399, R415). -/
def State.enterLoop (s : State) (k : Nat) : State := (s.linkTo k .loop).noteUnit 4 k fun p => p.ownsLink k

/-! ## Link and channel leases (R399, R400) -/

/-- A link is a die's last path to a peer of a live domain: no other UP link of the die reaches it. -/
def State.lastPath (s : State) (k : Nat) : Bool :=
  let peers := s.doms.flatMap fun e =>
    if e.2.st == .up || e.2.st == .rekey then e.2.liveRanks.filterMap fun r => if r = e.2.rank then none else e.2.fabricOf r else []
  let reach (j f : Nat) : Bool := (s.link j).st == .up && ((s.link j).peer == f ||
    (List.range 256).any fun e => let v := s.routes.get 0x100 e; v.testBit 0 && bitsN v 31 16 == f && bitsN v 15 12 == j)
  peers.any fun f => reach k f && !((List.range 4).any fun i => let j := 4 * (k / 4) + i; j != k && reach j f)

/-- A link under lease: in loopback, or with flits yet to be acknowledged before it is (R399, R415). -/
def LinkSt.underLease (l : LinkSt) : Bool := l.st == .loop || l.leased

def State.linkLeasable (s : State) (k : Nat) : Bool :=
  (s.link k).st == .up && !s.lastPath k && !((List.range 4).any fun i => (s.link (4 * (k / 4) + i)).underLease)

/-- One lease runs at most among an HBM4 stack's channels, and one among the LPDDR6 channels. -/
def State.chanLeasable (s : State) (c : Nat) : Bool :=
  let peers := if c < 256 then (List.range 32).map fun i => c / 32 * 32 + i else (List.range 48).map fun i => 256 + i
  !((s.scoreOf (272 + c)).retired) && peers.all fun x => (s.chan x).leaseEnd.isNone

/-- Start the lease of a unit, by its index in AWL_SCORE; none where it is deferred. A channel's 20 µs are counted on its
own clock, whose rate is not given: free (log 4). -/
def State.startLease (s : State) (u : Nat) : Option State :=
  if u < 256 then
    if (s.coreSt u).st == .retired then some s
    else if s.coreLeasable u then some (s.startCoreLease u) else none
  else if u < 272 then
    let k := u - 256
    if (s.link k).st == .up then
      if s.linkLeasable k then
        some (if (s.link k).unacked.isEmpty then s.enterLoop k else s.setLink k { s.link k with leased := true })
      else none
    else some s
  else
    let c := u - 272
    if (s.scoreOf u).retired then some s
    else if s.chanLeasable c then
      let (n, s) := s.draw (2 ^ 20)
      let s := s.setChan c { s.chan c with leaseEnd := some ((s.chan c).clock + n) }
      some (s.noteUnit (if c < 256 then 7 else 10) (if c < 256 then c else c - 256) fun p => p.ownsChan c)
    else none

/-- Try each unit; those deferred are kept, with how many. -/
def State.startLeases (s : State) : List Nat → List Nat × State
  | [] => ([], s)
  | u :: r =>
    match s.startLease u with
    | some s => s.startLeases r
    | none =>
      let (l, s) := s.startLeases r
      (u :: l, s)

/-- Units of an interval (R393). -/
def unitsOfInterval (die i : Nat) : List Nat :=
  [64 * die + i] ++ (if i % 16 = 0 then [256 + 4 * die + i / 16] else []) ++ [272 + 64 * die + i] ++
    (if die = 0 ∧ i < 48 then [272 + 256 + i] else [])

def isLinkUnit (u : Nat) : Bool := decide (256 ≤ u) && decide (u < 272)

/-- Leases of the interval that ends which have not started, or whose core is not yet at its test (R394, R396). A link's
deferral was counted when it was deferred (R399). -/
def State.overdueLeases (s : State) (die : Nat) : Nat :=
  let d := s.dieSt die
  let prev := (d.interval + 63) % 64
  let c := s.coreSt (64 * die + prev)
  (d.late.filter fun u => !isLinkUnit u && (unitsOfInterval die prev).contains u).length +
    if c.st == .drain && !c.retiring && !d.late.contains (64 * die + prev) then 1 else 0

/-- LEASE_START (R393, R396, R399): deferred leases are tried, then those of an interval that has begun. A deferred core or
channel is tried again at any time, a deferred link only in a later interval. -/
def execLeaseStart (die : Nat) (s : State) : Host.Outcome State Fault Refusal :=
  let d := s.dieSt die
  if die < 4 && d.interval < 64 && decide (d.awl ≥ d.boundary + d.interval * (2 ^ d.period / 64)) then
    let n := s.overdueLeases die
    let (late, s) := s.startLeases d.late
    let (more, s) := s.startLeases (unitsOfInterval die d.interval)
    let d := s.dieSt die
    .next (s.setDie die { d with
      interval := d.interval + 1, late := late ++ more
      overdue := satAdd 0xFFFF d.overdue ((more.filter isLinkUnit).length + n) })
  else
    let (late, s) := s.startLeases (d.late.filter fun u => !isLinkUnit u)
    .next (s.setDie die { s.dieSt die with late := late ++ d.late.filter isLinkUnit })

/-- GRACE_WINDOW_EXPIRY (R395, R396): the teams left on a draining core are to be evicted; a further window follows. -/
def execGraceWindowExpiry (core : Nat) (s : State) : Host.Outcome State Fault Refusal :=
  let c := s.coreSt core
  let clock := (s.stackSt (stackOfCore core)).clock
  let on := (s.teamsOn core).filter fun e => e.2.here
  if c.st == .drain && decide (clock ≥ c.grace) && !on.isEmpty then
    let s := s.setCore core { c with grace := clock + 2 ^ (s.dieSt (dieOfCore core)).graceLog }
    .next (s.orderEviction (s.withCluster (on.map Prod.fst)))
  else .next s

/-- CORE_DRAINED (R391, R395): TEST with its notice, or RETIRED. -/
def execCoreDrained (core : Nat) (s : State) : Host.Outcome State Fault Refusal :=
  let c := s.coreSt core
  let empty := (s.teamsOn core).all fun e => !e.2.here
  if c.st == .drain && empty then
    if c.retiring then .next (((s.retireCore core 2).nextRetiring (stackOfCore core)).nextForced (stackOfCore core))
    else .next (s.enterTest core)
  else .next s

/-- The zero-write that ends every test (R398). -/
def State.zeroCore (s : State) (core : Nat) : State :=
  let off (k : Nat) : Bool := decide (k < sramKey core 0) || decide (sramKey (core + 1) 0 ≤ k)
  { s with
    sram := s.sram.filter fun e => off e.1
    tile := s.tile.filter fun e => off e.1
    sramPoison := s.sramPoison.filter fun x => off (8 * x)
    tilePoison := s.tilePoison.filter fun x => x < 2 ^ 16 * core || 2 ^ 16 * core + 2 ^ 16 ≤ x
    l1 := s.l1.filter fun x => x.core != core }

/-- The die's own account pays for a pass and its zero-write: the amount is the record's, free (log 4). -/
def State.payTest (s : State) (core : Nat) : State :=
  let (n, s) := s.draw (2 ^ 48)
  s.chargeDie (dieOfCore core) n

/-- TEST_PASS (R391, R395): SERVICE, with notice kind 2. -/
def execTestPass (core : Nat) (s : State) : Host.Outcome State Fault Refusal :=
  let c := s.coreSt core
  if c.st != .test then .next s
  else
    let s := (s.zeroCore core).payTest core
    let s := s.setCore core { s.coreSt core with st := .service, notified := false, forced := false }
    .next (((s.noteCore 2 core).nextForced (stackOfCore core)).nextRetiring (stackOfCore core))

/-- TEST_FAIL (R391, R401): the score rises by 1024; at 4096 the core retires, else the patterns start again. -/
def execTestFail (core pattern : Nat) (s : State) : Host.Outcome State Fault Refusal :=
  let c := s.coreSt core
  if c.st != .test then .next s
  else
    let x := s.scoreOf core
    let v := satAdd 0xFFFF x.score 1024
    let s := (s.setScore core { x with score := v, lastFail := pattern }).payTest core
    if v ≥ 4096 then
      .next ((((s.zeroCore core).retireCore core (if c.forced then 4 else 1)).nextForced (stackOfCore core)).nextRetiring
        (stackOfCore core))
    else .next s

/-! ## Scores and channels (R401, R406) -/

/-- PERIOD_BOUNDARY (R394, R401): every score of the die is halved; the period written before takes effect. -/
def execPeriodBoundary (die : Nat) (s : State) : Host.Outcome State Fault Refusal :=
  let d := s.dieSt die
  if decide (die ≥ 4) || decide (d.awl < d.boundary + 2 ^ d.period) then .next s
  else
    let half (x : Score) : Score := { x with score := x.score / 2 }
    let s : State := { s with scores := s.scores.map fun e => (e.1, if scoreDie e.1 == die then half e.2 else e.2) }
    .next (s.setDie die { d with boundary := d.boundary + 2 ^ d.period, period := d.periodNew, interval := 0 })

/-- CHANNEL_LEASE_END (R400): the quiet lease ends, with its notice; BURST_SERVE serves what was held. -/
def execChannelLeaseEnd (u : Unit') (s : State) : Host.Outcome State Fault Refusal :=
  let go (c : Nat) : State :=
    match (s.chan c).leaseEnd with
    | some n =>
      if (s.chan c).clock ≥ n then
        (s.setChan c { s.chan c with leaseEnd := none }).noteUnit (if c < 256 then 8 else 11)
          (if c < 256 then c else c - 256) fun p => p.ownsChan c
      else s
    | none => s
  match u with
  | .hbm ch => .next (if ch < 256 then go ch else s)
  | .lpddr ch => .next (if ch < 48 then go (256 + ch) else s)
  | _ => .next s

/-- CONFIRM_CHANNEL_RETIREMENT (R402, R406): a write of 1 to pending by the physical function. -/
def execConfirmChannelRetirement (fn k : Nat) (s : State) : Host.Outcome State Fault Refusal :=
  let x := s.scoreOf k
  if !s.ready then .next s
  else if fn ≠ 0 then .next (s.refuseWrite fn)
  else if x.pending && 272 ≤ k && k < 576 then
    let c := k - 272
    let unit := if c < 256 then c else c - 256
    let s := s.setScore k { x with pending := false, retired := true }
    let s := s.recordRetirement (scoreDie k) (if c < 256 then 3 else 4) 2 unit k
    .next (s.noteUnit (if c < 256 then 9 else 12) unit fun p => p.ownsChan c)
  else .next s

/-! ## Tier balance (R407 to R410) -/

/-- Sums of the readings up to each boundary between adjacent tiers in service, all scaled by `n`, after `x` is added to
each starved tier, are within the balancer's 400. -/
def balanced (rs : List Int) (x : Nat) : Bool :=
  let n := rs.length
  let starved := (rs.filter fun r => r < 0).length
  let adj := rs.map fun r => (n : Int) * r + (if r < 0 then (n : Int) * x else 0) - ((starved * x : Nat) : Int)
  (List.range (n - 1)).all fun i => ((adj.take (i + 1)).foldl (· + ·) 0).natAbs ≤ 400 * n

/-- The smallest `x` from 0 to 1200 that balances (R408). -/
def fillFor (rs : List Int) : Option Nat := (List.range 1201).find? fun x => balanced rs x

/-- The current of a tier at a refresh, in units of 10 mA: free, and for a tier under test within 100 of the mean of the last
refresh (R398). -/
def State.tierCurrent (s : State) (stk t : Nat) : Nat × State :=
  if (s.coreSt (coreOf stk t)).st == .test then
    let (n, s) := s.draw 201
    ((s.stackSt stk).mean + n - 100, s)
  else s.draw (2 ^ 15)

/-- Tier currents of a refresh, of each tier that is not shunted; the readings against their mean, and that mean. -/
def State.tierReadings (s : State) (stk : Nat) : (List Int × Nat) × State :=
  let on := (List.range 4).filter fun t => !(s.stackSt stk).shunt.testBit t
  let (cur, s) := on.foldl (fun (a : List (Nat × Nat) × State) t =>
    let (c, s) := a.2.tierCurrent stk t
    (a.1 ++ [(t, c)], s)) ([], s)
  let mean : Nat := (cur.map Prod.snd).sum / max on.length 1
  (((List.range 4).map fun t => match List.find? (fun e => e.1 == t) cur with | some e => (e.2 : Int) - mean | none => 0, mean), s)

/-- IMBAL_REFRESH (R407, R408, R409): the readings are the sensors', free (log 8). -/
def execImbalRefresh (stk : Nat) (s : State) : Host.Outcome State Fault Refusal :=
  if (s.stackSt stk).clock / 1024 ≤ (s.stackSt stk).refreshed then .next s
  else
    let ((r, mean), s) := s.tierReadings stk
    let st := s.stackSt stk
    let on := (List.range 4).filter fun t => !st.shunt.testBit t
    let rs := on.map fun t => r.getD t 0
    let (fill, throttle, calm) := match fillFor rs with
      | some x => (x, st.throttle, st.calm)
      | none => (1200, min (st.throttle + 1) 3, -1)
    let calm := calm + 1
    let (throttle, calm) := if throttle > 0 && calm ≥ 16 then (throttle - 1, 0) else (throttle, calm)
    let starved := (rs.filter fun x => x < 0).length
    .next (s.setStack stk { st with
      refreshed := st.refreshed + 1, imbal := r, mean := mean, fill := fill, throttle := throttle, calm := calm
      throttled := if throttle > 0 then satAdd 0xFFFFFFFF st.throttled 1 else st.throttled
      fillerE := st.fillerE + fill * starved * Config.weight st.cls 25 })

/-- MATBUDGET_WINDOW (R305): each 256 clocks the core's count starts again. -/
def execMatbudgetWindow (core : Nat) (s : State) : Host.Outcome State Fault Refusal :=
  let c := s.coreSt core
  if (s.stackSt (stackOfCore core)).clock / 256 ≤ c.budWin then .next s
  else .next (s.setCore core { c with budWin := c.budWin + 1, issues := 0, spent := false })

/-! ## Retention (R412, R413) -/

/-- Work in flight on a stack's cores, or a test, whose patterns issue there (R398). -/
def State.stackBusy (s : State) (stk : Nat) : Bool :=
  (s.acc.any fun e => stackOfCore e.2.core == stk) || (s.mats.any fun e => stackOfCore e.2.core == stk) ||
  (s.copies.any fun e => stackOfCore e.2.core == stk && !e.2.fin) ||
  (stackCores stk).any fun c => (s.coreSt c).st == .test

/-- RETENTION_ENTRY: 2^16 idle clocks, and nothing in flight. -/
def execRetentionEntry (stk : Nat) (s : State) : Host.Outcome State Fault Refusal :=
  let st := s.stackSt stk
  if decide (st.idle ≥ 2 ^ 16) && !st.retention && !s.stackBusy stk then .next (s.setStack stk { st with retention := true })
  else .next s

/-- A group that could issue: some slot is held by nothing, and no reply is awaited. -/
def Group.runnable (g : Group) : Bool :=
  g.svc.isNone && ((g.slot0.mask != 0 && g.slot0.held == .no) || (g.slot1.mask != 0 && g.slot1.held == .no))

/-- A group's energy lets it issue: none is left to one whose context is parked with no allowance at its core (R379). -/
def State.fed (s : State) (core : Nat) (g : Group) : Bool :=
  let c := (s.team g.team).ctx
  (s.ctx c).st != .parked || s.hasAllowance core c

/-- Something needs the stack (R412): a group that could issue, a set that its die would place there, a lease due, a class
change, a scrub. -/
def State.stackNeeded (s : State) (stk : Nat) : Bool :=
  let d := s.dieSt (dieOfStack stk)
  (s.groups.any fun e => stackOfCore (e.1 / 1024) == stk && e.2.runnable && s.fed (e.1 / 1024) e.2) ||
  ((s.headSet (dieOfStack stk)).any fun x => (s.coresFor x).any fun c => stackOfCore c == stk) || s.leasing stk ||
  (d.late.any fun u => u < 256 && stackOfCore u == stk) ||
  (s.stackSt stk).pool != (s.stackSt stk).cls || d.busy

/-- RETENTION_EXIT: tiers whose parity shows a lost element are named by `lost` (R413). -/
def execRetentionExit (stk : Nat) (lost : BitVec 4) (s : State) : Host.Outcome State Fault Refusal :=
  let st := s.stackSt stk
  if !st.retention || !s.stackNeeded stk then .next s
  else
    let s := s.setStack stk { st with retention := false, idle := 0 }
    if lost = 0 then .next s
    else
      let on := s.teams.filter fun e => e.2.image.isNone && stackOfCore e.2.core == stk
      let s := (nubN (on.map fun e => e.2.kid)).foldl (fun s k => abortKernel s k { status := 0x0A }) s
      let s := ((List.range 4).filter fun t => lost.getLsbD t).foldl (fun s t => s.addScore (coreOf stk t) 512) s
      let s := (stackCores stk).foldl (fun s c =>
        let x := s.coreSt c
        if x.st == .retired then s
        else s.setCore c { x with forced := true, st := if x.retiring then x.st else .service, grace := 0 }) s
      .next ((s.setStack stk { s.stackSt stk with heldOut := true }).nextForced stk)

/-- RETIREMENT_LOG_EXPORT (R404): the management controller takes the records that Rind holds. -/
def execRetirementLogExport (s : State) : Host.Outcome State Fault Refusal := .next { s with logHeld := [] }

end Sys2Proof.Machine
end

