-- ==== Sys2Proof/Machine/Barrier.lean ====
section
/-! DEFINITION. The barrier instructions (R324 to R332). The counting of arrivals and the releases are in Team.lean. -/

namespace Sys2Proof.Machine

open Sys2Proof

/-- An incomplete arrival takes the lanes of a slot that are not recorded, and with them the accesses that precede them; a
repeat adds nothing (R324, R325). -/
def Arrival.extend (a : Arrival) (lanes : Mask) (seen : List Nat) (pcs pc : Nat) : Arrival :=
  if lanes &&& ~~~a.lanes = 0 then a
  else { a with lanes := a.lanes ||| lanes, prior := joinIds a.prior seen, pcs := pcs, pc := pc }

/-- Record the slot's lanes at a barrier (R324): a different arrival that is incomplete is a mismatch. A slot that waits
holds `h`. -/
def State.recordArrival (s : State) (e : Env) (op n val : Nat) (h : Option Held) : State :=
  match s.group? e.me.core e.me.slot with
  | none => s
  | some g =>
    let ps := g.slotAt e.me.pcs
    let same (a : Arrival) : Bool := a.op == op && a.n == n && a.val == val
    match g.arrival with
    | some a =>
      if same a then
        let s := s.onIssuer e.me fun g => { g with arrival := some (a.extend e.live ps.seen e.me.pcs e.pc) }
        (match h with | some h => s.hold e h | none => s).settleArrival e.me.core e.me.slot
      else s.faultAt e .barrierMismatch e.live
    | none =>
      let s := s.onIssuer e.me fun g => { g with
        arrival := some { op := op, n := n, val := val, lanes := e.live, prior := ps.seen, pcs := e.me.pcs, pc := e.pc } }
      (match h with | some h => s.hold e h | none => s).settleArrival e.me.core e.me.slot

/-- BAR (R326, R328). -/
def execBar (o : Fields) (s : State) : Host.Outcome State Fault Refusal :=
  issue (.bar o) o s fun e s => s.recordArrival e opBar 0 0 (some .bar)

/-- BARA (R326, R329): the slot goes on. -/
def execBara (o : Fields) (s : State) : Host.Outcome State Fault Refusal :=
  issue (.bara o) o s fun e s => s.recordArrival e opBara (o.md.spec.toNat % 16) (e.scal o.a .n32) none

/-- BARW (R324, R329): waits for the phase of the group's latest arrival, if one is pending; else an acquire fence at
.team. -/
def execBarw (o : Fields) (s : State) : Host.Outcome State Fault Refusal :=
  issue (.barw o) o s fun e s =>
    let n := o.md.spec.toNat % 16
    let ahead := match e.g.arrival with
      | some a => (a.op == opBara || a.op == opBarn) && a.n == n
      | none => false
    if ahead then s.hold e (.barp n)
    else if s.namedPending e.g n then s.hold e (.barw n ((s.team e.g.team).named.get ({} : Named) n).phase)
    else s.holdUntil e (.fence 1 1)

/-- BARN (R326, R329). -/
def execBarn (o : Fields) (s : State) : Host.Outcome State Fault Refusal :=
  issue (.barn o) o s fun e s =>
    let n := o.md.spec.toNat % 16
    s.recordArrival e opBarn n (e.scal o.a .n32) (some (.barp n))

/-- CBAR (R330): in a kernel without clusters it acts as BAR. -/
def execCbar (o : Fields) (s : State) : Host.Outcome State Fault Refusal :=
  issue (.cbar o) o s fun e s => s.recordArrival e opCbar 0 0 (some (if e.team.cluster.isNone then .bar else .cbar))

/-- DBAR (R331, R332): by a context outside any domain an illegal operand; in a broken domain the kernel is aborted. -/
def execDbar (o : Fields) (s : State) : Host.Outcome State Fault Refusal :=
  issue (.dbar o) o s fun e s =>
    match s.domOf e.team.ctx with
    | none => s.faultAt e .illegalOperand e.live
    | some (_, d) =>
      if d.st == .broken then s.faultAt e .domainLost e.live
      else s.recordArrival e opDbar 0 (e.scal o.a .n32) (some .dbar)

end Sys2Proof.Machine
end

