-- ==== Sys2Proof/Machine/Link.lean ====
section
/-! DEFINITION. Links and trust domains (ch. 17): link states and flits (R414 to R420), forming, leaving, breaking and
re-keying a domain (R421 to R429, R483, R484), domain messages (R423, R430 to R433), power loans (R434, R435, R445). -/

namespace Sys2Proof.Machine

open Sys2Proof

/-! ## Link states (R414, R415) -/

/-- What a lender counts as returned. -/
def State.regain (s : State) (k : Nat) : State :=
  let l := s.link k
  let x := s.shareOf k
  (s.setShareOf k { x with lent := x.lent - l.lent }).setLink k { l with lent := 0, reclaimAt := none }

/-- Raise a link's score; one that reaches 4096 is retired, leaves service and is noticed (kind 6) (R401, R403). -/
def State.linkScore (s : State) (k n cause : Nat) : State :=
  let was := (s.link k).st
  let s := s.addScore (256 + k) n cause
  if (s.link k).st == .retired && was != .retired then
    ((s.setLink k { s.link k with st := was }).linkTo k .retired).noteUnit 6 k fun p => p.ownsLink k
  else s

/-- LINK_ENABLE: a write of LNK_CTL. -/
def execLinkEnable (fn k : Nat) (value : W64) (s : State) : Host.Outcome State Fault Refusal :=
  let l := s.link k
  let miss := value.toNat / 2 ^ 16 % 256
  let lg := value.toNat / 2 ^ 8 % 256
  let on := value.getLsbD 0
  if !s.ready || decide (k ≥ 16) then .next s
  else if fn ≠ 0 ∨ miss < 2 ∨ lg < 12 ∨ lg > 28 then .next (s.refuseWrite fn)
  else
    let s := s.setLink k { l with enable := on, hbMiss := miss, hbLog := lg }
    if l.st == .retired then .next s
    else if l.enable && !on then .next (s.linkTo k .down)
    else if !l.enable && on && l.st == .down then .next (s.linkTo k .train)
    else .next s

/-- LANES_TRAINED: SECURE, and an SPDM session with the neighbour's Rind (R417). -/
def execLanesTrained (k : Nat) (s : State) : Host.Outcome State Fault Refusal :=
  if (s.link k).st == .train then
    .next ((s.linkTo k .secure).send { kind := 21, dst := (s.link k).peer, src := Config.fabricId })
  else .next s

/-- LINK_KEYS_INSTALLED: UP with counters at zero; flits still kept go to the route kept ones. -/
def execLinkKeysInstalled (k : Nat) (peer : BitVec 16) (s : State) : Host.Outcome State Fault Refusal :=
  if (s.link k).st == .secure then
    let s := s.linkTo k .up
    let l := s.link k
    .next (({ s with heldFlits := l.unacked ++ s.heldFlits } : State).setLink k { l with
      peer := peer.toNat, sendCtr := 0, lastAcc := 0, inOrder := 0, lastAck := 0, unacked := [], sinceFlit := 0, badRun := 0,
      badCtr := 0, hbAt := l.clock })
  else .next s

/-- LINK_TRAIN_TIMEOUT: training or the session fails, or no answer came within 2^24 link clocks. -/
def execLinkTrainTimeout (k : Nat) (s : State) : Host.Outcome State Fault Refusal :=
  if (s.link k).st == .train || (s.link k).st == .secure then .next (s.linkTo k .failed) else .next s

/-- HEARTBEAT_TIMEOUT: no flit for hb_miss intervals (R415). -/
def execHeartbeatTimeout (k : Nat) (s : State) : Host.Outcome State Fault Refusal :=
  let l := s.link k
  if l.st == .up && decide (l.sinceFlit ≥ l.hbMiss * 2 ^ l.hbLog) then .next (s.linkTo k .failed) else .next s

/-- Ranks last heard by a link that was under lease count from now: its heartbeats were suspended (R399, R425). -/
def State.rehear (s : State) (k : Nat) : State :=
  let now := (s.link k).clock
  { s with doms := s.doms.map fun e =>
      (e.1, { e.2 with hbSince := e.2.hbSince.map fun r => (r.1, if e.2.hbLink.get 0 r.1 = k then now else r.2) }) }

/-- LINK_LOOP_TEST_END: fresh keys after a pass, with notice kind 5; a failure adds 1024 to the score (R399, R415). -/
def execLinkLoopTestEnd (k : Nat) (pass : Bool) (s : State) : Host.Outcome State Fault Refusal :=
  if (s.link k).st != .loop then .next s
  else if pass then .next (((s.linkTo k .secure).rehear k).noteUnit 5 k fun p => p.ownsLink k)
  else .next (s.linkScore k 1024 1)

/-! ## Flits (R418 to R420, R460) -/

/-- KEY_UPDATE (R418): the counter of a direction starts again under its new key: the sending one once it has reached
2^40 and every flit under the old key is acknowledged (log 15), the receiving one when the neighbour updates. -/
def execKeyUpdate (k : Nat) (sending : Bool) (s : State) : Host.Outcome State Fault Refusal :=
  let l := s.link k
  if l.st != .up then .next s
  else if sending then .next (if l.sendCtr ≥ 2 ^ 40 ∧ l.unacked = [] then s.setLink k { l with sendCtr := 0, lastAck := 0 } else s)
  else .next (s.setLink k { l with lastAcc := 0, inOrder := 0 })

/-- The acknowledgement of what a link has received in order (R419). -/
def State.ackFlit (s : State) (k : Nat) : State :=
  if (s.link k).st == .up then s.overLink k 1 { kind := 18, dst := (s.link k).peer, src := Config.fabricId, words := [(s.link k).inOrder] }
  else s

/-- A dropped flit: counted, the link's score rises, and the third failed check of one flit fails the link (R415, R419). -/
def State.dropFlit (s : State) (k : Nat) (f : Flit) : State :=
  let l := s.link k
  let run := if l.badRun > 0 && l.badCtr == f.counter then l.badRun + 1 else 1
  let s := s.setLink k { l with tagFail := satAdd 0xFFFF l.tagFail 1, badCtr := f.counter, badRun := run }
  let s := s.linkScore k 1 2
  if (s.link k).st != .up then s
  else if run ≥ 3 then
    let s := s.linkTo k .failed
    s.linkScore k 512 2
  else s.ackFlit k

/-- An acknowledgement: what it names and what came before it are kept no longer; one that names nothing new has the rest
sent again (R419). A link under lease goes into loopback with the last of them (R415). -/
def State.takeAck (s : State) (k : Nat) (f : Flit) : State :=
  let l := s.link k
  let left := l.unacked.filter fun m => m.counter + m.flits > f.ackTo + 1
  if left.length = l.unacked.length && !left.isEmpty && l.lastAck == f.ackTo + 1 then
    let s := s.setLink k { l with retries := satAdd 0xFFFF l.retries (left.map Sent.flits).sum }
    { s with outbox := s.outbox ++ left }
  else
    let s := s.setLink k { l with unacked := left, lastAck := f.ackTo + 1 }
    if l.leased && left.isEmpty then s.enterLoop k else s

/-- A rank is heard: by which link, and at what count of its clock (R425). -/
def State.heard (s : State) (m r k : Nat) : State :=
  let d := s.dom m
  s.setDom m { d with hbLink := d.hbLink.put r k, hbSince := d.hbSince.put r (s.link k).clock }

/-- An OFFER: the governor takes all of it or part, any part (log 4), and says so by TAKE (R435). -/
def State.takeOffer (s : State) (k w : Nat) : State :=
  let (n, s) := s.draw (w + 1)
  if n = 0 then s
  else
    let s := s.setLink k { s.link k with asked := n }
    s.overLink k 1 { kind := 12, dst := (s.link k).peer, src := Config.fabricId, words := [n] }

/-- FLIT_RESEND (R420): kept flits, in order, over a link by which a route now reaches their destination. -/
def execFlitResend (k : Nat) (s : State) : Host.Outcome State Fault Refusal :=
  let l := s.link k
  let mine := if l.st == .up then [] else l.unacked
  let all := mine ++ s.heldFlits
  let s : State := { s with heldFlits := [] }
  let s := if l.st == .up then s else s.setLink k { l with unacked := [] }
  .next (all.foldl (fun s m => s.ship m) s)

/-! ## Heartbeats (R425) -/

/-- Ranks whose heartbeats leave by a link. -/
def State.ranksVia (s : State) (m k : Nat) : List Nat :=
  let d := s.dom m
  d.liveRanks.filter fun r => r != d.rank &&
    (match d.fabricOf r with
     | some f => (s.routeOf (s.partOfCtx d.ctx) f).map Prod.fst == some k
     | none => false)

/-- HEARTBEAT_SEND: each 2^hb_log2 clocks of an UP link. -/
def execHeartbeatSend (k : Nat) (s : State) : Host.Outcome State Fault Refusal :=
  let l := s.link k
  if l.st != .up || decide (l.clock < l.hbAt + 2 ^ l.hbLog) then .next s
  else
    let s := s.setLink k { l with hbAt := l.clock }
    let s := s.overLink k 1 { kind := 16, dst := l.peer, src := Config.fabricId }
    let ms := (s.doms.filter fun e => e.2.st == .up || e.2.st == .broken || e.2.st == .rekey).map Prod.fst
    .next (ms.foldl (fun s m => s.sendRanks m 7 1 [(s.dom m).epoch, ((s.dom m).liveRanks.map fun r => 2 ^ r).sum] (s.ranksVia m k)) s)

/-! ## Forming and leaving (R421, R422, R424) -/

/-- A function reaches a domain slot: the physical one every slot; a virtual one a slot that is idle or bound to a context
of its partition (R421, R442). -/
def State.reachD (s : State) (fn m : Nat) : Bool :=
  m < 16 && (fn == 0 || (s.fnLive fn && ((s.dom m).st == .idle || s.partOfCtx (s.dom m).ctx == s.partOfFn fn)))

def State.domCommand (s : State) (fn m : Nat) (f : DomSt → State) : State :=
  if !s.ready then s else if !s.reachD fn m then s.refuseWrite fn else f (s.dom m)

def State.domResult (s : State) (m r : Nat) : State := s.setDom m { s.dom m with result := r }

/-- FORM: the slot enters FORMING, and Rind opens a session with each other entry's Rind, spares included. -/
def execForm (fn m : Nat) (s : State) : Host.Outcome State Fault Refusal :=
  .next (s.domCommand fn m fun d =>
    if d.st != .idle then s.domResult m 2
    else
      let s := s.setDom m { d with st := .forming, result := 0 }
      let others := d.group.filterMap fun e => if e.2.valid && e.2.fabric != Config.fabricId then some e.2.fabric else none
      others.foldl (fun s f => s.ship { kind := 10, dst := f, src := Config.fabricId, dom := some m }) s)

/-- The entry that names this chip. -/
def DomSt.selfEntry (d : DomSt) : Option Nat :=
  (List.find? (fun e => e.2.valid && e.2.fabric == Config.fabricId) d.group).map Prod.fst

/-- The rank that an entry holds; a spare holds none, kept as 64 (log 15). -/
def DomSt.rankOf (d : DomSt) (j : Nat) : Nat := ((List.range 64).find? fun r => d.entryOf r == some j).getD 64

def DomSt.setLive (d : DomSt) (j : Nat) (b : Bool) : DomSt :=
  { d with group := d.group.put j { d.group.get {} j with live := b } }

/-- Every rank counts as heard now. -/
def State.hearAll (s : State) (m : Nat) : State :=
  (s.dom m).liveRanks.foldl (fun s r =>
    let k := match (s.dom m).fabricOf r with
      | some f => ((s.routeOf (s.partOfCtx (s.dom m).ctx) f).map Prod.fst).getD 0
      | none => 0
    s.heard m r k) s

/-- DOMAIN_FORMED (R422): the outcome of the sessions: 1 every member has acknowledged, 3 the lists differ, 4 a member failed
attestation. -/
def execDomainFormed (m result : Nat) (s : State) : Host.Outcome State Fault Refusal :=
  let d := s.dom m
  if d.st != .forming then .next s
  else
    match result, d.selfEntry with
    | 1, some j =>
      let group := d.group.map fun e => (e.1, { e.2 with live := e.2.valid, self := e.1 == j })
      let s := s.setDom m { d with
        st := .up, epoch := 0, group := group, rank := d.rankOf j, secret := true, result := 1, sendSeq := [], recvSeq := [] }
      .next (s.hearAll m)
    | 4, _ => .next ((s.idleDomain m).domResult m 4)
    | _, _ => .next ((s.idleDomain m).domResult m 3)

/-- The slot returns to IDLE after its LEAVE (R424). -/
def State.endLeave (s : State) (m : Nat) : State := (((s.dbarAbort m .domainLost).idleDomain m).domResult m 1)

/-- LEAVE: cmd 2. -/
def execLeave (fn m : Nat) (s : State) : Host.Outcome State Fault Refusal :=
  .next (s.domCommand fn m fun d =>
    if !(d.st == .up || d.st == .broken || d.st == .rekey) || !d.leaving.isEmpty then s.domResult m 2
    else
      let others := d.liveRanks.filter (· != d.rank)
      let s := s.leaveDomain m
      if others.isEmpty then s.endLeave m else s.setDom m { s.dom m with leaving := others })

/-- With the last acknowledgement of its LEAVE the slot is IDLE and the secret erased (R424). -/
def State.leaveAckFrom (s : State) (m rank : Nat) : State :=
  let d := s.dom m
  if !d.leaving.contains rank then s
  else
    let left := d.leaving.filter (· != rank)
    let s := s.setDom m { d with leaving := left }
    if left.isEmpty then s.endLeave m else s

/-- A membership change is under way: control keys, their sequence numbers at zero, a re-key pending (R332, R429). -/
def DomSt.toRekey (d : DomSt) : DomSt := { d with st := .rekey, rekeyPending := true, ctlSend := [], ctlRecv := [] }

/-- LEAVE of a rank: its live bit clears; in UP or REKEY the slot enters REKEY, and the lowest remaining live rank's Rind draws
the new secret and sends it (R424). -/
def State.leaveFrom (s : State) (m rank : Nat) : State :=
  let d := s.dom m
  match d.entryOf rank with
  | none => s
  | some j =>
    if !d.liveRanks.contains rank then s
    else
      let s := s.sendDom m 8 1 [] rank
      let d := (s.dom m).setLive j false
      if d.st == .broken then s.setDom m d
      else
        let again := d.st == .rekey
        let s := s.setDom m { d.toRekey with newSecret := d.newSecret && !again }
        if d.liveRanks.head? = some d.rank then
          (s.setDom m { s.dom m with newSecret := true }).sendRanks m 9 1 [64, 64] d.liveRanks
        else s

/-! ## Breaking (R426) -/

/-- A domain is declared broken for a rank. -/
def State.breakDomain (s : State) (m rank : Nat) : State :=
  let d := s.dom m
  match d.entryOf rank with
  | none => s
  | some j =>
    if !(d.st == .up || d.st == .broken || d.st == .rekey) || !d.liveRanks.contains rank then s
    else
      let s := s.setDom m { d.setLive j false with
        st := .broken, rekeyPending := false, newSecret := false, early := [], inbox := [], failed := d.failed ++ [rank] }
      let s := s.dropDomFlits m
      let s := s.dbarAbort m .domainLost
      let lost := s.colls.filter fun e => e.2.ctx == d.ctx && e.2.ranks != 2 ^ d.rank
      let s := lost.foldl (fun s e => s.endColl e.1 e.2 3) s
      let far := s.acc.filter fun e => e.2.ctx == d.ctx && e.2.space == .global &&
        (lanesOf e.2.left).any fun l => e.2.ea.getD l 0 / 2 ^ 56 == 1
      let s := far.foldl (fun s e =>
        s.accessAbort e.2 .domainLost (((lanesOf e.2.left).find? fun l => e.2.ea.getD l 0 / 2 ^ 56 == 1).getD 0)) s
      s.sendRanks m 6 1 [rank] (s.dom m).liveRanks

/-- RANK_TIMEOUT (R425): hb_miss intervals of the link that the rank's last heartbeat came by have passed; a link under
lease does not time out (R399). -/
def execRankTimeout (m rank : Nat) (s : State) : Host.Outcome State Fault Refusal :=
  let d := s.dom m
  let l := s.link (d.hbLink.get 0 rank)
  if l.st != .loop && decide (l.clock ≥ d.hbSince.get 0 rank + l.hbMiss * 2 ^ l.hbLog) && rank != d.rank then .next (s.breakDomain m rank)
  else .next s

/-! ## Spares and re-keying (R427 to R429, R483) -/

/-- The spare takes the failed rank's entry; its own becomes invalid (R483). -/
def DomSt.takeOver (d : DomSt) (failed spare : Nat) : DomSt :=
  match d.entryOf failed with
  | none => d
  | some j =>
    let sp := d.group.get {} spare
    { d with
      group := (d.group.put j { sp with spare := false, valid := true, live := true }).put spare
        { sp with valid := false, live := false, self := false }
      rank := if sp.self then failed else d.rank
      failed := d.failed.filter (· != failed) }

/-- The lowest spare entry whose chip is live. -/
def DomSt.freeSpare (d : DomSt) : Option Nat := (List.find? (fun e => e.2.valid && e.2.spare && e.2.live) d.group).map Prod.fst

/-- No message that the slot sent under the old epoch awaits its acknowledgement or a route (step 1 of R428). -/
def State.domQuiet (s : State) (m : Nat) : Bool :=
  let old (x : Sent) : Bool := x.dom == some m && x.seq.isSome && !x.ctl
  !(s.heldFlits.any old) && !(s.links.any fun e => e.2.unacked.any old)

/-! ## Window accesses of other chips (R430, R431) -/

/-- The answer to a request: how it ended, whether its lane met poison, the flags it raised and what it returns, one flit per 6
sectors returned (R270, R431). -/
def State.winReply (s : State) (m : Nat) (r : WinReq) (status : Nat) (a : Option Access := none) : State :=
  let vals := match a with | some a => a.got.get [] 0 | none => []
  let back := !vals.isEmpty && (!r.write || r.atomic.isSome)
  let n := (sectorsOf r.offset r.len).length
  s.sendDom m 17 (if back then max 1 ((n + 5) / 6) else 1)
    ([r.id, status] ++ (match a with | some a => [a.dying.toNat, a.raised.toNat] | none => []) ++ if back then vals else []) r.src

/-- A request as an access of the bound context at base + offset (R430): one lane, on the stack that serves the Harness head.
An atomic's operand and comparand stand as an atomic's data does (R271). -/
def State.winAccess (s : State) (d : DomSt) (r : WinReq) : Access :=
  let a : Access := { core := coreOf (s.headStack d.ctx) 0, slot := 0xFFFF, pcs := 0, tag := 0, team := 0, ctx := d.ctx,
                      space := .global, op := .load, lanes := 1, left := 1, ea := [viaWindow (d.export_ + r.offset)], served := true }
  match r.atomic with
  | some (op, ty) =>
    let c := leNat r.bytes
    { a with op := .atom op r.ret, ty := ty, data := [if op = 7 then [r.cmp, c] else [c]] }
  | none =>
    if r.elem then
      { a with op := if r.write then .elemStore else .elemLoad, ty := .f32, count := r.len / 4
               data := [elemsOf 4 r.bytes (r.len / 4)] }
    else { a with op := if r.write then .store else .load, ty := .n8, count := if r.write then r.bytes.length else r.len
                  data := [r.bytes.map (·.toNat)] }

/-- Walk what an access still misses; `n` bounds the pages: how the first failing walk fails, with its address. -/
def State.winWalk (s : State) (a : Access) : Nat → Option PageFault × State
  | 0 => (none, s)
  | n + 1 =>
    match s.missing a 0 with
    | [] => (none, s)
    | u :: _ =>
      match s.walk a.payer a.stack u a.writes with
      | (.leaf .., s) => s.winWalk a n
      | (.fault c d l, s) =>
        (some { va := plainVa (max (s.laneVa a 0) u), cause := c, detail := d, level := l, kind := a.faultKind, lanes := 0 }, s)

/-- A replayable fault here is recorded, and answered so; none while the ring has no room (R215, R216). -/
def State.winFault (s : State) (m : Nat) (r : WinReq) (ctx : Nat) (f : PageFault) : Option State :=
  (s.writeFault ctx 0xFFFF 0xFFFF f).map fun s => s.winReply m r f.cause

/-- A request is performed as an access of the bound context at base + offset, by the checks of any access; a permission fault
is answered, a replayable one recorded in the ring of the function that created the context (R215), the request then waiting at
its issuer. Where that ring is full it stays, unanswered. -/
def State.serveWindow (s : State) (m : Nat) (req : WinReq) : Option State :=
  let d := s.dom m
  let a := s.winAccess d req
  let past (n : Nat) : Bool := decide (req.offset + n > d.limit)
  let refuse (s : State) : State := s.winReply m req (if a.writes then Cause.write.code else Cause.read.code)
  if past (if req.elem then 1 else a.span) then some (refuse s)
  else
    match s.winWalk a 8 with
    | (some f, s) => s.winFault m req d.ctx f
    | (none, s) =>
      if past (s.extent a (s.laneVa a 0)) then some (refuse s)
      else
        match s.checkLane a 0 with
        | .bad c => some (s.winReply m req c.code)
        | .record va =>
          s.winFault m req d.ctx { va := plainVa va, cause := 3, detail := 0, level := 0xFF, kind := a.faultKind, lanes := 0 }
        | .ok =>
          let (s, a) := s.performHere a [0]
          some (s.winReply m req 0 (some a))

/-! ## Domain messages (R423, R428, R429) -/

/-- What a message's key and number say of it: it is taken now, held for its turn or its key, counted as one of keys that are
gone, or a break of the domain. -/
inductive Turn where
  | now | later | stale | broken
deriving DecidableEq, Repr

def DomSt.turn (d : DomSt) (x : DomMsg) : Turn :=
  let h := x.head
  let next := (d.epoch + 1) % 256
  let inTurn (n : Nat) : Turn :=
    if !h.tagOk || decide (h.seq < n) || decide (h.seq > n + 64) then .broken else if h.seq = n then .now else .later
  if h.ctl then
    if h.epoch = next then (if d.st == .rekey && d.newSecret then inTurn (d.ctlRecv.get 0 x.src) else .later)
    else if d.rekeyed && h.epoch == d.epoch then .stale
    else .broken
  else if h.epoch = d.epoch then inTurn (d.recvSeq.get 0 x.src)
  else if d.rekeyed && (h.epoch + 1) % 256 == d.epoch then .stale
  else if d.st == .rekey && h.epoch == next then .later
  else .broken

/-- Domain control other than arrivals, which a BROKEN slot takes too (R424 to R426). -/
def controlBody : DomBody → Bool
  | .leave | .leaveAck | .brk _ | .heartbeat _ => true
  | _ => false

/-- The slot takes messages of the sender. -/
def DomSt.takes (d : DomSt) (x : DomMsg) : Bool :=
  (d.st == .up || d.st == .rekey || (d.st == .broken && controlBody x.body)) && (d.entryOf x.src).isSome && x.src != d.rank

/-- The pair's number rises past the message. -/
def DomSt.passed (d : DomSt) (x : DomMsg) : DomSt :=
  if x.head.ctl then { d with ctlRecv := d.ctlRecv.put x.src (x.head.seq + 1) }
  else { d with recvSeq := d.recvSeq.put x.src (x.head.seq + 1) }

/-- An arrival at the domain barrier: of this phase, or of the next from a rank whose chip has seen the release (R331). -/
def State.arrivalFrom (s : State) (m rank value : Nat) (early : Bool) : State :=
  let d := s.dom m
  if early && d.barRanks.contains rank then s.setDom m { d with barEarly := d.barEarly.put rank value }
  else s.dbarArrive m rank value false

/-- What a message does when it is taken; none where a request must stay. -/
def State.deliverDom (s : State) (m : Nat) (x : DomMsg) : Option State :=
  let d := s.dom m
  match x.body with
  | .collective .. | .collAbort _ => some (s.setDom m { d with inbox := d.inbox ++ [x] })
  | .window k status done dead flags vals => some (s.windowAnswer d.ctx x.src k status done dead flags vals)
  | .request r => s.serveWindow m r
  | .arrival v early => some (s.arrivalFrom m x.src v early)
  | .leave => some (s.leaveFrom m x.src)
  | .leaveAck => some (s.leaveAckFrom m x.src)
  | .brk r => some (s.breakDomain m r)
  | .heartbeat k => some (s.heard m x.src k)
  | .other => some s

/-- Held messages whose turn has come are taken; `n` bounds them. -/
def State.drainDom (s : State) (m : Nat) : Nat → State
  | 0 => s
  | n + 1 =>
    let d := s.dom m
    match d.early.find? fun x => d.takes x && d.turn x == .now with
    | some x =>
      match (s.setDom m { d.passed x with early := d.early.filter (· != x) }).deliverDom m x with
      | some s => s.drainDom m n
      | none => s
    | none => s

/-- A domain message arrives: taken with those held behind it, held, discarded and counted (event 12), or the end of the domain
(R423, R428, R429). -/
def State.domArrive (s : State) (m : Nat) (x : DomMsg) : State :=
  let d := s.dom m
  if !d.takes x then s
  else
    match d.turn x with
    | .now =>
      match (s.setDom m (d.passed x)).deliverDom m x with
      | some s => s.drainDom m (s.dom m).early.length
      | none => s
    | .later =>
      if d.early.any fun y => y.src == x.src && y.head == x.head then s else s.setDom m { d with early := d.early ++ [x] }
    | .stale => s.countErrCtx d.ctx 12
    | .broken => s.breakDomain m x.src

/-- DOMAIN_DATA_MESSAGE. -/
def execDomainDataMessage (m : Nat) (msg : DomMsg) (s : State) : Host.Outcome State Fault Refusal := .next (s.domArrive m msg)

/-- WINDOW_ACCESS_SERVICE (R430). -/
def execWindowAccessService (m : Nat) (req : WinReq) (s : State) : Host.Outcome State Fault Refusal :=
  .next (s.domArrive m { src := req.src, head := req.head, body := .request req })

/-- DBAR_ARRIVAL_MESSAGE (R331). -/
def execDbarArrivalMessage (m : Nat) (x : DomFrom) (value : W32) (early : Bool) (s : State) :
    Host.Outcome State Fault Refusal :=
  .next (s.domArrive m { src := x.rank, head := x.head, body := .arrival value.toNat early })

/-- LEAVE_MESSAGE (R424). -/
def execLeaveMessage (m : Nat) (x : DomFrom) (s : State) : Host.Outcome State Fault Refusal :=
  .next (s.domArrive m { src := x.rank, head := x.head, body := .leave })

/-- LEAVE_ACKNOWLEDGED (R424). -/
def execLeaveAcknowledged (m : Nat) (x : DomFrom) (s : State) : Host.Outcome State Fault Refusal :=
  .next (s.domArrive m { src := x.rank, head := x.head, body := .leaveAck })

/-- BREAK of a rank, from another (R426). -/
def execBreakMsg (m : Nat) (x : DomBreak) (s : State) : Host.Outcome State Fault Refusal :=
  .next (s.domArrive m { src := x.src, head := x.head, body := .brk x.rank })

/-! ## Spares and new secrets (R427, R483) -/

/-- SPARE_TAKEOVER: without a spare, result 5; one that fails attestation, result 4; else the lowest live rank's Rind sends
the new secret and the remap to every live member and to the spare. -/
def execSpareTakeover (m : Nat) (attested : Bool) (s : State) : Host.Outcome State Fault Refusal :=
  let d := s.dom m
  match d.st == .broken, d.failed, d.freeSpare with
  | true, _ :: _, none => .next (s.setDom m { d with result := 5, failed := [] })
  | true, r :: _, some j =>
    if !attested then .next (s.setDom m { d with result := 4, failed := [] })
    else if d.liveRanks.head? != some d.rank then .next s
    else
      let f := (d.group.get {} j).fabric
      let s := s.sendRanks m 9 1 [r, j] d.liveRanks
      let s := s.ship { kind := 9, dst := f, src := Config.fabricId, dom := some m, words := [r, j] }
      let d := s.dom m
      .next (((s.setDom m { (d.takeOver r j).toRekey with newSecret := true }).hearAll m).drainDom m d.early.length)
  | _, _, _ => .next s

/-- NEW_MASTER_SECRET: installed with its remap; `spare` from 64 on means none (R424). -/
def execNewMasterSecret (m failed spare : Nat) (s : State) : Host.Outcome State Fault Refusal :=
  let d := s.dom m
  if !(d.st == .up || d.st == .broken || d.st == .rekey) then .next s
  else if spare ≥ 64 then
    if d.st == .broken then .next s else .next ((s.setDom m { d with newSecret := true }).drainDom m d.early.length)
  else if (d.entryOf failed).isNone || !(d.group.get {} spare).spare then .next s
  else
    .next (((s.setDom m { (d.takeOver failed spare).toRekey with newSecret := true }).hearAll m).drainDom m d.early.length)

/-- REKEY (R428): with every live rank arrived and the old messages settled, the new epoch begins, the DBAR is released,
and what was held is checked under the new keys. -/
def execRekey (m : Nat) (s : State) : Host.Outcome State Fault Refusal :=
  let d := s.dom m
  if d.st == .rekey && d.rekeyPending && d.newSecret && d.barVal.isSome &&
      d.liveRanks.all (fun r => d.barRanks.contains r) && s.domQuiet m then
    let s := s.setDom m { d with
      epoch := (d.epoch + 1) % 256, sendSeq := [], recvSeq := [], ctlSend := [], ctlRecv := [], st := .up, rekeyPending := false, newSecret := false,
      secret := true, rekeyed := true, early := [], failed := [] }
    let s := s.dbarRelease m
    .next (d.early.foldl (fun s x => s.domArrive m x) s)
  else .next s

/-! ## Flits received (R416, R419) -/

/-- A heartbeat of a domain from a chip, for the slot and under the key that its payload names (R425, log 1). -/
def State.domHeartbeat (s : State) (k src : Nat) (p : List Byte) : State :=
  let b (i : Nat) : Nat := (p.getD i 0).toNat
  match (List.range 64).find? fun r => (s.dom (b 1)).fabricOf r == some src with
  | some r =>
    s.domArrive (b 1) { src := r, head := { epoch := b 2, ctl := b 3 != 0, seq := leNat ((p.drop 4).take 8) }, body := .heartbeat k }
  | none => s

/-- What an accepted flit does here (R416): one for this chip is the matter of the steps that name it; one for another chip
is sent on (R420, R460). -/
def State.acceptFlit (s : State) (k : Nat) (f : Flit) : State :=
  match f.kind with
  | 2 => s.takeAck k f
  | 5 => if f.payload.headD 0 = 11 then s.takeOffer k (leNat ((f.payload.drop 1).take 2)) else s
  | 1 | 4 =>
    if f.dst = Config.fabricId then
      (if f.kind = 4 && f.payload.headD 0 = 7 then s.domHeartbeat k f.src f.payload else s)
    else s.ship { kind := 19, hops := f.hops + 1, dst := f.dst, src := f.src, words := f.payload.map (·.toNat) }
  | _ => s

/-- FLIT_RECEIVE (R419). -/
def execFlitReceive (k : Nat) (f : Flit) (s : State) : Host.Outcome State Fault Refusal :=
  let l := s.link k
  if l.st != .up then .next s
  else if !f.tagOk || decide (f.counter < l.lastAcc) then .next (s.dropFlit k f)
  else
    let s := s.setLink k { l with
      lastAcc := f.counter + 1, inOrder := if f.counter = l.inOrder then f.counter + 1 else l.inOrder, sinceFlit := 0
      badRun := 0 }
    let s := s.acceptFlit k f
    .next (if f.kind = 2 then s else s.ackFlit k)

/-! ## Power loans (R434, R435, R445, R446) -/

/-- The other end of a dealing between partitions of this device: `k` is 16 + 128 p + q for p's end of its pair with q;
64 stands for the module's borrowed watts (R446). -/
def otherEnd (k : Nat) : Nat := 16 + 128 * ((k - 16) % 128) + (k - 16) / 128

/-- A dealing can pass messages: its link is UP, or it joins two partitions. -/
def State.dealing (s : State) (k : Nat) : Bool :=
  if k < 16 then (s.link k).st == .up
  else (k - 16) / 128 ≤ 64 && (k - 16) % 128 ≤ 64 && (k - 16) % 128 != (k - 16) / 128

/-- Send a power message: over the link, or to the partition at the other end, whose governor acts next. -/
def State.sendPower (s : State) (k kind w : Nat) (next : Nat → Instr) : State :=
  if k < 16 then s.overLink k 1 { kind := kind, dst := (s.link k).peer, src := Config.fabricId, words := [w] }
  else { s with agenda := s.agenda ++ [.op (next (otherEnd k))] }

/-- What the share leaves to lend: of the module's borrowed watts, or of share − lent − reserve; a partition lends none
to the module. -/
def State.lendable (s : State) (k : Nat) : Nat :=
  if k ≥ 16 ∧ (k - 16) / 128 = 64 then
    s.share.borrowed - ((List.range 64).map fun q => (s.link (16 + 128 * 64 + q)).lent).sum
  else if k ≥ 16 ∧ (k - 16) % 128 = 64 then 0
  else let x := s.shareOf k; x.share - x.lent - x.reserve

/-- OFFER: every 64 refill ticks, of what the demand left unused over them; the demand is the governor's own measure, so
`unused` is given. -/
def execOffer (k unused : Nat) (s : State) : Host.Outcome State Fault Refusal :=
  let l := s.link k
  if !s.dealing k || decide (s.govClock k / 2 ^ 16 ≤ l.offers) then .next s
  else
    let w := min unused (s.lendable k)
    let s := s.setLink k { l with offers := l.offers + 1, offered := w }
    if w = 0 then .next s
    else if k < 16 then .next (s.sendPower k 11 w fun _ => .offer k 0)
    else
      let (n, s) := s.draw (w + 1)
      if n = 0 then .next s
      else
        let o := otherEnd k
        let s := s.setLink o { s.link o with asked := n }
        .next { s with agenda := s.agenda ++ [.op (.take k n)] }

/-- TAKE at the lender: `lent` rises, and ACK answers. -/
def execTake (k watts : Nat) (s : State) : Host.Outcome State Fault Refusal :=
  let l := s.link k
  if !s.dealing k || decide (watts > l.offered) || watts = 0 then .next s
  else
    let x := s.shareOf k
    let s := if k ≥ 16 ∧ (k - 16) / 128 = 64 then s else s.setShareOf k { x with lent := x.lent + watts }
    let s := s.setLink k { s.link k with lent := l.lent + watts, offered := 0 }
    .next (s.sendPower k 13 watts fun o => .ack o watts)

/-- ACK at the borrower: `borrowed` rises. -/
def execAck (k watts : Nat) (s : State) : Host.Outcome State Fault Refusal :=
  let l := s.link k
  if !s.dealing k || decide (watts > l.asked) then .next s
  else
    let x := s.shareOf k
    .next ((s.setShareOf k { x with borrowed := x.borrowed + watts }).setLink k
      { l with borrowed := l.borrowed + watts, asked := 0 })

/-- SEND_RECLAIM: the lender's demand needs its share back. -/
def execSendReclaim (k : Nat) (s : State) : Host.Outcome State Fault Refusal :=
  let l := s.link k
  if !s.dealing k || l.lent = 0 || l.reclaimAt.isSome then .next s
  else .next ((s.setLink k { l with reclaimAt := some (s.govClock k) }).sendPower k 14 0 fun o => .reclaim o)

/-- RECLAIM at the borrower: `borrowed` and the cap fall within 500 clocks, then RETURN. -/
def execReclaim (k : Nat) (s : State) : Host.Outcome State Fault Refusal :=
  if !s.dealing k then .next s else .next ((s.giveBack k).sendPower k 15 0 fun o => .returnMsg o)

/-- The lender has its share back. -/
def State.loanBack (s : State) (k : Nat) : State :=
  if k ≥ 16 ∧ (k - 16) / 128 = 64 then s.setLink k { s.link k with lent := 0, reclaimAt := none } else s.regain k

/-- RETURN at the lender. -/
def execReturnMsg (k : Nat) (s : State) : Host.Outcome State Fault Refusal :=
  if !s.dealing k || (s.link k).reclaimAt.isNone then .next s else .next (s.loanBack k)

/-- RECLAIM_TIMEOUT: 1,000 reference clocks after RECLAIM, or after the link left UP. -/
def execReclaimTimeout (k : Nat) (s : State) : Host.Outcome State Fault Refusal :=
  match (s.link k).reclaimAt with
  | some n => if s.govClock k ≥ n + 1000 then .next (s.loanBack k) else .next s
  | none => .next s

end Sys2Proof.Machine
end

