-- ==== Sys2Proof/Machine/Partition.lean ====
section
/-! DEFINITION. Partitions and functions (ch. 18): the array rail (R447), ownership (R436 to R439), virtual functions
(R442 to R444), fair queueing (R440), snapshots (R451), meter export (R450). -/

namespace Sys2Proof.Machine

open Sys2Proof

/-! ## Array rail (R447) -/

/-- Partitions that own a stack or slice on a die and have a nonzero vote. -/
def State.voters (s : State) (die : Nat) : List Nat :=
  (List.range 64).filter fun p =>
    let x := s.part p
    x.railVote != 0 && ((List.range 16).any (fun i => x.ownsStack (16 * die + i)) || x.own.get 0 (1 + die) != 0)

/-- The lowest partition with the highest vote; none without voters. -/
def State.highVote (s : State) (die : Nat) : Option (Nat × Nat) :=
  (s.voters die).foldl (fun b p =>
    let v := (s.part p).railVote
    match b with | some (q, w) => if v > w then some (p, v) else some (q, w) | none => some (p, v)) none

/-- A partition has no team resident on a die and no request of its own in flight. -/
def State.voterGone (s : State) (p die : Nat) : Bool :=
  !(s.teams.any fun e => dieOfCore e.2.core == die && s.partOfCtx e.2.ctx == p && e.2.here) &&
  !(s.acc.any fun e => s.partOfCtx e.2.ctx == p && e.2.left != 0 && dieOfCore e.2.core == die) &&
  !(s.copies.any fun e => s.partOfCtx e.2.ctx == p && !e.2.fin && dieOfCore e.2.core == die) &&
  !(s.mats.any fun e => s.partOfCtx e.2.ctx == p && dieOfCore e.2.core == die)

/-- The target follows the votes: up at once; down once the highest voter has left the die. -/
def State.railAim (s : State) (die : Nat) : State :=
  let d := s.dieSt die
  match s.highVote die with
  | none => s
  | some (p, v) =>
    if v > d.railTo then s.setDie die { d with railTo := v, railBy := p }
    else if v < d.railTo then
      if s.voterGone d.railBy die then s.setDie die { d with railTo := v, railBy := p } else s
    else if (s.voters die).contains d.railBy && (s.part d.railBy).railVote == v then s
    else s.setDie die { d with railBy := p }

/-- What a share leaves: share − lent + borrowed (R434, R445). -/
def Part.watts (x : Part) : Nat := x.share - x.lent + x.borrowed

/-- The effective package cap (R434). -/
def State.packageCap (s : State) : Nat := min s.cap s.share.watts

/-- A partition's cap, scaled where the effective package cap is below the sum of shares (R445, R446). -/
def State.partCap (s : State) (p : Nat) : Nat :=
  let sum := ((List.range 64).map fun q => (s.part q).share).sum
  if s.packageCap < sum then (s.part p).watts * s.packageCap / sum else (s.part p).watts

/-- The partitions whose demand, a free value each (log 8), is above their cap. -/
def State.overCap (s : State) : List Nat → Nat × State
  | [] => (0, s)
  | p :: r =>
    let (demand, s) := s.draw (2 ^ 16)
    let (m, s) := s.overCap r
    (m + if demand > s.partCap p then 2 ^ p else 0, s)

/-- The governor's division of the cap and what it does at its reference tick (R22, R30, R31, R445): the die's share is any
that keeps the shares within the effective cap, and the demand it meets is the sensors', both free (log 8). Above the share, or
a partition's cap, refills and grants are held back. -/
def State.pace (s : State) (die : Nat) : State :=
  let others := ((List.range 4).map fun d => if d = die then 0 else (s.dieSt d).capShare).sum
  let (w, s) := s.draw (s.packageCap - others + 1)
  let (demand, s) := s.draw (2 ^ 16)
  let (m, s) := s.overCap ((List.range 64).filter fun p => (List.range 16).any fun i => (s.part p).ownsStack (16 * die + i))
  s.setDie die { s.dieSt die with cap := s.packageCap, capShare := w, paced := decide (demand > w), pacedParts := m }

/-- RAIL_STEP: each reference tick the rail steps 5 mV toward its target, and the governor takes the cap. -/
def execRailStep (die : Nat) (s : State) : Host.Outcome State Fault Refusal :=
  let d := s.dieSt die
  if decide (die ≥ 4) || decide (d.ref / 1024 ≤ d.railSteps) then .next s
  else
    let s := s.railAim die
    let d := s.dieSt die
    let level := if d.rail < d.railTo then d.rail + 1 else if d.rail > d.railTo then d.rail - 1 else d.rail
    .next ((s.setDie die { d with rail := level, railSteps := d.railSteps + 1 }).pace die)

/-! ## Ownership (R436 to R438) -/

/-- A domain slot of the partition routes over a link. -/
def State.domainUses (s : State) (p k : Nat) : Bool :=
  s.doms.any fun e =>
    e.2.st != .idle && s.partOfCtx e.2.ctx == p &&
      e.2.group.any fun g => g.2.valid && g.2.fabric != Config.fabricId && (s.routeOf p g.2.fabric).map Prod.fst == some k

/-- A team or an evicted image of the partition names a stack. -/
def State.stackNamed (s : State) (p k : Nat) : Bool :=
  s.teams.any fun e => s.partOfCtx e.2.ctx == p && stackOfCore e.2.core == k &&
    (e.2.image.isSome || e.2.here)

/-- The rules of R438 for bit `b` of word `w`. -/
def State.ownBitOk (s : State) (p w old new b : Nat) : Bool :=
  if new.testBit b && !old.testBit b then (List.range 64).all fun o => o == p || !(s.part o).owns w b
  else if !new.testBit b && old.testBit b then
    (w != 0 || !s.stackNamed p b) && (w < 11 || s.qQuiet (64 * (w - 11) + b)) &&
      (w != 10 || b ≥ 16 || !s.domainUses p b)
  else true

/-- PAR_OWN_WRITE: refused whole where one bit breaks a rule; reserved bits ignore the write. -/
def execParOwnWrite (fn p w : Nat) (value : W64) (s : State) : Host.Outcome State Fault Refusal :=
  let x := s.part p
  let old := x.own.get 0 w
  let new := value.toNat &&& ownAll w
  if !s.ready then .next s
  else if fn ≠ 0 ∨ p ≥ 64 ∨ w ≥ 27 then .next (s.refuseWrite fn)
  else if (List.range 64).all fun b => s.ownBitOk p w old new b then
    .next (s.setPart p { x with own := x.own.put w new })
  else .next (s.refuseWrite fn)

/-! ## Virtual functions (R442 to R444) -/

def State.vfResult (s : State) (f r : Nat) : State := s.setVf f { s.vf f with result := r }

/-- A command of VF_CTL, by the physical function only. -/
def State.vfCommand (s : State) (fn f : Nat) (g : Vf → State) : State :=
  if !s.ready then s else if fn ≠ 0 ∨ f = 0 ∨ f ≥ 64 then s.refuseWrite fn else g (s.vf f)

/-- Why a function may not become ACTIVE: 2 no save area, 3 its queues, 4 another function of its partition (R443). -/
def State.vfBar (s : State) (f : Nat) : Option Nat :=
  let x := s.vf f
  let others := s.vfs.filter fun e => e.1 != f && e.2.st != .off
  let qs := (List.range x.qcount).map (x.qbase + ·)
  if others.any fun e => e.2.part == x.part && (e.2.st == .active || e.2.st == .suspending) then some 4
  else if qs.any fun q => decide (q ≥ 1024) || !(s.part x.part).ownsQueue q ||
      others.any fun e => decide (e.2.qbase ≤ q) && decide (q < e.2.qbase + e.2.qcount) then some 3
  else if x.save = 0 then some 2
  else none

/-- ACTIVATE. -/
def execActivate (fn f : Nat) (s : State) : Host.Outcome State Fault Refusal :=
  .next (s.vfCommand fn f fun x =>
    if x.st != .off then s.vfResult f 2
    else match s.vfBar f with
      | some r => s.vfResult f r
      | none => s.setVf f { x with st := .active, result := 1 })

/-- Contexts created through a function. -/
def State.ctxsOf (s : State) (f : Nat) : List (Nat × Ctx) := s.ctxs.filter fun e => e.2.fn == f && e.2.st != .free

/-- The progress word of an interrupted evict command (R444); zero where none was. -/
def State.progressOf (s : State) (f : Nat) : Nat :=
  match List.find? (fun e => e.2.cmd == 4) (s.ctxsOf f) with
  | some e => e.2.cmdTeams % 2 ^ 16 * 2 ^ 24 + e.1 * 2 ^ 12 + 4 * 2 ^ 8 + 1
  | none => 0

/-- A context held; its command stops. -/
def State.holdCtx (s : State) (c : Nat) : State :=
  let x := s.ctx c
  if x.st == .teardown || x.st == .dead then s else s.setCtx c { x with held := true, cmd := 0 }

/-- SUSPEND: no further command starts, the interrupted command's progress is written, every team's eviction is ordered, and
the contexts are held. -/
def execSuspend (fn f : Nat) (s : State) : Host.Outcome State Fault Refusal :=
  .next (s.vfCommand fn f fun x =>
    if x.st != .active then s.vfResult f 2
    else
      let w := s.progressOf f
      let cs := s.ctxsOf f
      let was := (cs.filter fun e => e.2.held).map Prod.fst
      let s := s.writeMem (x.save * 4096) (leBytes 8 w)
      let s := cs.foldl (fun s e => s.holdCtx e.1) s
      let s := s.orderEviction ((s.teams.filter fun e =>
        (s.ctx e.2.ctx).fn == f && e.2.image.isNone && !e.2.retired).map Prod.fst)
      s.setVf f { x with st := .suspending, result := 1, progress := w, wasHeld := was })

/-- VF_SUSPENDED: the last team is evicted; the function's registers are saved, in bytes whose layout is not given
(log 10). -/
def execVfSuspended (f : Nat) (s : State) : Host.Outcome State Fault Refusal :=
  let x := s.vf f
  let left := s.teams.any fun e => (s.ctx e.2.ctx).fn == f && (s.ctx e.2.ctx).st != .teardown && e.2.here
  if x.st != .suspending || left then .next s
  else
    let s := s.writeMem (x.save * 4096 + 8) (freeBytes s.free 4088)
    .next (({ s with free := s.free + 4088 } : State).setVf f { x with st := .suspended })

/-- A context takes back what it was before the suspend. -/
def State.unholdCtx (s : State) (f c : Nat) : State :=
  s.setCtx c { s.ctx c with held := (s.vf f).wasHeld.contains c }

/-- Go on with the command that the progress word names (R444). -/
def State.continueCmd (s : State) (f w : Nat) : State :=
  let c := bitsN w 23 12
  if w.testBit 0 && bitsN w 11 8 == 4 && (s.ctx c).fn == f && (s.ctx c).st != .free then
    (s.setCtx c { s.ctx c with held := true, cmd := 4, cmdTeams := bitsN w 39 24 }).settleCmd c
  else s

/-- VF_RESUME: each context returns to its held or unheld state, and an interrupted command goes on. -/
def execVfResume (fn f : Nat) (s : State) : Host.Outcome State Fault Refusal :=
  .next (s.vfCommand fn f fun x =>
    if x.st != .suspended then s.vfResult f 2
    else match s.vfBar f with
      | some r => s.vfResult f r
      | none =>
        let w := s.readMem (x.save * 4096) 8
        let s := (s.ctxsOf f).foldl (fun s e => s.unholdCtx f e.1) s
        let s := s.setVf f { x with st := .active, result := 1, progress := 0, wasHeld := [] }
        s.continueCmd f w)

/-- DISABLE: every context of the function is FREE. -/
def execDisable (fn f : Nat) (s : State) : Host.Outcome State Fault Refusal :=
  .next (s.vfCommand fn f fun x =>
    if (x.st == .active || x.st == .suspended) && (s.ctxsOf f).isEmpty then
      s.setVf f { x with st := .off, result := 1, progress := 0, wasHeld := [] }
    else s.vfResult f 2)

/-! ## Fair queueing (R440) -/

/-- Tags are kept in units of 1 / L, L the least common multiple of the weights 1 to 255: exact. -/
def sfqUnit : Nat := (List.range 255).foldl (fun l i => Nat.lcm l (i + 1)) 1

/-- The weight of a partition at a channel. -/
def State.sfqWeight (s : State) (ch p : Nat) : Nat := if (s.part p).ownsChan ch then max (s.part p).sfq 1 else 1

/-- BURST_ARRIVAL. -/
def execBurstArrival (ch p id : Nat) (s : State) : Host.Outcome State Fault Refusal :=
  if ch ≥ 304 ∨ p ≥ 64 then .next s
  else
    let c := s.chan ch
    let start := max c.v (c.f.get 0 p)
    .next (s.setChan ch { c with
      f := c.f.put p (start + 64 * (sfqUnit / s.sfqWeight ch p)), held := c.held ++ [{ p := p, id := id, start := start }] })

/-- The held burst with the least start tag; the lower partition, then the earlier, on a tie. -/
def leastBurst : List Burst → Option Burst
  | [] => none
  | b :: r =>
    match leastBurst r with
    | some c => if b.start < c.start ∨ (b.start = c.start ∧ b.p ≤ c.p) then some b else some c
    | none => some b

/-- A list without its first element equal to `b`. -/
def dropBurst (b : Burst) : List Burst → List Burst
  | [] => []
  | x :: r => if x = b then r else x :: dropBurst b r

/-- BURST_SERVE: a quiet lease holds every burst (R400). -/
def execBurstServe (ch : Nat) (s : State) : Host.Outcome State Fault Refusal :=
  let c := s.chan ch
  if c.leaseEnd.isSome then .next s
  else
    match leastBurst c.held with
    | some b => .next (s.setChan ch { c with v := b.start, held := dropBurst b c.held })
    | none => .next s

/-! ## Snapshots and export (R450, R451) -/

/-- A trigger: SNP_SEQ rises, and every block latches. -/
def State.trigger (s : State) : State :=
  let n := (s.snpSeq + 1) % 2 ^ 32
  { s with
    snpSeq := n
    snap := some {
      seq := n, headClock := s.headClock, errs := s.errs, regEvents := s.regEvents, matStall := s.matStall,
      stks := s.stks, dies := s.dies, links := s.links, ctxs := s.ctxs, cores := s.cores, queues := s.queues
      chans := s.chans, scores := s.scores, doms := s.doms } }

/-- SNP_TRIGGER: by the physical function only. -/
def execSnpTrigger (fn : Nat) (s : State) : Host.Outcome State Fault Refusal :=
  if !s.ready then .next s else if fn ≠ 0 then .next (s.refuseWrite fn) else .next s.trigger

/-- Sixteen bytes of a signed number. -/
def int16Bytes (x : Int) : List Byte := leBytes 16 (x % 2 ^ 128).toNat

/-- The accounts of some contexts, summed. -/
def sumAccounts (cs : List Ctx) : List Byte :=
  leBytes 16 (cs.map Ctx.charged).sum ++ int16Bytes (cs.foldl (fun n c => n + c.correction) 0) ++
    leBytes 16 (cs.map Ctx.footprint).sum ++ leBytes 16 (cs.map Ctx.filler).sum

/-- The 1,408 bytes of a record: the signature's are free (log 11). -/
def State.exportBytes (s : State) (kind part ctx : Nat) (accounts : List Byte) : List Byte :=
  leBytes 8 s.expSeq ++ leBytes 1 kind ++ leBytes 1 part ++ leBytes 2 ctx ++ leBytes 4 s.snpSeq ++ accounts ++
    leBytes 16 Config.moduleSerial ++ leBytes 32 0 ++ freeBytes s.free 1280

def State.exportStatus (s : State) (fn n : Nat) : State := (s.setVf fn { s.vf fn with expStatus := n }).raiseIrq fn 1

/-- An export by a function: refused, or the record written on a writable world-0 page of the context, or a fault. -/
def State.exportRun (s : State) (fn ctx kind : Nat) (accounts : State → List Byte) : State :=
  if !s.ready then s
  else if !s.fnLive fn then s.refuseWrite fn
  else
    let s := s.setVf fn { s.vf fn with expCtx := ctx, expStatus := 0 }
    if !s.reachC fn ctx || (s.ctx ctx).st == .free then s.exportStatus fn 2
    else
      let s := s.trigger
      let va := (s.vf fn).expDst * 4096
      let part := s.partOfCtx ctx
      let bytes := s.exportBytes kind part (if kind = 2 then 0xFFFF else ctx) (accounts s)
      match s.headLeaf ctx va .write with
      | none => s.exportStatus fn 3
      | some e =>
        if va / 2 ^ 56 ≠ 0 || pteWorld e.2 != 0 then s.exportStatus fn 3
        else
          match s.headWrite ctx va bytes with
          | some s => ({ s with expSeq := s.expSeq + 1, free := s.free + 1280 } : State).exportStatus fn 1
          | none => s.exportStatus fn 3

/-- EXPORT_CONTEXT. -/
def execExportContext (fn ctx : Nat) (s : State) : Host.Outcome State Fault Refusal :=
  .next (s.exportRun fn ctx 1 fun s => sumAccounts [s.ctx ctx])

/-- EXPORT_PARTITION: every context of the partition that is not FREE. -/
def execExportPartition (fn ctx : Nat) (s : State) : Host.Outcome State Fault Refusal :=
  .next (s.exportRun fn ctx 2 fun s =>
    sumAccounts ((s.ctxs.filter fun e => e.2.st != .free && s.partOfCtx e.1 == s.partOfCtx ctx).map Prod.snd))

end Sys2Proof.Machine
end

