-- ==== Sys2Proof/Machine/Regs.lean ====
section
/-! DEFINITION. Device registers: what each reads (R448 and the chapters that give the maps), what a write of each does with
its limits (R355, R374, R394, R414, R421, R434, R441, R445, R455, R460), where they lie (R453, R494), and the readback
of snapshots (R451). -/

namespace Sys2Proof.Machine

open Sys2Proof

/-! ## Where registers lie (R453, R494) -/

/-- The register of a block region at an offset (R494); 128-bit registers lie in no block region. -/
def regAt (b off : Nat) : Option Reg :=
  let i := off / 8
  if off % 8 ≠ 0 then none
  else match b with
  | 0 => if i = 0 then some .hrnClock else none
  | 1 =>
    if i = 0 then some .govCap else if i < 5 then some (.govMatbudget (i - 1)) else if i = 5 then some .govShare
    else if i < 10 then some (.govRail (i - 6)) else none
  | 2 =>
    if i < 64 then some (.stkClass i) else if i < 128 then some (.stkImbal (i - 64))
    else if i < 192 then some (.stkState (i - 128)) else none
  | 3 =>
    if i < 256 then some (.coreSram i) else if i < 1280 then some (.coreRegEvents ((i - 256) / 4) ((i - 256) % 4))
    else if i < 1536 then some (.coreMatstall (i - 1280)) else none
  | 4 =>
    if i < 16 then some (.lnkCtl i) else if i < 32 then some (.lnkStatus (i - 16))
    else if i < 288 then some (.lnkRoute (i - 32)) else none
  | 5 =>
    if i < 16 then some (.domCtl i) else if i < 1040 then some (.domGroup ((i - 16) / 64) ((i - 16) % 64))
    else if i < 1056 then some (.domExport (i - 1040)) else if i < 1072 then some (.domLimit (i - 1056)) else none
  | 6 =>
    if i < 1728 then some (.parOwn (i / 27) (i % 27)) else if i < 1792 then some (.parCtl (i - 1728))
    else if i < 1856 then some (.parPower (i - 1792)) else none
  | 7 => if i < 4 then some (.awlCtl i) else if i < 580 then some (.awlScore (i - 4)) else none
  | 8 => if i < 1040 then some (.errCount (i / 16) (i % 16)) else none
  | 9 => if i < 4 then some (.scrubProgress i) else none
  | 10 => match i with
    | 0 => some .snpTrigger | 1 => some .snpSeq | 2 => some .snpReadAddr | 3 => some .snpReadData | _ => none
  | 11 =>
    if i = 0 then some .rndStatus else if i < 5 then some (.rndDieworld (i - 1))
    else if i < 69 then some (.rndExport (i - 5)) else if i < 133 then some (.rndExportDst (i - 69)) else none
  | 12 => if i < 64 then some (.pgFaultRing i) else if i < 128 then some (.pgFaultIdx (i - 64)) else none
  | 13 => if i < 128 then some (.mtrWeight (i / 32) (i % 32)) else none
  | 14 =>
    if i = 0 ∨ i = 64 then none else if i < 64 then some (.vfCtl i) else if i < 128 then some (.vfSave (i - 64)) else none
  | _ => none

/-- The register of a function's BAR at an offset, and whether the upper half of a 128-bit register is meant (R453). -/
def State.barReg (s : State) (fn off : Nat) : Option (Reg × Bool) :=
  if off % 8 ≠ 0 then none
  else if off < 0x1000000 then
    match off / 8 with
    | 0 => some (.rndStatus, false)
    | 1 => if fn = 0 then none else some (.vfCtl fn, false)
    | 2 => if fn = 0 then none else some (.vfSave fn, false)
    | 3 => some (.rndExport fn, false)
    | 4 => some (.rndExportDst fn, false)
    | _ => none
  else if off < 0x2000000 then
    let i := (off - 0x1000000) / 0x40
    let q := if fn = 0 then i else (s.vf fn).qbase + i
    match (off % 0x40) / 8 with
    | 0 => some (.qCtl q, false) | 1 => some (.qRing q, false) | 2 => some (.qIdx q, false)
    | 3 => some (.qQuantum q, false) | 4 => some (.qDeficit q, false) | 5 => some (.qThresh q, false)
    | 6 => some (.qStatus q, false) | _ => none
  else if off < 0x4000000 then
    let c := (off - 0x2000000) / 0x100
    if c ≥ 4096 then none
    else match (off % 0x100) / 8 with
    | 0 => some (.ctxCtl c, false) | 1 => some (.ctxBucket c, false) | 2 => some (.ctxRefill c, false)
    | 3 => some (.ctxSave c, false) | 4 => some (.ctxPtRoot c, false) | 5 => some (.ctxSvcRing c, false)
    | 6 => some (.ctxSvcIdx c, false) | 7 => some (.ctxIrq c, false)
    | n => if n < 16 then some (.ctxAcct c ((n - 8) / 2), n % 2 == 1) else none
  else if fn = 0 then (regAt ((off - 0x4000000) / 0x100000) ((off - 0x4000000) % 0x100000)).map fun r => (r, false)
  else none

/-! ## Reach (R442) -/

/-- A register of the device's index range. -/
def regExists : Reg → Bool
  | .govMatbudget d | .govRail d | .awlCtl d | .scrubProgress d | .rndDieworld d => d < 4
  | .stkClass k | .stkImbal k | .stkState k => k < 64
  | .coreSram c | .coreMatstall c => c < 256
  | .coreRegEvents c q => c < 256 && q < 4
  | .lnkCtl k | .lnkStatus k => k < 16
  | .lnkRoute e => e < 256
  | .domCtl m | .domExport m | .domLimit m => m < 16
  | .domGroup m j => m < 16 && j < 64
  | .parOwn p w => p < 64 && w < 27
  | .parCtl p | .parPower p => p < 64
  | .awlScore k => k < 576
  | .errCount p e => p < 65 && e < 16
  | .rndExport f | .rndExportDst f | .pgFaultRing f | .pgFaultIdx f => f < 64
  | .vfCtl f | .vfSave f => f != 0 && f < 64
  | .mtrWeight k e => k < 4 && e < 32
  | .qCtl q | .qRing q | .qIdx q | .qQuantum q | .qDeficit q | .qThresh q | .qStatus q => q < 1024
  | .ctxCtl c | .ctxBucket c | .ctxRefill c | .ctxSave c | .ctxPtRoot c | .ctxSvcRing c | .ctxSvcIdx c | .ctxIrq c =>
    c < 4096
  | .ctxAcct c a => c < 4096 && a < 4
  | _ => true

/-- The unit whose owner reaches the register, as a word and bit of R437. -/
def regUnit : Reg → Option (Nat × Nat)
  | .stkClass k | .stkImbal k | .stkState k => some (0, k)
  | .coreSram c | .coreMatstall c | .coreRegEvents c _ => some (0, stackOfCore c)
  | .lnkCtl k | .lnkStatus k => some (10, k)
  | .awlScore k =>
    if k < 256 then some (0, stackOfCore k) else if k < 272 then some (10, k - 256)
    else if k < 528 then some (5, k - 272) else some (9, k - 528)
  | _ => none

/-- A function reaches a register (R442, R453, R458). -/
def State.reachR (s : State) (fn : Nat) (r : Reg) : Bool :=
  match r with
  | .rndStatus => true
  | _ =>
    s.ready && regExists r && (fn == 0 || (s.vf fn).st != .off) &&
    match r with
    | .qCtl q | .qRing q | .qIdx q | .qQuantum q | .qDeficit q | .qThresh q | .qStatus q => s.reachQ fn q
    | .ctxCtl c | .ctxBucket c | .ctxRefill c | .ctxSave c | .ctxPtRoot c | .ctxSvcRing c | .ctxSvcIdx c | .ctxIrq c
    | .ctxAcct c _ => s.reachC fn c
    | .domCtl m | .domGroup m _ | .domExport m | .domLimit m => s.reachD fn m
    | .rndExport f | .rndExportDst f | .pgFaultRing f | .pgFaultIdx f | .vfCtl f | .vfSave f => fn == 0 || f == fn
    | .errCount p _ | .parOwn p _ | .parCtl p | .parPower p => fn == 0 || p == s.partOfFn fn
    | _ => fn == 0 || (match regUnit r with | some (w, i) => (s.part (s.partOfFn fn)).owns w i | none => false)

/-- Registers that only the physical function writes. -/
def pfOnlyReg : Reg → Bool
  | .govCap | .govMatbudget _ | .govShare | .stkClass _ | .coreSram _ | .lnkCtl _ | .lnkRoute _ | .parOwn .. | .parCtl _
  | .parPower _ | .awlCtl _ | .awlScore _ | .rndDieworld _ | .snpTrigger | .snpReadAddr | .vfCtl _ | .vfSave _ => true
  | _ => false

/-! ## Reads -/

/-- A signed value in a field of `n` bits. -/
def sfield (n : Nat) (x : Int) : Nat := (x % 2 ^ n).toNat

def LinkState.code : LinkState → Nat
  | .down => 0 | .train => 1 | .secure => 2 | .up => 3 | .loop => 4 | .failed => 5 | .retired => 6

def DomState.code : DomState → Nat
  | .idle => 0 | .forming => 1 | .up => 2 | .broken => 3 | .rekey => 4

def CtxState.code : CtxState → Nat
  | .free => 0 | .ready => 1 | .active => 2 | .parked => 3 | .evicted => 4 | .faulted => 5 | .teardown => 6 | .dead => 7

def VfState.code : VfState → Nat
  | .off => 0 | .active => 1 | .suspending => 2 | .suspended => 3

/-- The copies of a counter that a function reads: its partition's, or all (R448). -/
def State.copiesFor (s : State) (fn : Nat) : List Nat := if fn = 0 then List.range 64 else [s.partOfFn fn]

/-- Two 32-bit counts, summed over copies, saturating. -/
def pairOf (t : Tbl Nat) (key : Nat → Nat → Nat) (ps : List Nat) : Nat :=
  min 0xFFFFFFFF (ps.map fun p => t.get 0 (key p 1)).sum * 2 ^ 32 + min 0xFFFFFFFF (ps.map fun p => t.get 0 (key p 0)).sum

def bit01 (b : Bool) (n : Nat) : Nat := if b then 2 ^ n else 0

def Part.powerWord (x : Part) : Nat :=
  x.borrowed % 2 ^ 16 * 2 ^ 48 + x.lent % 2 ^ 16 * 2 ^ 32 + x.reserve * 2 ^ 16 + x.share

/-- What a register reads through a function that reaches it; the readback register is read by its own step. -/
def State.regVal (s : State) (fn : Nat) (r : Reg) : Nat :=
  match r with
  | .hrnClock => s.headClock % 2 ^ 64
  | .govCap => s.cap
  | .govMatbudget d => (s.dieSt d).budget
  | .govShare => s.share.powerWord
  | .govRail d => (s.dieSt d).railBy * 2 ^ 24 + (s.dieSt d).railTo * 2 ^ 8 + (s.dieSt d).rail
  | .stkClass k => let x := s.stackSt k; bit01 (x.pool != x.cls) 9 + x.cls * 2 ^ 4 + x.pool
  | .stkImbal k => ((List.range 4).map fun t => sfield 16 ((s.stackSt k).imbal.getD t 0) * 2 ^ (16 * t)).sum
  | .stkState k =>
    let x := s.stackSt k
    x.throttled * 2 ^ 32 + x.fill * 2 ^ 16 + bit01 x.retention 9 + bit01 x.retired 8 + x.shunt * 2 ^ 4 + x.throttle
  | .coreSram c => (s.coreSt c).scratch
  | .coreRegEvents c q => pairOf s.regEvents (regEvKey c q) (s.copiesFor fn)
  | .coreMatstall c => pairOf s.matStall (matKey c) (s.copiesFor fn)
  | .lnkCtl k => let l := s.link k; l.hbMiss * 2 ^ 16 + l.hbLog * 2 ^ 8 + bit01 l.enable 0
  | .lnkStatus k => let l := s.link k; l.tagFail * 2 ^ 48 + l.retries * 2 ^ 32 + l.peer * 2 ^ 16 + l.st.code
  | .lnkRoute e => s.routes.get 0x100 e
  | .domCtl m =>
    let d := s.dom m
    d.ctx * 2 ^ 36 + d.rank % 64 * 2 ^ 26 + d.epoch * 2 ^ 16 + d.result * 2 ^ 8 + d.st.code
  | .domGroup m j =>
    let e := (s.dom m).group.get {} j
    e.fabric * 2 ^ 16 + bit01 e.self 3 + bit01 e.spare 2 + bit01 e.live 1 + bit01 e.valid 0
  | .domExport m => (s.dom m).export_
  | .domLimit m => (s.dom m).limit
  | .parOwn p w => (s.part p).own.get 0 w
  | .parCtl p =>
    let x := s.part p
    x.sfq * 2 ^ 48 + x.railVote * 2 ^ 40 + x.worlds * 2 ^ 24 + bit01 x.band0 19
  | .parPower p => (s.part p).powerWord
  | .awlCtl d => let x := s.dieSt d; x.overdue * 2 ^ 48 + x.graceLog * 2 ^ 8 + x.periodNew
  | .awlScore k => let x := s.scoreOf k; bit01 x.pending 17 + bit01 x.retired 16 + x.score
  | .errCount p e => s.errs.get 0 (64 * p + e)
  | .scrubProgress d => let x := s.dieSt d; bit01 x.busy 33 + bit01 x.scrubDone 32 + x.cores
  | .snpTrigger => 0
  | .snpSeq => s.snpSeq
  | .snpReadAddr => s.snpAddr
  | .snpReadData => 0
  | .rndStatus => bit01 (decide (s.log.length > Config.logRoom)) 16 + s.rndKind * 2 ^ 8 + s.rndPhase
  | .rndDieworld d => (s.dieSt d).latched * 2 ^ 8 + (s.dieSt d).target
  | .rndExport f => (s.vf f).expCtx * 2 ^ 16 + (s.vf f).expStatus * 2 ^ 8
  | .rndExportDst f => (s.vf f).expDst * 2 ^ 12
  | .pgFaultRing f => (s.ring f).base + (s.ring f).log2
  | .pgFaultIdx f => (s.ring f).cons * 2 ^ 32 + (s.ring f).prod
  | .mtrWeight k e => Config.weight k e
  | .vfCtl f =>
    let x := s.vf f
    x.qcount * 2 ^ 42 + x.qbase * 2 ^ 32 + x.part * 2 ^ 24 + x.result * 2 ^ 8 + x.st.code
  | .vfSave f => (s.vf f).save * 2 ^ 12
  | .qCtl q => let x := s.queue q; x.ctx * 2 ^ 32 + x.band * 2 ^ 2 + bit01 x.priv 1 + bit01 x.enable 0
  | .qRing q => (s.queue q).base + (s.queue q).log2
  | .qIdx q => (s.queue q).cons * 2 ^ 32 + (s.queue q).prod
  | .qQuantum q => (s.queue q).quantum
  | .qDeficit q => sfield 64 (s.queue q).deficit
  | .qThresh q => (s.queue q).thresh
  | .qStatus q =>
    let c := if s.qState q < 2 then 0 else (s.causes q).foldl (fun b x => if b = 0 ∨ x < b then x else b) 0
    c * 2 ^ 8 + bit01 (s.urgentNow q) 7 + s.qState q
  | .ctxCtl c => let x := s.ctx c; x.keySlot * 2 ^ 48 + x.world * 2 ^ 44 + x.st.code * 2 ^ 32 + x.result * 2 ^ 8
  | .ctxBucket c => sfield 64 (s.ctx c).level
  | .ctxRefill c => let x := s.ctx c; x.cap * 2 ^ 40 + x.rate * 2 ^ 16 + x.resume * 2 ^ 8
  | .ctxSave c => (s.ctx c).saveSize * 2 ^ 52 + (s.ctx c).saveBase * 2 ^ 12
  | .ctxPtRoot c => (s.ctx c).root * 2 ^ 13 + bit01 (s.ctx c).enable 0
  | .ctxSvcRing c => (s.ctx c).svcBase + (s.ctx c).svcLog
  | .ctxSvcIdx c => (s.ctx c).svcCons * 2 ^ 32 + (s.ctx c).svcProd
  | .ctxIrq c => bit01 (s.ctx c).irqEnable 8 + (s.ctx c).irqVector
  | .ctxAcct c a =>
    let x := s.ctx c
    match a with
    | 0 => x.charged % 2 ^ 96
    | 1 => sfield 96 x.correction
    | 2 => x.footprint % 2 ^ 96
    | _ => x.filler % 2 ^ 96

/-- Clear both halves of a counter's copies. -/
def clearPair (t : Tbl Nat) (key : Nat → Nat → Nat) (ps : List Nat) : Tbl Nat :=
  ps.foldl (fun t p => (t.erase (key p 0)).erase (key p 1)) t

/-- What a read of RC fields clears (R8, R448). -/
def State.clearRead (s : State) (fn : Nat) (r : Reg) : State :=
  match r with
  | .coreRegEvents c q => { s with regEvents := clearPair s.regEvents (regEvKey c q) (s.copiesFor fn) }
  | .coreMatstall c => { s with matStall := clearPair s.matStall (matKey c) (s.copiesFor fn) }
  | .errCount p e => { s with errs := s.errs.erase (64 * p + e) }
  | .lnkStatus k => s.setLink k { s.link k with tagFail := 0, retries := 0 }
  | .stkState k => s.setStack k { s.stackSt k with throttled := 0 }
  | .awlCtl d => s.setDie d { s.dieSt d with overdue := 0 }
  | _ => s

/-! ## Readback (R451) -/

/-- The machine with the counts that its blocks latched. -/
def State.latched (s : State) (x : Snap) : State :=
  { s with
    snpSeq := x.seq, headClock := x.headClock, errs := x.errs, regEvents := x.regEvents, matStall := x.matStall,
    stks := x.stks, dies := x.dies, links := x.links, ctxs := x.ctxs, cores := x.cores, queues := x.queues
    chans := x.chans, scores := x.scores, doms := x.doms }

/-- The readback of an address: block in bits 63:48, offset below. Offsets of R494 read the live register, and those with bit
47 set the latched one (log 15); what else a block holds has no offset in the spec, so its value is free (log 4). Block 3's other
offsets hold registers, latches, scratchpad and tiles of some core, any: of a die latched to a nonzero world they read
zero (R13). -/
def State.readback (s : State) (a : Nat) : Nat × State :=
  let off := a % 2 ^ 47
  let view := if a.testBit 47 then (match s.snap with | some x => s.latched x | none => s) else s
  match regAt (a / 2 ^ 48) off with
  | some r => (view.regVal 0 r, s)
  | none =>
    let (c, s) := s.draw 256
    if a / 2 ^ 48 = 3 ∧ (s.dieSt (dieOfCore c)).latched ≠ 0 then (0, s) else s.draw (2 ^ 64)

/-- A register read by software: zero where the function does not reach it, and a virtual function's readback refused and
counted besides (R451); the value goes to the reader. -/
def State.regRead (s : State) (fn : Nat) (r : Reg) (upper : Bool := false) : State :=
  if !s.reachR fn r then
    (if r == .snpReadData && s.ready then s.refuseWrite fn else s).send { kind := 20, dst := fn, words := [0] }
  else
    let (v, s) := match r with
      | .snpReadData => s.readback s.snpAddr
      | _ => (s.regVal fn r, s)
    (s.clearRead fn r).send { kind := 20, dst := fn, words := [if upper then v / 2 ^ 64 else v % 2 ^ 64] }

/-- COUNTER_READ_CLEAR. -/
def execCounterReadClear (fn : Nat) (reg : Reg) (s : State) : Host.Outcome State Fault Refusal := .next (s.regRead fn reg)

/-- SNP_READ: by the physical function; through a virtual one refused and counted. -/
def execSnpRead (fn : Nat) (addr : W64) (s : State) : Host.Outcome State Fault Refusal :=
  if !s.ready then .next s
  else if fn ≠ 0 then .next (s.refuseWrite fn)
  else
    let (v, s) := ({ s with snpAddr := addr.toNat } : State).readback addr.toNat
    .next (s.send { kind := 20, words := [v] })

/-! ## Writes -/

/-- A command that has a row of its own is the very next step (log 1). -/
def State.andThen (s : State) (i : Instr) : State := { s with agenda := .op i :: s.agenda }

/-- Some kernel of the context has not ended (R156, R201). -/
def State.kernelHere (s : State) (c : Nat) : Bool := s.kernels.any fun e => e.2.ctx == c && e.2.st != .done

/-- An address in HBM4 or LPDDR6 (R204). -/
def deviceRange (a n : Nat) : Bool := inDevice a (max n 1)

/-- A change of context state that a level may undo (R375). -/
def State.setLevel (s : State) (c : Nat) (x : Ctx) : State :=
  (s.setCtx c (if x.unmetered then { x with level := (x.cap * 2 ^ 30 : Nat) } else x)).unpark c

/-- Q_CTL (R355). -/
def State.writeQCtl (s : State) (q v : Nat) : Option State :=
  let x := s.queue q
  let c := bitsN v 43 32
  let band := bitsN v 3 2
  let priv := v.testBit 1
  let on := v.testBit 0
  let p := s.partOfQ q
  let st := (s.ctx c).st
  let quiet := s.qQuiet q
  if c ≠ x.ctx ∧ (!quiet || st == .free || st == .dead || s.partOfCtx c != p) then none
  else if band = 3 ∨ (band = 0 ∧ !(s.part p).band0) then none
  else if priv ≠ x.priv ∧ !quiet then none
  else if on && (st == .free || st == .teardown || st == .dead || s.partOfCtx c != p) then none
  else some ((s.setQueue q { x with ctx := c, band := band, priv := priv, enable := on }).settleQueue q)

/-- VF_CTL (R442): the fields, then the command. -/
def State.writeVfCtl (s : State) (f v : Nat) : Option State :=
  let x := s.vf f
  let n := bitsN v 52 42
  let b := bitsN v 41 32
  let p := bitsN v 29 24
  if n > 1024 ∨ (x.st ≠ .off ∧ (n ≠ x.qcount ∨ b ≠ x.qbase ∨ p ≠ x.part)) then none
  else
    let s := s.setVf f { x with qcount := n, qbase := b, part := p }
    match bitsN v 7 4 with
    | 0 => some s
    | 1 => some (s.andThen (.activate 0 f))
    | 2 => some (s.andThen (.suspend 0 f))
    | 3 => some (s.andThen (.vfResume 0 f))
    | 4 => some (s.andThen (.disable 0 f))
    | _ => some (s.vfResult f 2)

/-- CTX_CTL (R374): the world, then the command. -/
def State.writeCtxCtl (s : State) (fn c v : Nat) : Option State :=
  let x := s.ctx c
  let w := bitsN v 47 44
  if w ≠ x.world ∧ x.st ≠ .free then none
  else
    let s := s.setCtx c { x with world := w }
    match bitsN v 7 4 with
    | 0 => some s
    | 1 => some (s.andThen (.create fn c))
    | 2 => some (s.andThen (.teardown fn c))
    | 3 => some (s.andThen (.free fn c))
    | 4 => some (s.andThen (.evict fn c))
    | 5 => some (s.andThen (.resume fn c))
    | _ => some (s.ctxResult c 2)

/-- DOM_CTL (R421). -/
def State.writeDomCtl (s : State) (fn m v : Nat) : Option State :=
  let d := s.dom m
  let c := bitsN v 47 36
  if c ≠ d.ctx ∧ (d.st ≠ .idle ∨ (s.ctx c).st == .free ∨ s.partOfCtx c ≠ s.partOfFn fn) then none
  else
    let s := s.setDom m { d with ctx := c }
    match bitsN v 7 4 with
    | 0 => some s
    | 1 => some (s.andThen (.form fn m))
    | 2 => some (s.andThen (.leave fn m))
    | _ => some (s.domResult m 2)

/-- PAR_CTL (R441): a world bit is cleared only while no context of the partition has that world. -/
def State.writeParCtl (s : State) (p v : Nat) : Option State :=
  let x := s.part p
  let sfq := bitsN v 55 48
  let vote := bitsN v 47 40
  let worlds := bitsN v 39 24 ||| 1
  let used (w : Nat) : Bool := s.ctxs.any fun e => e.2.st != .free && s.partOfCtx e.1 == p && e.2.world == w
  if sfq = 0 ∨ (vote ≠ 0 ∧ (vote < 100 ∨ vote > 120)) then none
  else if (List.range 16).any fun w => x.worlds.testBit w && !worlds.testBit w && used w then none
  else
    let s := s.setPart p { x with sfq := sfq, railVote := vote, worlds := worlds, band0 := v.testBit 19 }
    some ((List.range 4).foldl (fun s d => s.railAim d) s)

/-- RND_EXPORT (R450): the context, then the kind. -/
def State.writeExport (s : State) (f v : Nat) : Option State :=
  let c := bitsN v 27 16
  let s := s.setVf f { s.vf f with expCtx := c }
  match bitsN v 7 4 with
  | 0 => some s
  | 1 => some (s.andThen (.exportContext f c))
  | 2 => some (s.andThen (.exportPartition f c))
  | _ => some (s.exportStatus f 2)

/-- Registers of contexts (R156, R201, R374, R455). -/
def State.writeCtxReg (s : State) (fn : Nat) (r : Reg) (v : Nat) : Option State :=
  match r with
  | .ctxCtl c => s.writeCtxCtl fn c v
  | .ctxBucket c => some (s.setLevel c { s.ctx c with level := (BitVec.ofNat 64 v).toInt })
  | .ctxRefill c =>
    some (s.setLevel c { s.ctx c with cap := bitsN v 63 40, rate := bitsN v 39 16, resume := bitsN v 15 8 })
  | .ctxSave c =>
    let n := bitsN v 63 52
    let b := bitsN v 51 12
    if s.teams.any (fun e => e.2.ctx == c && e.2.image.isSome) || !deviceRange (b * 4096) (n * 4096) then none
    else some (s.setCtx c { s.ctx c with saveSize := n, saveBase := b })
  | .ctxPtRoot c =>
    if s.kernelHere c then none
    else some (s.setCtx c { s.ctx c with root := bitsN v 51 13, enable := v.testBit 0 })
  | .ctxSvcRing c =>
    if s.kernelHere c then none
    else some (s.setCtx c { s.ctx c with svcBase := v / 4096 * 4096, svcLog := bitsN v 4 0 })
  | .ctxSvcIdx c =>
    let x := s.ctx c
    let n := bitsN v 63 32
    if (x.svcProd + 2 ^ 32 - n) % 2 ^ 32 > svcEntries x then some (s.countErrCtx c 1)
    else some (s.setCtx c { x with svcCons := n })
  | .ctxIrq c =>
    if bitsN v 5 0 < 3 then none
    else some (s.setCtx c { s.ctx c with irqEnable := v.testBit 8, irqVector := bitsN v 5 0 })
  | _ => some s

/-- Registers of queues and functions (R215, R355, R442, R450). -/
def State.writeQueueReg (s : State) (fn : Nat) (r : Reg) (v : Nat) : Option State :=
  match r with
  | .qCtl q => s.writeQCtl q v
  | .qRing q =>
    let x := s.queue q
    if (v / 4096 * 4096 ≠ x.base ∨ bitsN v 4 0 ≠ x.log2) ∧ !s.qQuiet q then none
    else some (s.setQueue q { x with base := v / 4096 * 4096, log2 := bitsN v 4 0 })
  | .qIdx q => some (s.andThen (.doorbell fn q (BitVec.ofNat 32 v)))
  | .qQuantum q => if v = 0 ∨ v ≥ 2 ^ 62 then none else some (s.setQueue q { s.queue q with quantum := v })
  | .qThresh q => some (s.setQueue q { s.queue q with thresh := v })
  | .pgFaultRing f =>
    let x := s.ring f
    if x.cons ≠ x.prod then none
    else some (s.setRing f { x with base := v / 4096 * 4096, log2 := bitsN v 4 0 })
  | .pgFaultIdx f => some (s.setRing f { s.ring f with cons := bitsN v 63 32 })
  | .vfCtl f => s.writeVfCtl f v
  | .vfSave f =>
    let b := bitsN v 51 12
    if (s.vf f).st ≠ .off ∨ (b ≠ 0 ∧ !deviceRange (b * 4096) 4096) then none
    else some (s.setVf f { s.vf f with save := b })
  | .rndExport f => s.writeExport f v
  | .rndExportDst f => some (s.setVf f { s.vf f with expDst := bitsN v 56 12 })
  | _ => some s

/-- Registers of blocks, dies and links (R19, R27, R31, R305, R394, R414, R421, R434, R445, R460). -/
def State.writeBlockReg (s : State) (fn : Nat) (r : Reg) (v : Nat) : Option State :=
  match r with
  | .govCap => some { s with cap := max 1000 (min 3000 (bitsN v 11 0)) }
  | .govMatbudget d => some (s.setDie d { s.dieSt d with budget := bitsN v 7 0 })
  | .govShare =>
    let w := bitsN v 15 0
    if w < 1000 ∨ w > 3000 then none else some { s with share := { s.share with reserve := bitsN v 31 16, share := w } }
  | .stkClass k => some (s.setStack k { s.stackSt k with pool := bitsN v 1 0 })
  | .coreSram c =>
    if (s.teamsOn c).any (fun e => e.2.here) || decide (bitsN v 3 0 > 14) then none
    else some (s.setCore c { s.coreSt c with scratch := bitsN v 3 0 })
  | .lnkCtl k => some (s.andThen (.linkEnable fn k (BitVec.ofNat 64 v)))
  | .lnkRoute e =>
    if bitsN v 11 8 = 0 then none
    else some { s with routes := s.routes.set 0x100 e (bitsN v 31 8 * 2 ^ 8 + bitsN v 0 0) }
  | .domCtl m => s.writeDomCtl fn m v
  | .domGroup m j =>
    let d := s.dom m
    if d.st ≠ .idle then none
    else
      let e : DomEntry := { fabric := bitsN v 31 16, spare := v.testBit 2, valid := v.testBit 0 }
      some (s.setDom m { d with group := d.group.set {} j e })
  | .domExport m =>
    let d := s.dom m
    if d.st ≠ .idle then none else some (s.setDom m { d with export_ := bitsN v 56 0 })
  | .domLimit m => some (s.setDom m { s.dom m with limit := bitsN v 49 0 })
  | .parOwn p w => some (s.andThen (.parOwnWrite fn p w (BitVec.ofNat 64 v)))
  | .parCtl p => s.writeParCtl p v
  | .parPower p =>
    let x := s.part p
    let others := ((List.range 64).map fun o => if o = p then 0 else (s.part o).share).sum
    if others + bitsN v 15 0 > s.cap then none
    else some (s.setPart p { x with reserve := bitsN v 31 16, share := bitsN v 15 0 })
  | .awlCtl d =>
    let g := bitsN v 15 8
    let p := bitsN v 7 0
    if g < 16 ∨ g > 30 ∨ p < 36 ∨ p > 44 then none
    else some (s.setDie d { s.dieSt d with graceLog := g, periodNew := p })
  | .awlScore k => some (if v.testBit 17 then s.andThen (.confirmChannelRetirement fn k) else s)
  | .rndDieworld d => some (s.andThen (.dieWorldRequest fn d (BitVec.ofNat 4 v)))
  | .snpTrigger => some (s.andThen (.snpTrigger fn))
  | .snpReadAddr => some { s with snpAddr := v }
  | _ => some s

def isCtxReg : Reg → Bool
  | .ctxCtl _ | .ctxBucket _ | .ctxRefill _ | .ctxSave _ | .ctxPtRoot _ | .ctxSvcRing _ | .ctxSvcIdx _ | .ctxIrq _
  | .ctxAcct .. => true
  | _ => false

def isQueueReg : Reg → Bool
  | .qCtl _ | .qRing _ | .qIdx _ | .qQuantum _ | .qDeficit _ | .qThresh _ | .qStatus _ | .pgFaultRing _ | .pgFaultIdx _
  | .vfCtl _ | .vfSave _ | .rndExport _ | .rndExportDst _ => true
  | _ => false

/-- What a write that reaches its register does; none where it breaks a limit. -/
def State.regWrite (s : State) (fn : Nat) (r : Reg) (v : Nat) : Option State :=
  if isCtxReg r then s.writeCtxReg fn r v else if isQueueReg r then s.writeQueueReg fn r v else s.writeBlockReg fn r v

/-- A function's window takes a write of the register: one that is not ACTIVE takes doorbells only (R443). -/
def State.takesWrite (s : State) (fn : Nat) (r : Reg) : Bool :=
  s.reachR fn r && (fn == 0 || !pfOnlyReg r) &&
    (s.fnLive fn || match r with | .qIdx _ => true | _ => false)

/-- REGISTER_WRITE: refused and counted where it does not reach or breaks a limit, the old value standing (R355, R449);
before READY no window answers (R458). -/
def execRegisterWrite (fn : Nat) (reg : Reg) (value : W64) (s : State) : Host.Outcome State Fault Refusal :=
  if !s.ready then .next s
  else if !s.takesWrite fn reg then .next (s.refuseWrite fn)
  else
    match s.regWrite fn reg value.toNat with
    | some s => .next s
    | none => .next (s.refuseWrite fn)

end Sys2Proof.Machine
end

