-- ==== Sys2Proof/Machine/Bringup.lean ====
section
/-! DEFINITION. Bring-up and resets (ch. 19): R454, R456 to R459, R34; and what the outside does to memory and clocks:
ECC errors (R279, R280, R401), replacement, host writes, ticks (R32). -/

namespace Sys2Proof.Machine

open Sys2Proof

/-! ## Bring-up (R458) -/

/-- A unit is in the repair map: it was retired before, or is of a stack that two retired tiers retire whole (R402, R404,
R405). -/
def State.inRepair (s : State) (k : Nat) : Bool :=
  (s.scoreOf k).retired ||
    decide (k < 256 ∧ 2 ≤ ((stackCores (stackOfCore k)).filter fun c => (s.scoreOf c).retired).length)

/-- The scores as the repair map leaves them. -/
def State.repairOf (s : State) : Tbl Score :=
  ((List.range 576).filter s.inRepair).map fun k => (k, { retired := true })

/-- A core's state as bring-up leaves it: retired by the map, and with the vector registers that the map removes in each
quarter, free (R35, log 14). -/
def State.bootCore (s : State) (c : Nat) : CoreSt :=
  { st := if s.inRepair c then .retired else .service
    removed := (List.range 4).map fun q => Config.freeNat (s.free + 4 * c + q) % 8193 }

/-- A stack as bring-up leaves it: retired tiers are shunted. -/
def State.bootStack (s : State) (k : Nat) : StackSt :=
  let gone := (List.range 4).filter fun t => s.inRepair (coreOf k t)
  { shunt := (gone.map fun t => 2 ^ t).sum, retired := gone.length = 4 }

def State.bootLink (s : State) (k : Nat) : LinkSt := { st := if (s.scoreOf (256 + k)).retired then .retired else .down }

/-- A die in its bring-up scrub (step 3). -/
def bootDie : DieSt := { busy := true, scrubDone := false, cores := 0 }

/-- Every register at its reset value, retirements standing; memory keeps its bytes (log 3), the flash its log, and Rind the
records it holds. -/
def State.reboot (s : State) : State :=
  let boot : State := State.reset
  { boot with
    free := s.free + 1024, next := s.next, mem := s.mem, sealKey := s.sealKey
    poison := s.poison, outbox := s.outbox, scores := s.repairOf,
    log := s.log, logHeld := s.logHeld, logSeq := s.logSeq
    cores := (List.range 256).map fun c => (c, s.bootCore c)
    stks := (List.range 64).map fun k => (k, s.bootStack k)
    links := (List.range 16).map fun k => (k, s.bootLink k) }

/-- FUNDAMENTAL_RESET: `bad` names the kind of the record that fails verification, 0 none. A failure leaves phase 7 and no die
released; else the records are loaded and every die's scrub begins (steps 1 to 3). -/
def execFundamentalReset (bad : Nat) (s : State) : Host.Outcome State Fault Refusal :=
  let s := s.reboot
  if 1 ≤ bad ∧ bad ≤ 6 then .next (({ s with rndKind := bad } : State).setPhase 7)
  else .next (({ s with dies := (List.range 4).map fun d => (d, bootDie) } : State).setPhase 2)

/-! ## Function-level resets (R459) -/

/-- A scrub that a reset meets starts again (R387). -/
def State.restartScrubs (s : State) : State :=
  (List.range 4).foldl (fun s d =>
    let x := s.dieSt d
    if x.busy then s.setDie d { x with cores := 0, scrubDone := false } else s) s

/-- Tear down every context of a list that has a life to end. -/
def State.tearAll (s : State) (cs : List (Nat × Ctx)) : State :=
  cs.foldl (fun s e => if e.2.st == .free || e.2.st == .dead || e.2.st == .teardown then s else s.tearDown e.1) s

/-- The reset of a virtual function. -/
def State.resetVf (s : State) (f : Nat) : State :=
  let s := (s.restartScrubs).tearAll (s.ctxsOf f)
  s.setVf f { s.vf f with st := .off, progress := 0, wasHeld := [] }

/-- The reset of the physical function: the partition table and every VF_CTL at their reset values. -/
def State.resetPf (s : State) : State :=
  let s := (s.restartScrubs).tearAll s.ctxs
  let off (x : Vf) : Vf := { x with st := .off, qcount := 0, qbase := 0, part := 0, result := 0, progress := 0, wasHeld := [] }
  { s with parts := [], links := s.links.filter fun e => e.1 < 16, vfs := s.vfs.map fun e => (e.1, off e.2) }

/-- VF_RESET: before READY it is held. -/
def execVfReset (f : Nat) (s : State) : Host.Outcome State Fault Refusal :=
  if f = 0 ∨ f ≥ 64 then .next s
  else if s.ready then .next (s.resetVf f)
  else .next { s with resets := s.resets ++ [f] }

/-- PF_RESET: before READY it is held. -/
def execPfReset (s : State) : Host.Outcome State Fault Refusal :=
  if s.ready then .next s.resetPf else .next { s with resets := s.resets ++ [0] }

/-- BRINGUP_READY: the channels have trained; the dies are released, vector 2 is raised, and held resets are applied. -/
def execBringupReady (s : State) : Host.Outcome State Fault Refusal :=
  if s.rndPhase = 3 then
    let held := s.resets
    let s := ({ s with resets := [] } : State).setPhase 4
    .next (held.foldl (fun s f => if f = 0 then s.resetPf else s.resetVf f) s)
  else .next s

/-- IDE_STREAM_KEYED (R454). -/
def execIdeStreamKeyed (f : Nat) (secure : Bool) (s : State) : Host.Outcome State Fault Refusal :=
  if f ≥ 64 then .next s else .next (s.setVf f { s.vf f with secure := secure })

/-! ## Errors and replacement (R279, R280, R401) -/

/-- The scored unit of a sector's ECC: the core beside its L2 slice where L2 holds the sector, else the channel. -/
def State.eccUnit (s : State) (pa : Nat) : Option Nat :=
  match s.l2.find? (pa / 128) with
  | some e => if e.valid.testBit (pa / 32 % 4) then some (sliceOf pa) else (chanOf pa).map (272 + ·)
  | none => (chanOf pa).map (272 + ·)

/-- An error is found: counted, scored; an uncorrectable word is poisoned; a failing L1 line is dropped, as a corrected error;
the lanes of an uncorrectable register word die (R84, R89); a fetched line's flipped bit is found at its check (R107). -/
def State.eccError (s : State) (at_ : EccAt) (bad : Bool) : State :=
  match at_ with
  | .memory pa =>
    let s := match s.eccUnit pa with
      | some k => s.unitError k bad
      | none => s.countErr 64 (if bad then 4 else 3)
    if bad then { s with poison := setIns s.poison (pa / 32) } else s
  | .sram core word =>
    let s := s.unitError core bad
    if bad then { s with sramPoison := setIns s.sramPoison (sramKey core 0 / 8 + word) } else s
  | .l1 core vline => { s.unitError core false with l1 := s.l1.filter fun x => !(x.core == core && x.vline == vline) }
  | .reg core slot lanes =>
    let s := s.unitError core bad
    if bad then s.killLanes core slot lanes else s
  | .fetch core => s.setCore core { s.coreSt core with flip := true }

/-- A line leaves an L1; an entry leaves a TLB; an L2 line that is not pinned is written back and leaves (R296). -/
def State.evictL1 (s : State) (core vline : Nat) : State :=
  { s with l1 := s.l1.filter fun x => !(x.core == core && x.vline == vline) }

def State.evictTlb (s : State) (stack vnum : Nat) : State :=
  { s with tlb := s.tlb.filter fun x => !(x.stack == stack && x.vnum == vnum) }

def State.evictL2 (s : State) (line : Nat) : State :=
  if s.mats.any fun e => e.2.pins.contains line then s else s.dropL2 line

/-! ## Host writes -/

/-- Bytes that the host writes: its own memory, past what L2 holds of it (R252); device memory at the home slices (log 1). -/
def State.hostStore (s : State) (pa : Nat) (bs : List Byte) : State :=
  let s := if tierOfPa pa = some 2 then s.writeMem pa bs
    else s.putBytes ((List.range bs.length).map fun i => (pa + i, bs.getD i 0))
  { s with poison := s.poison.filter fun x => !(pa ≤ x * 32 && x * 32 + 32 ≤ pa + bs.length) }

/-- Every byte of a range exists (R204). -/
def hostRange (pa n : Nat) : Bool := (tierOfPa pa).isSome && tierOfPa pa == tierOfPa (pa + (n - 1))

/-! ## Ticks (R32): each clock counts, and puts the steps that fall due on the agenda -/

def State.due (s : State) (l : List Instr) : State := { s with agenda := s.agenda ++ l.map Move.op }

def State.tickHead (s : State) : State :=
  let s := { s with headClock := s.headClock + 1 }
  let n := s.headClock
  let waits := (s.queues.filter fun e => e.2.waiting).map fun e => Instr.waitPoll e.1
  let late := (s.kernels.filter fun e => e.2.rec_.flags.testBit 3 && e.2.rec_.deadline != 0 && e.2.st.abortable &&
    decide (n ≥ e.2.accepted + e.2.rec_.deadline)).map fun e => Instr.deadlineExpiry e.1
  let urgent := (s.queues.filter fun e => s.slackLow e.1 != e.2.urgent).map fun e => Instr.queueUrgent e.1
  let sweeps := if n % 2 ^ 30 = 0 then (List.range 15).map fun w => Instr.integritySweep (w + 1) else []
  s.due (waits ++ late ++ urgent ++ sweeps)

def State.tickStack (s : State) (k : Nat) : State :=
  let x := s.stackSt k
  if x.retention then s
  else
    let n := x.clock + 1
    let s := s.setStack k { x with clock := n, idle := if s.stackBusy k then 0 else x.idle + 1 }
    let cores := stackCores k
    let k1 := if n % 1024 = 0 then [Instr.footprintSample k, Instr.imbalRefresh k] else []
    let k2 := if n % 2 ^ 16 = 0 then [Instr.reconciliationWindow k] else []
    let k3 := if n % 256 = 0 then cores.map Instr.matbudgetWindow else []
    let k4 := (cores.filter fun c => (s.coreSt c).st == .drain && decide (n ≥ (s.coreSt c).grace)).map Instr.graceWindowExpiry
    s.due (k2 ++ k1 ++ k3 ++ k4)

def State.tickAwl (s : State) (d : Nat) : State :=
  let x := { s.dieSt d with awl := (s.dieSt d).awl + 1 }
  let s := s.setDie d x
  s.due ((if x.interval < 64 && decide (x.awl ≥ x.boundary + x.interval * (2 ^ x.period / 64)) then [Instr.leaseStart d] else []) ++
    (if x.awl ≥ x.boundary + 2 ^ x.period then [Instr.periodBoundary d] else []))

def State.tickRef (s : State) (d : Nat) : State :=
  let x := { s.dieSt d with ref := (s.dieSt d).ref + 1 }
  let s := s.setDie d x
  let back := s.links.filterMap fun e =>
    let mine := if e.1 < 16 then e.1 / 4 == d else d == 0
    match e.2.reclaimAt with
    | some n => if mine && decide (x.ref ≥ n + 1000) then some (Instr.reclaimTimeout e.1) else none
    | none => none
  s.due ((if x.ref % 1024 = 0 then [Instr.refillTick d, Instr.railStep d] else []) ++ back)

def State.tickLink (s : State) (k : Nat) : State :=
  let l := s.link k
  let l := { l with clock := l.clock + 1, sinceFlit := l.sinceFlit + 1, inState := l.inState + 1 }
  let s := s.setLink k l
  let up := l.st == .up
  let ranks := s.doms.flatMap fun e =>
    (e.2.hbSince.filter fun r => l.st != .loop && e.2.hbLink.get 0 r.1 == k && decide (l.clock ≥ r.2 + l.hbMiss * 2 ^ l.hbLog)).map
      fun r => Instr.rankTimeout e.1 r.1
  s.due ((if up && decide (l.clock ≥ l.hbAt + 2 ^ l.hbLog) then [Instr.heartbeatSend k] else []) ++
    (if up && decide (l.sinceFlit ≥ l.hbMiss * 2 ^ l.hbLog) then [Instr.heartbeatTimeout k] else []) ++
    (if (l.st == .train || l.st == .secure) && decide (l.inState ≥ 2 ^ 24) then [Instr.linkTrainTimeout k] else []) ++ ranks)

def State.tickChan (s : State) (c : Nat) : State :=
  let x := { s.chan c with clock := (s.chan c).clock + 1 }
  let s := s.setChan c x
  s.due (match x.leaseEnd with
    | some n => if x.clock ≥ n then [Instr.channelLeaseEnd (if c < 256 then .hbm c else .lpddr (c - 256))] else []
    | none => [])

/-- One clock of a counter. -/
def State.tick (s : State) (c : ClockId) : State :=
  match c with
  | .head => s.tickHead
  | .stack k => if k < 64 then s.tickStack k else s
  | .awl d => if d < 4 then s.tickAwl d else s
  | .ref d => if d < 4 then s.tickRef d else s
  | .link k => if k < 16 then s.tickLink k else s
  | .chan c => if c < 304 then s.tickChan c else s

end Sys2Proof.Machine
end

