-- ==== Sys2Proof/Machine/Control.lean ====
section
/-! DEFINITION. Control transfer (R144 to R152): branches, calls, divergence and reconvergence, exit. -/

namespace Sys2Proof.Machine

open Sys2Proof

/-- Move the issuing slot to a slot-counted offset from the instruction's own slot (R110). -/
def State.branchTo (s : State) (e : Env) (offset : W32) : State :=
  match branchTarget e.pc offset with
  | some t => s.setPc e t true
  | none => s.faultAt e .targetRange e.live

/-- Move the issuing slot to an address held in a scalar (R109, R145). -/
def State.jumpTo (s : State) (e : Env) (a : Nat) : State :=
  if a / 2 ^ 57 ≠ 0 then s.faultAt e .targetRange e.live a
  else if (slotIndex a).isNone then s.faultAt e .misalignedTarget e.live a
  else s.setPc e a true

/-- The return address: the next slot after the call (R111). -/
def linkOf (e : Env) : Nat := nextSlot e.pc 1

def execBra (o : Fields) (s : State) : Host.Outcome State Fault Refusal :=
  issue (.bra o) o s fun e s => s.branchTo e o.low

def execBrx (o : Fields) (s : State) : Host.Outcome State Fault Refusal :=
  issue (.brx o) o s fun e s => s.jumpTo e (e.scal o.a .n64)

def execCall (o : Fields) (s : State) : Host.Outcome State Fault Refusal :=
  issue (.call o) o s fun e s => (s.putS e o.dst.toNat (linkOf e)).branchTo e o.low

/-- CALLX reads its target before it writes the link (R145). -/
def execCallx (o : Fields) (s : State) : Host.Outcome State Fault Refusal :=
  issue (.callx o) o s fun e s => (s.putS e o.dst.toNat (linkOf e)).jumpTo e (e.scal o.a .n64)

def execRet (o : Fields) (s : State) : Host.Outcome State Fault Refusal :=
  issue (.ret o) o s fun e s => s.jumpTo e (e.scal o.a .n64)

/-- The condition bits of a lane that DBR and BRU compare in a protected launch (R88). -/
def condDiff (e : Env) : Mask :=
  if e.prot then pairDiff fun l => [if e.live.getLsbD l && e.run.getLsbD l then 1 else 0] else 0

/-- BRU.any and BRU.all (R146). -/
def execBru (all : Bool) (o : Fields) (s : State) : Host.Outcome State Fault Refusal :=
  issue (.bru all o) o s fun e s =>
    if condDiff e != 0 then s.pairAbort e (condDiff e)
    else if o.pred == 0 || (if all then e.run == e.live else e.run != 0) then s.branchTo e o.low
    else s

/-- The push of the other slot before a split (R68, R71, R72): a store that follows what precedes the split. -/
def State.pushOther (s : State) (e : Env) (g : Group) (y : PcSlot) (index : Nat) : State :=
  if g.depth ≥ 64 then s.faultAt e .divergenceStack e.live
  else
    let seen := (g.slotAt e.me.pcs).seen
    let ent := y.pushedPc + 2 ^ 80 * y.mask.toNat + 2 ^ 112 * index
    let (id, s) := s.fresh
    let a := s.lookL1 (stackAccess e.me.core e.me.slot e.me.pcs seen g e.team .push g.depth [ent % 2 ^ 64, ent / 2 ^ 64])
    ({ s with acc := s.acc.put id a } : State).onIssuer e.me fun g =>
      let g := g.park (1 - e.me.pcs)
      let g := g.setSlot e.me.pcs (s.seenAfter (g.slotAt e.me.pcs) id)
      { g with depth := g.depth + 1, below := g.below.put g.depth (joinIds y.seen seen) }

/-- DBR (R68, R147): a plain branch where the lanes agree, else a split, the other slot pushed first; both slots inherit the
program order up to it (R225). -/
def execDbr (o : Fields) (s : State) : Host.Outcome State Fault Refusal :=
  issue (.dbr o) o s fun e s =>
    if condDiff e != 0 then s.pairAbort e (condDiff e)
    else if e.run == 0 then s
    else if e.run == e.live then s.branchTo e o.low
    else
      match branchTarget e.pc o.low, s.group? e.me.core e.me.slot with
      | some t, some g =>
        let x := g.slotAt e.me.pcs
        let y := g.slotAt (1 - e.me.pcs)
        let s := if x.index = 0xFF then s else s.pushOther e g y x.index
        s.onIssuer e.me fun g =>
          let x := g.slotAt e.me.pcs
          let g := g.setSlot e.me.pcs { x with mask := e.live &&& ~~~e.run, index := o.dst.toNat }
          g.setSlot (1 - e.me.pcs) { pc := t, mask := e.run, index := o.dst.toNat, entered := true, seen := x.seen }
      | none, _ => s.faultAt e .targetRange e.live
      | _, none => s

/-- RCV (R69, R148). -/
def execRcv (o : Fields) (s : State) : Host.Outcome State Fault Refusal :=
  issue (.rcv o) o s fun e s =>
    match s.group? e.me.core e.me.slot with
    | none => s
    | some g =>
      let x := g.slotAt e.me.pcs
      let y := g.slotAt (1 - e.me.pcs)
      let n := o.dst.toNat
      if x.index ≠ n then s
      else if y.empty || y.held == .rcv n then (s.merge e.me.core e.me.slot x.pc).settleArrival e.me.core e.me.slot
      else if y.index = n then s.hold e (.rcv n)
      else s

/-- LOOP (R149): the counter named in DST is read, lowered by one and written; zero falls through. -/
def execLoop (o : Fields) (s : State) : Host.Outcome State Fault Refusal :=
  issue (.loop o) o s fun e s =>
    let c := (e.g.sval o.dst.toNat + (2 ^ 64 - 1)) % 2 ^ 64
    let s := s.putS e o.dst.toNat c
    if c ≠ 0 then s.branchTo e o.low else s

/-- EXIT (R70, R150). -/
def execExit (o : Fields) (s : State) : Host.Outcome State Fault Refusal :=
  issue (.exit o) o s fun e s =>
    (s.onIssuer e.me fun g =>
      ({ g with gone := g.gone ||| e.run } : Group).setSlot e.me.pcs (clearMask (g.slotAt e.me.pcs) e.run)).settleSlots e.me.core e.me.slot

/-- YIELD (R151): the group is passed over once, and the other slot issues first at its next selection. -/
def execYield (o : Fields) (s : State) : Host.Outcome State Fault Refusal :=
  issue (.yield o) o s fun e s => s.onIssuer e.me fun g => { g with yielded := true }

def execNop (o : Fields) (s : State) : Host.Outcome State Fault Refusal :=
  issue (.nop o) o s fun _ s => s

/-- An unassigned opcode (R126): an illegal-instruction fault, charged its issue weight only. -/
def execUnassignedOpcode (raw : BitVec 96) (s : State) : Host.Outcome State Fault Refusal :=
  match s.envAt s.cur (fieldsOf raw none) with
  | none => .fault .noIssuer
  | some e => .next ((s.charge e.payer (s.wt e.payer 0)).faultAt e .unassignedOpcode e.live)

end Sys2Proof.Machine
end

