-- ==== Sys2Proof/Machine/Matrix.lean ====
section
/-! DEFINITION. The matrix unit (R283 to R307): gangs and the cinch, fetch and compute phases, tiles, batches, the
issue budget; and the accumulation of R54 to R58. -/

namespace Sys2Proof.Machine

open Sys2Proof

/-! ## Accumulation (R54 to R58) -/

/-- The exact sum of products: a NaN, an infinity, or a signed value with a common exponent; `z` is the sign that an
exact zero takes: negative when every term is a negative zero. -/
inductive Sum where
  | nan
  | inf (neg : Bool)
  | fin (v e : Int) (negZero : Bool)
deriving DecidableEq, Repr

/-- Add one product to an exact sum, with the flags it raises (R55). -/
def Sum.add (x : Sum × FFlags) (p : FVal) : Sum × FFlags :=
  match x.1, p with
  | _, .nan _ => (.nan, x.2 ||| flInvalid)
  | .nan, _ => (.nan, x.2)
  | .inf n, .inf m => if n == m then (.inf n, x.2) else (.nan, x.2 ||| flInvalid)
  | .inf n, .fin .. => (.inf n, x.2)
  | .fin .., .inf m => (.inf m, x.2)
  | .fin v e z, .fin n m e2 =>
    let q := min e e2
    let t : Int := (m * 2 ^ (e2 - q).toNat : Nat)
    (.fin (v * 2 ^ (e - q).toNat + (if n then -t else t)) q (z && n && m == 0), x.2)

/-- The block sum of a list of products, rounded once to the accumulator type (R55). -/
def blockSum (f : Fmt) (ps : List FVal) : Nat × FFlags :=
  match ps with
  | [] => (f.zero false, 0)
  | p :: r =>
    let first : Sum × FFlags := match p with
      | .nan _ => (.nan, flInvalid)
      | .inf n => (.inf n, 0)
      | .fin n m e => (.fin (if n then -(m : Int) else m) e (n && m == 0), 0)
    let (x, fl) := r.foldl Sum.add first
    match x with
    | .nan => (f.nan, fl)
    | .inf n => (f.inf n, fl)
    | .fin v e z =>
      if v = 0 then (f.zero z, fl)
      else
        let (b, g) := roundF f .rne false (v < 0) v.natAbs e
        (b, fl ||| g)

/-- A product of R55: an infinite factor times zero is a NaN and raises invalid when added, like any NaN. -/
def prodOf (a b : FVal) : FVal := (mulVals a b).1

/-- Split a list into runs of `n`; the first argument bounds the runs. -/
def chunks {α : Type} : Nat → Nat → List α → List (List α)
  | 0, _, _ => []
  | k + 1, n, l => if l.isEmpty then [] else l.take n :: chunks k n (l.drop n)

/-- Block length along k (R54). -/
def blockLen (ta : Ty) : Nat := match ta with | .f64 => 4 | .f32 => 8 | _ => 32

/-- Floating accumulation of one element over its products (R55). -/
def accFloat (f : Fmt) (blk : Nat) (c : Nat) (ps : List FVal) : Nat × FFlags :=
  (chunks ps.length blk ps).foldl (fun (acc : Nat × FFlags) b =>
    let (s, fl) := blockSum f b
    let (x, fl2) := fAdd f .rne acc.1 s
    (x, acc.2 ||| fl ||| fl2)) (c, 0)

/-- One piece of R56: codes of A with B's integers, under one scale record. DESIGN CHOICE: R56 gives no sign to a zero; where the
integer is 0 it is the scale's, where only the scale is zero it is that of their product (log 18). -/
def pieceSum (rec : Nat) (xs : List (Nat × Int)) : Nat × FFlags :=
  let q : Int := (xs.map fun x => (x.1 : Int) * x.2).sum
  let b : Int := (xs.map Prod.snd).sum
  let v : Int := q - recZero rec * b
  match unpackF f16 (recScale rec) with
  | .nan _ => (f32.nan, flInvalid)
  | .inf n => if v = 0 then (f32.nan, flInvalid) else (f32.inf (n != decide (v < 0)), 0)
  | .fin n m e => if v = 0 then (f32.zero n, 0) else roundF f32 .rne false (n != decide (v < 0)) (m * v.natAbs) e

/-- The accumulator type of a combination (R293). -/
def accTy (ta tb : Ty) : Ty :=
  match ta, tb with
  | .f64, _ => .f64
  | .i8, .i8 => .i32
  | _, _ => .f32

/-- One accumulator element (R54 to R57): A's codes or bits with their scale records, B's bits, by k. `cut k`: a scale
group begins at k. -/
def accumulate (ta tb : Ty) (c : Nat) (a scales : List Nat) (b : List Nat) (cut : Nat → Bool) : Nat × FFlags :=
  let n := a.length
  let ax (k : Nat) : Nat := a.getD k 0
  let bx (k : Nat) : Nat := b.getD k 0
  let rec_ (k : Nat) : Nat := scales.getD k 0
  if ta == .i8 && tb == .i8 then
    (wrapN 32 (sxt 32 c + ((List.range n).map fun k => sxt 8 (ax k) * sxt 8 (bx k)).sum), 0)
  else if (ta == .q8 || ta == .q4) && tb == .i8 then
    let starts := (List.range n).filter fun k => k == 0 || cut k
    starts.foldl (fun (acc : Nat × FFlags) st =>
      let stop := (starts.find? (· > st)).getD n
      let ks := (List.range (stop - st)).map (st + ·)
      let (s, fl) := pieceSum (rec_ st) (ks.map fun k => (ax k, sxt 8 (bx k)))
      let (x, fl2) := fAdd f32 .rne acc.1 s
      (x, acc.2 ||| fl ||| fl2)) (c, 0)
  else
    let av (k : Nat) : FVal :=
      if ta == .q8 || ta == .q4 then unpackF f32 (dequantise (rec_ k) (ax k)) else unpackF (fmtOf ta) (ax k)
    accFloat (fmtOf (accTy ta tb)) (blockLen ta) c ((List.range n).map fun k => prodOf (av k) (unpackF (fmtOf tb) (bx k)))

/-! ## Tiles (R286, R287) -/

/-- Replace the bytes of an array from `a`: the same as writing them one by one, in one pass. -/
def putRange (t : Tbl Byte) (a : Nat) (bs : List Byte) : Tbl Byte :=
  t.filter (fun e => e.1 < a) ++
    ((List.range bs.length).filterMap fun i => let b := bs.getD i 0; if b = 0 then none else some (a + i, b)) ++
    t.filter (fun e => e.1 ≥ a + bs.length)

def State.tileBytes (s : State) (core tile off n : Nat) : List Byte := readBytes s.tile (tileKey core tile off) n
def State.putTile (s : State) (core tile off : Nat) (bs : List Byte) : State :=
  { s with tile := putRange s.tile (tileKey core tile off) bs }

def tpKey (core tile : Nat) : Nat := 2 ^ 16 * core + tile
def State.tileBad (s : State) (core tile : Nat) : Bool := s.tilePoison.contains (tpKey core tile)
/-- A tile is poisoned, or was when an MMA wrote it: counted either way (R287). -/
def State.poisonTile (s : State) (ctx core tile : Nat) : State :=
  ({ s with tilePoison := setIns s.tilePoison (tpKey core tile) } : State).countErrCtx ctx 9
def State.cleanTile (s : State) (core tile : Nat) : State :=
  { s with tilePoison := setDel s.tilePoison (tpKey core tile) }

/-- Rows of a tile in a view, and bytes of a row. -/
def viewRows (t : Ty) : Nat := if t.isWide then 16 else 32
def viewRowBytes (t : Ty) : Nat := 128 * tyBytes t

/-! ## Issue (R284, R288, R305) -/

/-- Count one matrix issue of the core's window (R305, R306). -/
def State.countIssue (s : State) (core ctx : Nat) : State :=
  let c := s.coreSt core
  let b := (s.dieSt (dieOfCore core)).budget
  let s := s.setCore core { c with issues := c.issues + 1, spent := c.spent || (b != 0 && c.issues + 1 ≥ b) }
  if b != 0 && !c.spent && c.issues + 1 ≥ b then s.countMat core ctx 1 else s

/-- Accept an operation of one group (R284, R302). -/
def State.acceptOne (s : State) (e : Env) (m : MatOp) (a : Nat) : State :=
  match s.group? e.me.core e.me.slot with
  | none => s
  | some g =>
    let (id, s) := s.fresh
    let mem : Member := { slot := e.me.slot, tag := g.tag, idx := g.idx, batch := g.batch, a := a, upto := id }
    let m := { m with core := e.me.core, team := g.team, kid := e.kid, ctx := e.team.ctx, pcs := e.me.pcs, pc := e.pc,
                      members := [mem] }
    ({ s with mats := s.mats.put id m } : State).countIssue e.me.core e.team.ctx

/-- GANG (R288, R290). -/
def execGang (o : Fields) (s : State) : Host.Outcome State Fault Refusal :=
  issue (.gang o) o s fun e s =>
    let x : W64 := BitVec.ofNat 64 (e.scal o.a .b64)
    let g := (s.group? e.me.core e.me.slot).getD {}
    let old := g.gang
    if x != old && s.gangBroken g.team g.idx g.mmaSeq (fun r => r == old) then s.faultAt e .gangBroken e.live
    else s.onIssuer e.me fun g =>
      { g with
        gang := x
        mmaSeq := 0
        gangLeft := (if x == old then g.gangLeft else (old, g.mmaSeq) :: g.gangLeft.filter fun y => y.1 != old).filter
          fun y => y.1 != x }

def gangMembers (r : W64) : List Nat := (List.range 64).filter fun i => r.getLsbD i

/-- A gang register under which an MMA is legal (R288). -/
def gangOk (r : W64) (groups self : Nat) : Bool :=
  let m := gangMembers r
  2 ≤ m.length && m.length ≤ 6 && m.all (· < groups) && m.contains self

/-- A named group has retired, or has given up this register short of the sequence index (R290). -/
def State.memberLost (s : State) (uid : Nat) (r : W64) (seq : Nat) : Bool :=
  let t := s.team uid
  (gangMembers r).any fun i => !t.live.contains i ||
    s.groups.any fun (_, g) => g.team == uid && g.idx == i && g.gang != r &&
      g.gangLeft.any fun y => y.1 == r && decide (y.2 < seq)

/-- MMA (R289): it arrives at the cinch, and its slot waits there. -/
def execMma (o : Fields) (s : State) : Host.Outcome State Fault Refusal :=
  issue (.mma o) o s fun e s =>
    let g := (s.group? e.me.core e.me.slot).getD {}
    if !gangOk g.gang e.kern.rec_.team g.idx then s.faultAt e .gangInvalid e.live
    else
      let seq := g.mmaSeq + 1
      let arr : CinchArr := { seq := seq, ins := .mma o, gang := g.gang, batch := g.batch, a := e.scal o.a .n64,
                              b := e.scal o.b .n64, c := e.scal o.c .b64, upto := s.next, pc := e.pc }
      let s := s.onIssuer e.me fun g => { g with mmaSeq := seq, cinch := g.cinch.put e.me.pcs arr }
      let s := (s.hold e (.cinch seq)).countIssue e.me.core e.team.ctx
      if s.memberLost e.g.team arr.gang seq then s.faultAt e .gangBroken e.live else s

/-- MZERO (R298). -/
def execMzero (o : Fields) (s : State) : Host.Outcome State Fault Refusal :=
  issue (.mzero o) o s fun e s =>
    let s := s.charge e.payer (o.md.spec.toNat % 64 * s.wt e.payer 29)
    s.acceptOne e { core := 0, team := 0, kid := 0, ctx := 0, ins := .mzero o, members := [] } 0

/-- Rows and row bytes in memory of an MLD or MST. -/
def blockRows (view : Ty) (o : Fields) : Nat := nTiles o * viewRows view

/-- The checks of R299 that need no page. -/
def Env.blockFault (e : Env) (rows rowBytes : Nat) : Option Cause :=
  let a := e.scal e.o.a .n64
  let st := e.scal e.o.b .n64
  let len := (rows - 1) * st + rowBytes
  if a % 32 ≠ 0 ∨ st % 32 ≠ 0 then some .misaligned
  else if e.o.md.spec.getLsbD 2 then (if e.team.holds a len then none else some .scratchpadBound)
  else if globalBad a || globalBad (a + len - 1) then some .addressRange
  else none

def issueBlock (i : Instr) (o : Fields) (view mem : Ty) (s : State) : Host.Outcome State Fault Refusal :=
  issue i o s fun e s =>
    let rows := blockRows view o
    let n := 128 * tyBytes mem
    match e.blockFault rows n with
    | some c => s.faultAt e c e.live (e.scal o.a .n64)
    | none =>
      let s := s.charge e.payer (nTiles o * 512 * s.wt e.payer 11)
      s.acceptOne e { core := 0, team := 0, kid := 0, ctx := 0, ins := i, members := [], b := e.scal o.b .n64 }
        (e.scal o.a .n64)

/-- MLD (R299). -/
def execMld (o : Fields) (s : State) : Host.Outcome State Fault Refusal := issueBlock (.mld o) o o.ty o.ty s

/-- MST (R299, R300). -/
def execMst (o : Fields) (s : State) : Host.Outcome State Fault Refusal := issueBlock (.mst o) o o.md.type2 o.ty s

/-- MMOV (R301): .vr takes its values at issue, compared by pairs in a protected launch (R88). -/
def execMmov (o : Fields) (s : State) : Host.Outcome State Fault Refusal :=
  issue (.mmov o) o s fun e s =>
    let vr := o.md.spec.getLsbD 0
    let names : List Nat := match o.a with | .v n => (List.range 4).map (n.toNat + ·) | _ => []
    let bad := if vr then e.pairBad (fun _ => 0) fun l => names.map fun n => e.g.lane32 n l else 0
    if bad != 0 then s.pairAbort e bad
    else
      let s := s.charge e.payer (s.wt e.payer 28)
      s.acceptOne e { core := 0, team := 0, kid := 0, ctx := 0, ins := .mmov o, members := [], b := e.scal o.b .b64,
                      lanes := e.run, vals := if vr then names.map fun n => e.g.vreg n else [] } 0

/-- MFENCE closes the open batch (R303). -/
def execMfence (o : Fields) (s : State) : Host.Outcome State Fault Refusal :=
  issue (.mfence o) o s fun e s => s.onIssuer e.me fun g => { g with batch := (g.batch + 1) % 2 ^ 16 }

/-- MWAIT (R304): its slot waits until at most `n` closed batches are incomplete. -/
def execMwait (o : Fields) (s : State) : Host.Outcome State Fault Refusal :=
  issue (.mwait o) o s fun e s => s.holdUntil e (.mwait (o.md.spec.toNat % 8))

/-! ## The cinch (R289, R294) -/

/-- w: tiles of one member's block (R291). -/
def accW (t : Ty) : Nat := if t == .f64 then 4 else 2

def kMax (ta tb : Ty) : Nat :=
  match ta, tb with
  | .f64, _ => 32
  | .f32, _ => 64
  | .q4, .i8 => 512
  | .bf16, _ | .f16, _ => 128
  | _, _ => 256

def shapeK (c : Nat) : Nat := bitsN c 9 0
def shapeLda (c : Nat) : Nat := bitsN c 39 16
def shapeLdb (c : Nat) : Nat := bitsN c 63 40

/-- Bytes of a row of A, of a row of B (R294). -/
def rowBytesA (ta : Ty) (k : Nat) : Nat := (k * ta.width + 7) / 8
def rowBytesB (tb : Ty) : Nat := 128 * tyBytes tb

/-- The arrival of group `i` of a team at sequence `seq`, with its place. -/
def State.arrivalOf (s : State) (uid i seq : Nat) : Option (Nat × Nat × Group × CinchArr) :=
  s.groups.findSome? fun (k, g) =>
    if g.team == uid && g.idx == i then
      (List.find? (fun x => x.2.seq == seq) g.cinch).map fun x => (k, x.1, g, x.2)
    else none

/-- Checks 2 to 7 of R294, in order. -/
def releaseFault (o : Fields) (t : Team) (arrs : List CinchArr) : Option Cause :=
  match arrs with
  | [] => some .gangInvalid
  | x :: r =>
    let ta := o.ty
    let tb := o.md.type2
    let k := shapeK x.c
    let fields (y : CinchArr) : Option (BitVec 8 × Ty × W32) :=
      y.ins.fields.map fun f => (f.dst, f.ty, (if f.hasImm && f.wide.isNone then 0 else f.low))
    if r.any fun y => y.gang != x.gang || y.batch != x.batch || fields y != fields x || y.b != x.b || y.c != x.c then
      some .gangMismatch
    else if o.dst.toNat + accW ta * arrs.length - 1 ≥ t.tiles then some .accumulatorBound
    else if arrs.any (fun y => y.a % 32 != 0) || x.b % 32 != 0 || shapeLda x.c % 32 != 0 || shapeLdb x.c % 32 != 0 then
      some .misaligned
    else if k = 0 ∨ k > kMax ta tb ∨ bitsN x.c 15 10 ≠ 0 then some .descriptor
    else
      let la := 63 * shapeLda x.c + rowBytesA ta k
      let lb := (k - 1) * shapeLdb x.c + rowBytesB tb
      let asp := o.md.spec.getLsbD 0
      let bsp := o.md.spec.getLsbD 1
      if (asp && arrs.any fun y => !t.holds y.a la) || (bsp && !t.holds x.b lb) then some .scratchpadBound
      else if (!asp && arrs.any fun y => globalBad y.a || globalBad (y.a + la - 1)) ||
          (!bsp && (globalBad x.b || globalBad (x.b + lb - 1))) then some .addressRange
      else none

/-- A member of a released gang: its MMA has issued, and its slot goes on behind an acquire-release fence at .team (R246). -/
def State.pastCinch (s : State) (core slot x : Nat) (seq : Nat) : State :=
  let s := s.modGroup core slot fun g =>
    ({ g with cinch := g.cinch.erase x } : Group).mapHeld fun h => if h == .cinch seq then .fence 3 1 else h
  (s.recheck core slot 0).recheck core slot 1

/-- CINCH_RELEASE (R289, R294): of the gang that waits with the group of a slot at its lowest sequence index. -/
def execCinchRelease (core slot : Nat) (s : State) : Host.Outcome State Fault Refusal :=
  match s.group? core slot with
  | none => .next s
  | some g =>
    match g.cinch.foldl (fun (m : Option CinchArr) x =>
        match m with | some y => if x.2.seq < y.seq then some x.2 else some y | none => some x.2) none with
    | none => .next s
    | some arr =>
      let found := (gangMembers arr.gang).map fun i => s.arrivalOf g.team i arr.seq
      if found.any Option.isNone || (s.matsOn core).length ≥ 16 then .next s
      else
        let ms := found.filterMap id
        let t := s.team g.team
        match arr.ins with
        | .mma o =>
          match releaseFault o t (ms.map fun m => m.2.2.2) with
          | some c =>
            let pcs := ms.findSome? fun m => if m.1 = gkey core slot ∧ m.2.1 < 2 then some m.2.1 else none
            .next (abortKernel s t.kid { status := 3, cause := c.code, core := core, slot := slot, pcSlot := pcs.getD 0
                                         lanes := g.liveLanes, team := t.idx, pc := arr.pc })
          | none =>
            let (id, s) := s.fresh
            let s := ms.foldl (fun s m => s.pastCinch (m.1 / 1024) (m.1 % 1024) m.2.1 m.2.2.2.seq) s
            let first := ms.head?
            let op : MatOp :=
              { core := core, team := g.team, kid := t.kid, ctx := t.ctx
                pcs := match first with | some m => if m.2.1 < 2 then m.2.1 else 0 | none => 0
                pc := match first with | some m => m.2.2.2.pc | none => arr.pc
                ins := arr.ins,
                members := ms.map fun m => { slot := m.1 % 1024, tag := m.2.2.1.tag, idx := m.2.2.1.idx,
                                             batch := m.2.2.2.batch, a := m.2.2.2.a, upto := m.2.2.2.upto },
                b := arr.b, c := arr.c }
            .next { s with mats := s.mats.put id op }
        | _ => .next s

/-! ## Fetch phase (R284, R295, R296) -/

def MatOp.payer (m : MatOp) : Payer := { ctx := m.ctx, core := some m.core, team := some m.team }

/-- The report of a matrix fault names a gang's member of rank 0 (R353, log 15). -/
def State.matAbort (s : State) (m : MatOp) (c : Cause) (addr : Nat := 0) : State :=
  let idx := match m.members with | x :: _ => x.idx | [] => 64
  abortKernel s m.kid (s.workReport m.team idx m.pcs m.pc c addr)

/-- A matrix operation meets a fault in its fetch phase, at `lo` or above. -/
def State.matFault (s : State) (id : Nat) (m : MatOp) (lo : Nat) (f : Nat × Nat × Nat × Nat × Option Cause) : State :=
  let va := max lo f.1
  match f.2.2.2.2 with
  | some k => s.matAbort m k va
  | none =>
    { s with mats := s.mats.put id { m with
        fault := some { va := va, cause := f.2.1, detail := f.2.2.1, level := f.2.2.2.1, kind := 6, lanes := 0 } } }

/-- Lines that the set limit of R296 lets an operation pin, and those it reads unpinned: four ways of a set at most. -/
def State.pinLines (s : State) (lines : List Nat) : List Nat × List Nat :=
  let held := s.mats.flatMap fun e => e.2.pins
  lines.foldl (fun (acc : List Nat × List Nat) x =>
    let same (y : Nat) : Bool := sliceOf (y * 128) == sliceOf (x * 128) && setOf (y * 128) == setOf (x * 128)
    if held.contains x || ((nubN (held ++ acc.1)).filter same).length < 4 then (acc.1 ++ [x], acc.2)
    else (acc.1, acc.2 ++ [x])) ([], [])

/-- The byte of a matrix operand: of the team's scratchpad, or of a global page. -/
def State.matByte (s : State) (m : MatOp) (sp : Bool) (pm : PageMap) (a : Nat) : Byte × Bool :=
  if sp then s.sramByte (sramKey m.core ((s.team m.team).scratchAt + a)) else s.globalByte pm a

/-- Charge the distinct sectors of ranges of bytes, in scratchpad or at their home slices. -/
def State.matSectors (s : State) (m : MatOp) (sp : Bool) (pm : PageMap) (secs : List Nat) : State :=
  if sp then s.charge m.payer (secs.length * s.wt m.payer 11)
  else secs.foldl (fun s x => s.touchRange m.payer pm false (x * 32) 32) s

/-- The lines of an operation's sectors that it pins, and the sectors of those that it cannot pin: they are read again at
consumption (R296). -/
def State.pinSectors (s : State) (pm : PageMap) (secs : List Nat) : List Nat × List Nat :=
  let line (x : Nat) : Nat := pm.pa (x * 32) / 128
  let (pins, loose) := s.pinLines (nubN (secs.map line))
  (pins, (nubN secs).filter fun x => loose.contains (line x))

/-- The sectors that were not pinned are read and charged again (R296, R323). -/
def State.readAgain (s : State) (m : MatOp) : State :=
  m.unpinned.foldl (fun s x => s.touchRange m.payer m.pages false (x * 32) 32) s

/-- The elements of `n` bits each in a row of bytes. -/
def rowElems (bits n : Nat) (bs : List Byte) : List Nat :=
  let x := leNat bs
  (List.range n).map fun k => x / 2 ^ (bits * k) % 2 ^ bits

/-- The fetch phase of an MMA (R295). -/
def State.fetchMma (s : State) (id : Nat) (m : MatOp) (o : Fields) : State :=
  let ta := o.ty
  let tb := o.md.type2
  let k := shapeK m.c
  let asp := o.md.spec.getLsbD 0
  let bsp := o.md.spec.getLsbD 1
  let ra := rowBytesA ta k
  let rb := rowBytesB tb
  let rowsOf (x : Member) : List Nat := (List.range 64).map fun i => x.a + i * shapeLda m.c
  let rowsA := m.members.flatMap rowsOf
  let rowsB := (List.range k).map fun i => m.b + i * shapeLdb m.c
  let spans := (if asp then [] else rowsA.map fun a => (a, ra)) ++ (if bsp then [] else rowsB.map fun a => (a, rb))
  match s.walkMap m.payer (stackOfCore m.core) .read (unitsIn spans) with
  | (.error f, s) => s.matFault id m (lowestAt spans f.1) f
  | (.ok pm, s) =>
    let pm : PageMap := pm
    let want := match ta with | .q8 => 1 | .q4 => 2 | _ => 0
    let badA := if asp then none else (rowsA.flatMap fun a => unitsOf a ra).find? fun u => pteFormat (pm.leaf u).2 != want
    let badB := if bsp then none else (rowsB.flatMap fun a => unitsOf a rb).find? fun u => pteFormat (pm.leaf u).2 != 0
    match badA, badB with
    | some u, _ => s.matAbort m .formatMismatch u
    | none, some u => s.matAbort m .formatMismatch u
    | none, none =>
      let uses (a : Nat) : List (Nat × Nat) :=
        if want = 0 then []
        else (List.range k).map fun j =>
          let va := if want = 2 then a + j / 2 else a + j
          let (l, e) := pm.leaf va
          (va, recordAt e (elemIndex l e va (j % 2)))
      let recAddrs (a : Nat) : List Nat := (uses a).map Prod.snd
      let recVals (a : Nat) : List Nat := (uses a).map fun x => s.record (s.keyIn pm x.1) x.2
      let recs := nubN (rowsA.flatMap recAddrs)
      match s.lowestBad pm (rowsA.flatMap uses) with
      | some va => s.matFault id m va (va, 3, 0, 0xFF, none)
      | none =>
        let secA := m.members.flatMap fun x => nubN ((rowsOf x).flatMap fun a => sectorsOf a ra)
        let secB := nubN (rowsB.flatMap fun a => sectorsOf a rb)
        let (pins, loose) := s.pinSectors pm ((if asp then [] else secA) ++ if bsp then [] else secB)
        let s : State := { s with mats := s.mats.put id { m with pins := pins } }
        let s := (s.matSectors m asp pm secA).matSectors m bsp pm secB
        let s := (nubN (recs.map fun r => r / 32)).foldl (fun s x => s.touchL2 m.payer (x * 32) .read) s
        let row (sp : Bool) (n a : Nat) : List (Byte × Bool) := (List.range n).map fun i => s.matByte m sp pm (a + i)
        let dirtyA (x : Member) : Bool := (rowsOf x).any fun a =>
          (row asp ra a).any Prod.snd || (recAddrs a).any fun r => s.poisoned r
        let m := { m with
          fetched := true
          pages := pm
          adata := rowsA.map fun a => rowElems ta.width k ((row asp ra a).map Prod.fst)
          scales := rowsA.map recVals
          bdata := rowsB.map fun a => rowElems tb.width 128 ((row bsp rb a).map Prod.fst)
          poisonA := (List.range m.members.length).filter fun i =>
            match m.members[i]? with | some x => dirtyA x | none => false
          poisonB := rowsB.any fun a => (row bsp rb a).any Prod.snd
          pins := pins
          unpinned := loose }
        { s with mats := s.mats.put id m }

/-- The fetch phase of an MLD or MST: its pages, and an MLD's rows (R299). -/
def State.fetchBlock (s : State) (id : Nat) (m : MatOp) (o : Fields) (load : Bool) (view mem : Ty) : State :=
  let sp := o.md.spec.getLsbD 2
  let a := match m.members with | x :: _ => x.a | [] => 0
  let rows := (List.range (blockRows view o)).map fun i => a + i * m.b
  let n := 128 * tyBytes mem
  let spans := if sp then [] else rows.map fun r => (r, n)
  let units := unitsIn spans
  match s.walkMap m.payer (stackOfCore m.core) (if load then .read else .write) units with
  | (.error f, s) => s.matFault id m (lowestAt spans f.1) f
  | (.ok pm, s) =>
    let pm : PageMap := pm
    match units.find? fun u => pteFormat (pm.leaf u).2 != 0 with
    | some u => s.matAbort m .formatMismatch u
    | none =>
      let secs := nubN (rows.flatMap fun r => sectorsOf r n)
      let (pins, loose) := if load && !sp then s.pinSectors pm secs else ([], [])
      let s : State := { s with mats := s.mats.put id { m with pins := pins } }
      let s := if load then s.matSectors m sp pm secs else s
      let row (r : Nat) : List (Byte × Bool) := (List.range n).map fun i => s.matByte m sp pm (r + i)
      let m := { m with
        fetched := true
        pages := pm
        adata := if load then rows.map fun r => (row r).map fun b => b.1.toNat else []
        poisonA := if load then
            (List.range (nTiles o)).filter fun t => (List.range (viewRows view)).any fun i =>
              (row (a + (t * viewRows view + i) * m.b)).any Prod.snd
          else []
        pins := pins
        unpinned := loose }
      { s with mats := s.mats.put id m }

/-- The accesses that a matrix operation's reads follow have performed (R246). -/
def State.matMayFetch (s : State) (m : MatOp) : Bool :=
  m.members.all fun x => !(s.acc.any fun e => e.2.team == m.team && e.2.gidx == x.idx && e.1 < x.upto &&
    e.2.left != 0 && e.2.space != .sfu && e.2.op != .fetch)

/-- The operations of a core in the order they were accepted. -/
def State.matOrder (s : State) (core : Nat) : List (Nat × MatOp) := s.matsOn core

/-- Operation `id` may end its fetch phase: it is first in order, or second behind one that has (R284). -/
def State.fetchTurn (s : State) (core id : Nat) : Bool :=
  match s.matOrder core with
  | (a, x) :: (b, _) :: _ => a == id || (b == id && x.fetched)
  | [(a, _)] => a == id
  | [] => false

/-- MATRIX_FETCH_COMPLETE (R284). -/
def execMatrixFetchComplete (id : Nat) (s : State) : Host.Outcome State Fault Refusal :=
  match s.mats.find? id with
  | none => .next s
  | some m =>
    if m.fetched || m.fault.isSome || !s.fetchTurn m.core id then .next s
    else
      match m.ins with
      | .mma o => if s.matMayFetch m then .next (s.fetchMma id m o) else .next s
      | .mld o => if s.matMayFetch m then .next (s.fetchBlock id m o true o.ty o.ty) else .next s
      | .mst o => if s.matMayFetch m then .next (s.fetchBlock id m o false o.md.type2 o.ty) else .next s
      | _ => .next { s with mats := s.mats.put id { m with fetched := true } }

/-! ## Compute phase (R297 to R301) -/

/-- Weight's event of a combination (R293). -/
def macEvent (ta tb : Ty) : Nat :=
  match ta, tb with
  | .f64, _ => 20
  | .f32, _ => 21
  | .q4, .i8 => 24
  | .bf16, _ | .f16, _ | _, .bf16 => 22
  | _, _ => 23

/-- The first k of each scale group of a row: the record changes, or the element begins a group (R56). -/
def cutsOf (m : MatOp) (o : Fields) (rowAddr k : Nat) : Bool :=
  let va := if o.ty == .q4 then rowAddr + k / 2 else rowAddr + k
  let (l, e) := PageMap.leaf m.pages va
  let i := elemIndex l e va (k % 2)
  i % groupSize e == 0

/-- Rows of one member's block: new bits and flags (R297). -/
def State.computeRow (s : State) (m : MatOp) (o : Fields) (t : Team) (r i : Nat) : List Byte × FFlags :=
  let ta := o.ty
  let tb := o.md.type2
  let w := accW ta
  let at_ := accTy ta tb
  let n := tyBytes at_
  let tile := t.tileAt + o.dst.toNat + w * r + i / (64 / w)
  let row := i % (64 / w)
  let old := s.tileBytes m.core tile (row * 128 * n) (128 * n)
  let a := m.adata.getD (64 * r + i) []
  let sc := m.scales.getD (64 * r + i) []
  let base := (match m.members[r]? with | some x => x.a | none => 0) + i * shapeLda m.c
  let cells := (List.range 128).map fun j =>
    accumulate ta tb (field old (n * j) n) a sc (m.bdata.map fun x => x.getD j 0) (cutsOf m o base)
  (cells.flatMap fun x => leBytes n x.1, cells.foldl (fun f x => f ||| x.2) 0)

def State.computeMma (s : State) (m : MatOp) (o : Fields) : State :=
  let t := s.team m.team
  let w := accW o.ty
  let n := tyBytes (accTy o.ty o.md.type2)
  let k := shapeK m.c
  let gs := m.members.length
  let s := s.charge m.payer (gs * 8 * k * s.wt m.payer (macEvent o.ty o.md.type2))
  let s := s.readAgain m
  let (s, fl) := (List.range (64 * gs)).foldl (fun (acc : State × FFlags) q =>
    let r := q / 64
    let i := q % 64
    let (bs, f) := s.computeRow m o t r i
    (acc.1.putTile m.core (t.tileAt + o.dst.toNat + w * r + i / (64 / w)) (i % (64 / w) * 128 * n) bs, acc.2 ||| f)) (s, 0)
  let s := (List.range (gs * w)).foldl (fun s q =>
    let tile := t.tileAt + o.dst.toNat + q
    if m.poisonB || m.poisonA.contains (q / w) || s.tileBad m.core tile then s.poisonTile m.ctx m.core tile else s) s
  m.members.foldl (fun s x => s.modMember m.team x.idx fun g => { g with fflags := g.fflags ||| fl }) s

def State.computeMzero (s : State) (m : MatOp) (o : Fields) : State :=
  let t := s.team m.team
  (List.range (o.md.spec.toNat % 64)).foldl (fun s j =>
    let tile := t.tileAt + o.dst.toNat + j
    (s.putTile m.core tile 0 (List.replicate 16384 0)).cleanTile m.core tile) s

def State.computeMld (s : State) (m : MatOp) (o : Fields) : State :=
  let t := s.team m.team
  let v := viewRows o.ty
  let n := viewRowBytes o.ty
  let s := s.readAgain m
  (List.range (nTiles o)).foldl (fun s j =>
    let tile := t.tileAt + o.dst.toNat + j
    let bytes := (List.range v).flatMap fun i => natBytes (m.adata.getD (j * v + i) [])
    let s := s.putTile m.core tile 0 (bytes.take (v * n))
    if m.poisonA.contains j then s.poisonTile m.ctx m.core tile else s.cleanTile m.core tile) s

/-- One element of an MST, converted (R300). -/
def mstElem (tt tm : Ty) (r : RMode) (x : Nat) : Nat × FFlags :=
  if tt == tm then (x, 0) else cvtFF (fmtOf tt) (fmtOf tm) r false x

def State.computeMst (s : State) (m : MatOp) (o : Fields) : State :=
  let t := s.team m.team
  let tt := o.md.type2
  let tm := o.ty
  let v := viewRows tt
  let sp := o.md.spec.getLsbD 2
  let a := match m.members with | x :: _ => x.a | [] => 0
  let n := 128 * tyBytes tm
  let (s, fl) := (List.range (blockRows tt o)).foldl (fun (acc : State × FFlags) i =>
    let tile := t.tileAt + o.dst.toNat + i / v
    let s := acc.1
    let row := s.tileBytes m.core tile (i % v * viewRowBytes tt) (viewRowBytes tt)
    let cells := (List.range 128).map fun j => mstElem tt tm (RMode.ofCode o.md.round) (field row (tyBytes tt * j) (tyBytes tt))
    let bytes := cells.flatMap fun x => leBytes (tyBytes tm) x.1
    let bad := s.tileBad m.core tile
    let dst := a + i * m.b
    let s := if sp then
        let k := sramKey m.core (t.scratchAt + dst)
        (s.touchSram m.payer k n).sramPoisonAfter m.ctx k n
      else (s.touchRange m.payer m.pages true dst n).l1DropRange m.core m.ctx dst n
    let s := (List.range n).foldl (fun s j =>
      let b := (bytes.getD j 0, bad)
      if sp then s.putSram (sramKey m.core (t.scratchAt + dst + j)) b else s.putGlobal m.pages (dst + j) b) s
    (s, acc.2 ||| cells.foldl (fun f x => f ||| x.2) 0)) (s, 0)
  let s := (List.range (nTiles o)).foldl (fun s j =>
    if s.tileBad m.core (t.tileAt + o.dst.toNat + j) then s.countErrCtx m.ctx 9 else s) s
  m.members.foldl (fun s x => s.modMember m.team x.idx fun g => { g with fflags := g.fflags ||| fl }) s

/-- Bytes of a chunk, and the lane whose data a lane's part of it is (R301, R87). -/
def chunkOf (prot : Bool) (b : Nat) : Nat × Nat := if prot then (256, b % 64) else (512, b % 32)

def State.computeMmov (s : State) (m : MatOp) (o : Fields) : State :=
  let t := s.team m.team
  let prot := (s.kern m.kid).rec_.flags.testBit 0
  let (size, c) := chunkOf prot m.b
  let part (l : Nat) : Nat := size * c + 16 * (if prot then l / 2 else l)
  let slot := match m.members with | x :: _ => x.slot | [] => 0
  let idx := match m.members with | x :: _ => x.idx | [] => 0
  if o.md.spec.getLsbD 0 then
    let tile := t.tileAt + o.dst.toNat
    (lanesOf m.lanes).foldl (fun s l =>
      if prot && l % 2 == 1 then s
      else s.putTile m.core tile (part l) (m.vals.flatMap fun v => leBytes 4 (laneOf v l).toNat)) s
  else
    let tile := t.tileAt + (match o.a with | .v n => n.toNat | _ => 0)
    match s.findMember m.team idx with
    | none => s
    | some _ =>
      if s.tileBad m.core tile then (s.countErrCtx m.ctx 9).killLanes m.core slot m.lanes
      else
        let dead := match s.group? m.core slot with | some g => g.dead | none => 0
        let lanes := m.lanes &&& ~~~dead
        if lanes == 0 then s
        else
          let s := s.charge m.payer (4 * s.wt m.payer 4)
          (List.range 4).foldl (fun s w =>
            s.writeName m.core slot m.pcs m.pc (o.dst.toNat + w) lanes fun l =>
              BitVec.ofNat 32 (leNat (s.tileBytes m.core tile (part l + 4 * w) 4))) s

/-- MATRIX_COMPUTE_COMPLETE (R297): the first operation in order ends its compute phase. -/
def execMatrixComputeComplete (id : Nat) (s : State) : Host.Outcome State Fault Refusal :=
  match s.mats.find? id with
  | none => .next s
  | some m =>
    if !m.fetched || (s.matOrder m.core).head?.map Prod.fst != some id then .next s
    else
      let s := match m.ins with
        | .mma o => s.computeMma m o
        | .mzero o => s.computeMzero m o
        | .mld o => s.computeMld m o
        | .mst o => s.computeMst m o
        | .mmov o => s.computeMmov m o
        | _ => s
      .next (({ s with mats := s.mats.erase id } : State).tryRetireTeam m.team)

end Sys2Proof.Machine
end

