-- ==== Sys2Proof/Machine/Dispatch.lean ====
section
/-! DEFINITION. The dispatch: one arm per constructor of Instr. -/

namespace Sys2Proof.Machine

open Sys2Proof

def exec (i : Instr) (s : State) : Host.Outcome State Fault Refusal :=
  match i with
  | .sadd o => Sys2Proof.Machine.execSadd o s
  | .ssub o => Sys2Proof.Machine.execSsub o s
  | .smin o => Sys2Proof.Machine.execSmin o s
  | .smax o => Sys2Proof.Machine.execSmax o s
  | .smul o => Sys2Proof.Machine.execSmul o s
  | .smulh o => Sys2Proof.Machine.execSmulh o s
  | .smad o => Sys2Proof.Machine.execSmad o s
  | .sand o => Sys2Proof.Machine.execSand o s
  | .sor o => Sys2Proof.Machine.execSor o s
  | .sxor o => Sys2Proof.Machine.execSxor o s
  | .sandn o => Sys2Proof.Machine.execSandn o s
  | .sshl o => Sys2Proof.Machine.execSshl o s
  | .sshr o => Sys2Proof.Machine.execSshr o s
  | .ssra o => Sys2Proof.Machine.execSsra o s
  | .spopc o => Sys2Proof.Machine.execSpopc o s
  | .sclz o => Sys2Proof.Machine.execSclz o s
  | .sbfe o => Sys2Proof.Machine.execSbfe o s
  | .sbfi o => Sys2Proof.Machine.execSbfi o s
  | .scmp o => Sys2Proof.Machine.execScmp o s
  | .ssel o => Sys2Proof.Machine.execSsel o s
  | .smov o => Sys2Proof.Machine.execSmov o s
  | .slea o => Sys2Proof.Machine.execSlea o s
  | .smovi o => Sys2Proof.Machine.execSmovi o s
  | .bra o => Sys2Proof.Machine.execBra o s
  | .brx o => Sys2Proof.Machine.execBrx o s
  | .call o => Sys2Proof.Machine.execCall o s
  | .callx o => Sys2Proof.Machine.execCallx o s
  | .ret o => Sys2Proof.Machine.execRet o s
  | .bru all o => Sys2Proof.Machine.execBru all o s
  | .dbr o => Sys2Proof.Machine.execDbr o s
  | .rcv o => Sys2Proof.Machine.execRcv o s
  | .loop o => Sys2Proof.Machine.execLoop o s
  | .exit o => Sys2Proof.Machine.execExit o s
  | .yield o => Sys2Proof.Machine.execYield o s
  | .nop o => Sys2Proof.Machine.execNop o s
  | .vadd o => Sys2Proof.Machine.execVadd o s
  | .vsub o => Sys2Proof.Machine.execVsub o s
  | .vmul o => Sys2Proof.Machine.execVmul o s
  | .vmulh o => Sys2Proof.Machine.execVmulh o s
  | .vmad o => Sys2Proof.Machine.execVmad o s
  | .vmadw o => Sys2Proof.Machine.execVmadw o s
  | .vdot4 o => Sys2Proof.Machine.execVdot4 o s
  | .vabs o => Sys2Proof.Machine.execVabs o s
  | .vneg o => Sys2Proof.Machine.execVneg o s
  | .vmin o => Sys2Proof.Machine.execVmin o s
  | .vmax o => Sys2Proof.Machine.execVmax o s
  | .vand o => Sys2Proof.Machine.execVand o s
  | .vor o => Sys2Proof.Machine.execVor o s
  | .vxor o => Sys2Proof.Machine.execVxor o s
  | .vnot o => Sys2Proof.Machine.execVnot o s
  | .vshl o => Sys2Proof.Machine.execVshl o s
  | .vshr o => Sys2Proof.Machine.execVshr o s
  | .vsra o => Sys2Proof.Machine.execVsra o s
  | .vrot o => Sys2Proof.Machine.execVrot o s
  | .vpopc o => Sys2Proof.Machine.execVpopc o s
  | .vclz o => Sys2Proof.Machine.execVclz o s
  | .vbrev o => Sys2Proof.Machine.execVbrev o s
  | .vbfe o => Sys2Proof.Machine.execVbfe o s
  | .vbfi o => Sys2Proof.Machine.execVbfi o s
  | .vsel o => Sys2Proof.Machine.execVsel o s
  | .vmov o => Sys2Proof.Machine.execVmov o s
  | .vmovs o => Sys2Proof.Machine.execVmovs o s
  | .vcmp o => Sys2Proof.Machine.execVcmp o s
  | .pand o => Sys2Proof.Machine.execPand o s
  | .por o => Sys2Proof.Machine.execPor o s
  | .pxor o => Sys2Proof.Machine.execPxor o s
  | .pnot o => Sys2Proof.Machine.execPnot o s
  | .pmov o => Sys2Proof.Machine.execPmov o s
  | .pcnt o => Sys2Proof.Machine.execPcnt o s
  | .pffs o => Sys2Proof.Machine.execPffs o s
  | .fadd o => Sys2Proof.Machine.execFadd o s
  | .fsub o => Sys2Proof.Machine.execFsub o s
  | .fmul o => Sys2Proof.Machine.execFmul o s
  | .ffma o => Sys2Proof.Machine.execFfma o s
  | .fmin o => Sys2Proof.Machine.execFmin o s
  | .fmax o => Sys2Proof.Machine.execFmax o s
  | .fminNan o => Sys2Proof.Machine.execFminNan o s
  | .fmaxNan o => Sys2Proof.Machine.execFmaxNan o s
  | .fcmp o => Sys2Proof.Machine.execFcmp o s
  | .fclass o => Sys2Proof.Machine.execFclass o s
  | .fscale o => Sys2Proof.Machine.execFscale o s
  | .frnd o => Sys2Proof.Machine.execFrnd o s
  | .fdiv o => Sys2Proof.Machine.execFdiv o s
  | .fsqrt o => Sys2Proof.Machine.execFsqrt o s
  | .frcp o => Sys2Proof.Machine.execFrcp o s
  | .frsq o => Sys2Proof.Machine.execFrsq o s
  | .fexp2 o => Sys2Proof.Machine.execFexp2 o s
  | .flog2 o => Sys2Proof.Machine.execFlog2 o s
  | .fsinpi o => Sys2Proof.Machine.execFsinpi o s
  | .fcospi o => Sys2Proof.Machine.execFcospi o s
  | .cvt o => Sys2Proof.Machine.execCvt o s
  | .qcvt o => Sys2Proof.Machine.execQcvt o s
  | .shfl mode o => Sys2Proof.Machine.execShfl mode o s
  | .vote mode o => Sys2Proof.Machine.execVote mode o s
  | .vred o => Sys2Proof.Machine.execVred o s
  | .vscan o => Sys2Proof.Machine.execVscan o s
  | .vfirst o => Sys2Proof.Machine.execVfirst o s
  | .lds o => Sys2Proof.Machine.execLds o s
  | .sts o => Sys2Proof.Machine.execSts o s
  | .ldsc o => Sys2Proof.Machine.execLdsc o s
  | .stsc o => Sys2Proof.Machine.execStsc o s
  | .ldgRaw o => Sys2Proof.Machine.execLdgRaw o s
  | .ldgElem o => Sys2Proof.Machine.execLdgElem o s
  | .stgRaw o => Sys2Proof.Machine.execStgRaw o s
  | .stgElem o => Sys2Proof.Machine.execStgElem o s
  | .atoms o => Sys2Proof.Machine.execAtoms o s
  | .atomg o => Sys2Proof.Machine.execAtomg o s
  | .red o => Sys2Proof.Machine.execRed o s
  | .fence o => Sys2Proof.Machine.execFence o s
  | .waitc o => Sys2Proof.Machine.execWaitc o s
  | .pref o => Sys2Proof.Machine.execPref o s
  | .cinv o => Sys2Proof.Machine.execCinv o s
  | .gang o => Sys2Proof.Machine.execGang o s
  | .mma o => Sys2Proof.Machine.execMma o s
  | .mzero o => Sys2Proof.Machine.execMzero o s
  | .mld o => Sys2Proof.Machine.execMld o s
  | .mst o => Sys2Proof.Machine.execMst o s
  | .mmov o => Sys2Proof.Machine.execMmov o s
  | .mfence o => Sys2Proof.Machine.execMfence o s
  | .mwait o => Sys2Proof.Machine.execMwait o s
  | .cpy o => Sys2Proof.Machine.execCpy o s
  | .tcpy o => Sys2Proof.Machine.execTcpy o s
  | .coll o => Sys2Proof.Machine.execColl o s
  | .spawn o => Sys2Proof.Machine.execSpawn o s
  | .jdec o => Sys2Proof.Machine.execJdec o s
  | .bar o => Sys2Proof.Machine.execBar o s
  | .bara o => Sys2Proof.Machine.execBara o s
  | .barw o => Sys2Proof.Machine.execBarw o s
  | .barn o => Sys2Proof.Machine.execBarn o s
  | .cbar o => Sys2Proof.Machine.execCbar o s
  | .dbar o => Sys2Proof.Machine.execDbar o s
  | .srd o => Sys2Proof.Machine.execSrd o s
  | .swr o => Sys2Proof.Machine.execSwr o s
  | .trap o => Sys2Proof.Machine.execTrap o s
  | .svc o => Sys2Proof.Machine.execSvc o s
  | .enrd form o => Sys2Proof.Machine.execEnrd form o s
  | .caprd o => Sys2Proof.Machine.execCaprd o s
  | .deferredReturn id => Sys2Proof.Machine.execDeferredReturn id s
  | .globalAccessPerformed id => Sys2Proof.Machine.execGlobalAccessPerformed id s
  | .pageWalkComplete id => Sys2Proof.Machine.execPageWalkComplete id s
  | .faultRecordWrite id => Sys2Proof.Machine.execFaultRecordWrite id s
  | .divergenceStackPopReturn core slot => Sys2Proof.Machine.execDivergenceStackPopReturn core slot s
  | .cinchRelease core slot => Sys2Proof.Machine.execCinchRelease core slot s
  | .matrixFetchComplete id => Sys2Proof.Machine.execMatrixFetchComplete id s
  | .matrixComputeComplete id => Sys2Proof.Machine.execMatrixComputeComplete id s
  | .copyComplete id => Sys2Proof.Machine.execCopyComplete id s
  | .collectiveComplete id => Sys2Proof.Machine.execCollectiveComplete id s
  | .collectiveAbort id why => Sys2Proof.Machine.execCollectiveAbort id why s
  | .teamRetirementStep kid => Sys2Proof.Machine.execTeamRetirementStep kid s
  | .poolRecordEntry kid => Sys2Proof.Machine.execPoolRecordEntry kid s
  | .doorbell fn q producer => Sys2Proof.Machine.execDoorbell fn q producer s
  | .launch c => Sys2Proof.Machine.execLaunch c s
  | .reply c => Sys2Proof.Machine.execReply c s
  | .wait c => Sys2Proof.Machine.execWait c s
  | .waitPoll q => Sys2Proof.Machine.execWaitPoll q s
  | .signal c => Sys2Proof.Machine.execSignal c s
  | .invalidate c => Sys2Proof.Machine.execInvalidate c s
  | .invalidationDone id => Sys2Proof.Machine.execInvalidationDone id s
  | .migrate c => Sys2Proof.Machine.execMigrate c s
  | .migrationDone id => Sys2Proof.Machine.execMigrationDone id s
  | .resolve c => Sys2Proof.Machine.execResolve c s
  | .abort c => Sys2Proof.Machine.execAbort c s
  | .queueSelection die => Sys2Proof.Machine.execQueueSelection die s
  | .setPlacement die => Sys2Proof.Machine.execSetPlacement die s
  | .classChange stk => Sys2Proof.Machine.execClassChange stk s
  | .teamEviction uid => Sys2Proof.Machine.execTeamEviction uid s
  | .teamRestore uid => Sys2Proof.Machine.execTeamRestore uid s
  | .kernelComplete kid => Sys2Proof.Machine.execKernelComplete kid s
  | .abortCleanup kid => Sys2Proof.Machine.execAbortCleanup kid s
  | .deadlineExpiry kid => Sys2Proof.Machine.execDeadlineExpiry kid s
  | .reconciliationWindow stk => Sys2Proof.Machine.execReconciliationWindow stk s
  | .footprintSample stk => Sys2Proof.Machine.execFootprintSample stk s
  | .refillTick die => Sys2Proof.Machine.execRefillTick die s
  | .grantRequest core ctx => Sys2Proof.Machine.execGrantRequest core ctx s
  | .create fn ctx => Sys2Proof.Machine.execCreate fn ctx s
  | .teardown fn ctx => Sys2Proof.Machine.execTeardown fn ctx s
  | .teardownComplete ctx => Sys2Proof.Machine.execTeardownComplete ctx s
  | .free fn ctx => Sys2Proof.Machine.execFree fn ctx s
  | .evict fn ctx => Sys2Proof.Machine.execEvict fn ctx s
  | .resume fn ctx => Sys2Proof.Machine.execResume fn ctx s
  | .integritySweep world => Sys2Proof.Machine.execIntegritySweep world s
  | .dieWorldRequest fn die target => Sys2Proof.Machine.execDieWorldRequest fn die target s
  | .dieWorldChange die => Sys2Proof.Machine.execDieWorldChange die s
  | .scrubComplete die => Sys2Proof.Machine.execScrubComplete die s
  | .leaseStart die => Sys2Proof.Machine.execLeaseStart die s
  | .graceWindowExpiry core => Sys2Proof.Machine.execGraceWindowExpiry core s
  | .coreDrained core => Sys2Proof.Machine.execCoreDrained core s
  | .testPass core => Sys2Proof.Machine.execTestPass core s
  | .testFail core pattern => Sys2Proof.Machine.execTestFail core pattern s
  | .periodBoundary die => Sys2Proof.Machine.execPeriodBoundary die s
  | .channelLeaseEnd u => Sys2Proof.Machine.execChannelLeaseEnd u s
  | .confirmChannelRetirement fn k => Sys2Proof.Machine.execConfirmChannelRetirement fn k s
  | .imbalRefresh stk => Sys2Proof.Machine.execImbalRefresh stk s
  | .matbudgetWindow core => Sys2Proof.Machine.execMatbudgetWindow core s
  | .retentionEntry stk => Sys2Proof.Machine.execRetentionEntry stk s
  | .retentionExit stk lost => Sys2Proof.Machine.execRetentionExit stk lost s
  | .linkEnable fn k value => Sys2Proof.Machine.execLinkEnable fn k value s
  | .lanesTrained k => Sys2Proof.Machine.execLanesTrained k s
  | .linkKeysInstalled k peer => Sys2Proof.Machine.execLinkKeysInstalled k peer s
  | .linkTrainTimeout k => Sys2Proof.Machine.execLinkTrainTimeout k s
  | .flitReceive k f => Sys2Proof.Machine.execFlitReceive k f s
  | .keyUpdate k sending => Sys2Proof.Machine.execKeyUpdate k sending s
  | .heartbeatSend k => Sys2Proof.Machine.execHeartbeatSend k s
  | .heartbeatTimeout k => Sys2Proof.Machine.execHeartbeatTimeout k s
  | .linkLoopTestEnd k pass => Sys2Proof.Machine.execLinkLoopTestEnd k pass s
  | .flitResend k => Sys2Proof.Machine.execFlitResend k s
  | .form fn m => Sys2Proof.Machine.execForm fn m s
  | .domainFormed m result => Sys2Proof.Machine.execDomainFormed m result s
  | .leave fn m => Sys2Proof.Machine.execLeave fn m s
  | .leaveMessage m x => Sys2Proof.Machine.execLeaveMessage m x s
  | .rankTimeout m rank => Sys2Proof.Machine.execRankTimeout m rank s
  | .breakMsg m x => Sys2Proof.Machine.execBreakMsg m x s
  | .spareTakeover m attested => Sys2Proof.Machine.execSpareTakeover m attested s
  | .dbarArrivalMessage m x value early => Sys2Proof.Machine.execDbarArrivalMessage m x value early s
  | .rekey m => Sys2Proof.Machine.execRekey m s
  | .domainDataMessage m msg => Sys2Proof.Machine.execDomainDataMessage m msg s
  | .windowAccessService m req => Sys2Proof.Machine.execWindowAccessService m req s
  | .offer k unused => Sys2Proof.Machine.execOffer k unused s
  | .take k watts => Sys2Proof.Machine.execTake k watts s
  | .ack k watts => Sys2Proof.Machine.execAck k watts s
  | .reclaim k => Sys2Proof.Machine.execReclaim k s
  | .returnMsg k => Sys2Proof.Machine.execReturnMsg k s
  | .reclaimTimeout k => Sys2Proof.Machine.execReclaimTimeout k s
  | .railStep die => Sys2Proof.Machine.execRailStep die s
  | .parOwnWrite fn p w value => Sys2Proof.Machine.execParOwnWrite fn p w value s
  | .activate fn f => Sys2Proof.Machine.execActivate fn f s
  | .suspend fn f => Sys2Proof.Machine.execSuspend fn f s
  | .vfSuspended f => Sys2Proof.Machine.execVfSuspended f s
  | .vfResume fn f => Sys2Proof.Machine.execVfResume fn f s
  | .disable fn f => Sys2Proof.Machine.execDisable fn f s
  | .burstArrival ch p id => Sys2Proof.Machine.execBurstArrival ch p id s
  | .burstServe ch => Sys2Proof.Machine.execBurstServe ch s
  | .snpTrigger fn => Sys2Proof.Machine.execSnpTrigger fn s
  | .snpRead fn addr => Sys2Proof.Machine.execSnpRead fn addr s
  | .exportContext fn ctx => Sys2Proof.Machine.execExportContext fn ctx s
  | .exportPartition fn ctx => Sys2Proof.Machine.execExportPartition fn ctx s
  | .counterReadClear fn reg => Sys2Proof.Machine.execCounterReadClear fn reg s
  | .registerWrite fn reg value => Sys2Proof.Machine.execRegisterWrite fn reg value s
  | .fundamentalReset bad => Sys2Proof.Machine.execFundamentalReset bad s
  | .bringupReady => Sys2Proof.Machine.execBringupReady s
  | .vfReset f => Sys2Proof.Machine.execVfReset f s
  | .pfReset => Sys2Proof.Machine.execPfReset s
  | .unassignedOpcode raw => Sys2Proof.Machine.execUnassignedOpcode raw s
  | .queueUrgent q => Sys2Proof.Machine.execQueueUrgent q s
  | .ideStreamKeyed f secure => Sys2Proof.Machine.execIdeStreamKeyed f secure s
  | .retirementLogExport => Sys2Proof.Machine.execRetirementLogExport s
  | .leaveAcknowledged m x => Sys2Proof.Machine.execLeaveAcknowledged m x s
  | .newMasterSecret m failed spare => Sys2Proof.Machine.execNewMasterSecret m failed spare s
  | .sendReclaim k => Sys2Proof.Machine.execSendReclaim k s

end Sys2Proof.Machine
end

