-- ==== Sys2Proof/Machine/Fetch.lean ====
section
/-! DEFINITION. Fetch and the scan of a quarter: a line through its context's pages (R106 to R116), what one PC slot
would issue next, and which group a quarter selects (R67, R151, R305, R372, R410). -/

namespace Sys2Proof.Machine

open Sys2Proof

/-- How a fetch ends. -/
inductive FetchEnd where
  | line (n : Nat)
  | stop (c : Cause)
  | wait (cause detail level : Nat)
deriving DecidableEq, Repr

/-- The leaf through which an instruction byte is fetched (R115, R206, R209), or how the fetch ends. -/
def State.fetchLeaf (s : State) (p : Payer) (core va : Nat) : Except FetchEnd (Nat × Nat) × State :=
  match s.translate p (stackOfCore core) va false with
  | (.fault c d l, s) => (.error (.wait c d l), s)
  | (.leaf l e _, s) =>
    match s.permit p.ctx e .exec with
    | some c => (.error (.stop c), s)
    | none => if pteFormat e != 0 then (.error (.stop .formatPage), s) else (.ok (l, e), s)

/-- The 64 bytes at an address of the context's own pages: they lie on one page, but for a line of this chip's own window,
whose export may begin at any byte (R430). -/
def State.fetchHere (s : State) (p : Payer) (core va : Nat) : FetchEnd × State :=
  match s.fetchLeaf p core va with
  | (.error f, s) => (f, s)
  | (.ok x, s) =>
    if (va + 63) / 4096 = va / 4096 then
      (.line (leNat ((List.range 64).map fun i => s.keyByte (s.keyNo (pteKey x.2)) (paOf x.1 x.2 va + i))), s)
    else
      match s.fetchLeaf p core (va + 63) with
      | (.error f, s) => (f, s)
      | (.ok y, s) =>
        (.line (leNat ((List.range 64).map fun i =>
          let e := if (va + i) / 4096 = va / 4096 then x else y
          s.keyByte (s.keyNo (pteKey e.2)) (paOf e.1 e.2 (va + i)))), s)

/-- The 64 bytes of the fetch line at `va` (R115, R116, R200, R206, R209). A line of another chip's window is that chip's,
and its contents are free (log 4). -/
def State.fetchLine (s : State) (p : Payer) (core va : Nat) : FetchEnd × State :=
  match s.placeAt p.ctx 64 va with
  | .here va => s.fetchHere p core va
  | .bad => (.stop .read, s)
  | .lost => (.stop (if (s.domOf p.ctx).isNone then .noDomain else .domainLost), s)
  | .remote r =>
    match s.domOf p.ctx with
    | some (_, d) =>
      if (d.entryOf r).isNone then (.stop .addressRange, s)
      else let (x, s) := s.draw (2 ^ 512); (.line x, s)
    | none => (.stop .noDomain, s)

/-- The image of a line: a sector that was fetched ahead of need is as it was then (R116). -/
def PcSlot.image (p : PcSlot) (line : Nat) : Nat :=
  let half (k : Nat) : Nat := (p.ahead.find? fun x => x.1 == p.pc / 64 * 2 + k).elim (line / 2 ^ (256 * k) % 2 ^ 256) Prod.snd
  half 0 + 2 ^ 256 * half 1

/-- The slot's line is to be checked: the group enters it, or has not issued from it (R108). -/
def PcSlot.checks (p : PcSlot) : Bool := p.entered || p.line != some (p.pc / 64)

/-- The image that a PC slot issues from, where `n` is what its line holds now: an image that is to be checked and fails its
parity is fetched once more, and one that then passes counts a corrected error of the core (R107). -/
def State.lineImage (s : State) (me : Issuer) (n : Nat) : Nat × State :=
  match s.group? me.core me.slot with
  | none => (n, s)
  | some g =>
    let p := g.slotAt me.pcs
    let x := p.image n
    if !p.checks || (parityOk x && !(s.coreSt me.core).flip) then (x, s)
    else
      let s := (s.setCore me.core { s.coreSt me.core with flip := false }).setGroup me.core me.slot
        (g.setSlot me.pcs { p with ahead := [] })
      (n, if parityOk n then s.unitError me.core false else s)

/-- A sector of a slot's line is fetched ahead of need, where its page is at hand; a fault of it is not seen (R108, R116). -/
def State.fetchAhead (s : State) (core slot pcs half : Nat) : State :=
  match s.group? core slot with
  | none => s
  | some g =>
    let p := g.slotAt pcs
    let c := (s.team g.team).ctx
    let va := p.pc / 64 * 64
    if va / 2 ^ 56 ≠ 0 then s
    else
      match s.cached c (stackOfCore core) va false with
      | some (l, e) =>
        if (s.permit c e .exec).isSome then s
        else
          let k := va / 32 + half % 2
          let x := leNat ((List.range 32).map fun i => s.keyByte (s.keyNo (pteKey e)) (paOf l e va + 32 * (half % 2) + i))
          s.setGroup core slot (g.setSlot pcs { p with ahead := (k, x) :: p.ahead.filter fun y => y.1 / 2 == k / 2 && y.1 != k })
      | none => s

/-- What a PC slot issues next. -/
inductive Act where
  | one (i : Instr)
  | two (i j : Instr)
  | stop (c : Cause) (second : Bool)      -- a fault of step 1 of R127, or of a pair
deriving DecidableEq, Repr

/-- Steps 2 and 3 of R127 for one slot of a pair. -/
def firstSteps (i : Instr) : Option Cause :=
  match i.fields, i.row with
  | some o, some r => i.checkWide o r
  | _, _ => some .unassignedOpcode

/-- Steps 5 to 8 of R127. -/
def laterSteps (i : Instr) : Option Cause :=
  match i.fields, i.row with
  | some o, some r => i.checkFields o r
  | _, _ => none

def instrFields (i : Instr) : Fields := i.fields.getD {}

/-- Steps 9 and 10 of R127. -/
def lastSteps (i : Instr) (e : Env) : Option Cause :=
  if accBad i e then some .accumulatorBound
  else if latchBad e.g i (instrFields i) then some .illegalOperand
  else none

/-- The checks of R127 that come before the waits, for the slot at `pc` of a fetched line; the line's own where it is to be
checked (R108). DESIGN CHOICE: an illegal pair is reported for its first slot; R127 reports a failure for the slot in which it
arose, and step 4 is the pair's (log 18). -/
def planLine (line pc : Nat) (entered checks : Bool) : Act :=
  match slotIndex pc with
  | none => .stop .misalignedTarget false
  | some n =>
    match (if checks then lineCheck line else none) with
    | some c => .stop c false
    | none =>
      if entered && !lineTarget line n then .stop .unmarkedTarget false
      else
        let i := slotInstr (lineSlot line n) (lineImm line n)
        if !linePair line n then .one i
        else
          let j := slotInstr (lineSlot line (n + 1)) none
          match firstSteps i, firstSteps j with
          | some c, _ => .stop c false
          | none, some c => .stop c true
          | none, none =>
            if !pairLegal i j then .stop .illegalPair false
            else
              match laterSteps i with
              | some c => .stop c false
              | none => .two i j

/-- Steps 5 to 10 of R127 for a pair, the first slot's before the second's. -/
def pairFault (i j : Instr) (ei ej : Env) : Option (Cause × Bool) :=
  match lastSteps i ei with
  | some c => some (c, false)
  | none =>
    match laterSteps j with
    | some c => some (c, true)
    | none => (lastSteps j ej).map fun c => (c, true)

/-! ## The scan -/

/-- The die's matrix budget holds back further matrix issues of a core in this window (R305). -/
def State.budgetSpent (s : State) (core : Nat) : Bool :=
  let b := (s.dieSt (dieOfCore core)).budget
  b != 0 && (s.coreSt core).issues ≥ b

inductive Peek where
  | none                -- the slot is empty, held or waits at issue
  | both                -- it waits, and holds the group's other slot too
  | budget
  | go (a : Act)
deriving DecidableEq, Repr

/-- A step of a scan that asks a wait of an instruction whose own checks pass. -/
def State.peekWait (s : State) (i : Instr) (me : Issuer) : Peek :=
  match i.check, s.envAt me (instrFields i) with
  | none, some e =>
    if s.ringWait i e then .both
    else if isMatrixIssue i && s.budgetSpent me.core then .budget
    else if s.waits i e then .none
    else .go (.one i)
  | _, _ => .go (.one i)

/-- A fetch that meets a replayable fault holds its slot until the driver resolves it (R115, R215). -/
def State.fetchWait (s : State) (me : Issuer) (g : Group) (t : Team) (ps : PcSlot) (c d l : Nat) : State :=
  let (id, s) := s.fresh
  let a : Access := { core := me.core, slot := me.slot, pcs := me.pcs, tag := g.tag, team := g.team, gidx := g.idx,
                      kid := t.kid, ctx := t.ctx, pc := ps.pc, space := .global, op := .fetch, lanes := ps.mask, left := ps.mask,
                      fault := some { va := ps.pc / 64 * 64, cause := c, detail := d, level := l, kind := 3,
                                      lanes := ps.mask } }
  ({ s with acc := s.acc.put id a } : State).onIssuer me fun g =>
    g.setSlot me.pcs { g.slotAt me.pcs with held := .fetch id }

/-- Look at one PC slot of a group: what it would issue, and the state after its fetch. DESIGN CHOICE: the checks of a single
instruction, and of a pair's first slot, come before the waits at issue; steps 5 to 8 of a pair's second slot come after them,
as steps 9 and 10 do (R127 does not say; log 18). -/
def State.peek (s : State) (me : Issuer) : Peek × State :=
  match s.group? me.core me.slot with
  | none => (.none, s)
  | some g =>
    let ps := g.slotAt me.pcs
    if ps.mask == 0 || ps.held != .no then (.none, s)
    else
      let t := s.team g.team
      match s.fetchLine { ctx := t.ctx, core := some me.core, team := some g.team } me.core (ps.pc / 64 * 64) with
      | (.wait c d l, s) => (.none, s.fetchWait me g t ps c d l)
      | (.stop c, s) => (.go (.stop c false), s)
      | (.line n, s) =>
        let (n, s) := s.lineImage me n
        match planLine n ps.pc ps.entered ps.checks with
        | .one i => (s.peekWait i me, s)
        | .two i j =>
          match s.envAt me (instrFields i), s.envAt me (instrFields j) with
          | some ei, some ej =>
            if s.waits i ei || s.waits j ej then (.none, s)
            else
              match pairFault i j ei ej with
              | some (c, second) => (.go (.stop c second), s)
              | none => (.go (.two i j), s)
          | _, _ => (.none, s)
        | .stop c b => (.go (.stop c b), s)

/-- What a look at a group finds. -/
inductive Found where
  | none
  | budget
  | go (pcs : Nat) (a : Act)
deriving DecidableEq, Repr

/-- Look at both slots of a group, the one to be issued from first before the other (R67, R151); both wait for the
reply to a service or trap record (R159). -/
def State.look (s : State) (core slot : Nat) : Found × State :=
  match s.group? core slot with
  | none => (.none, s)
  | some g =>
    if g.svc.isSome || (s.team g.team).evict then (.none, s) else
    let s := (s.recheck core slot 0).recheck core slot 1
    let x := 1 - g.lastPcs
    match s.peek { core := core, slot := slot, pcs := x } with
    | (.both, s) => (.none, s)
    | (p, s) =>
      match s.peek { core := core, slot := slot, pcs := 1 - x } with
      | (.both, s) => (.none, s)
      | (q, s) =>
        match p, q with
        | .go a, _ => (.go x a, s)
        | _, .go a => (.go (1 - x) a, s)
        | .budget, _ | _, .budget => (.budget, s)
        | _, _ => (.none, s)

/-- The scan of a quarter over its groups in order (R372): a yielded group is passed over once (R151), one without
allowance is in ENERGY, one held back by the budget is counted (R306). -/
def State.scan (s : State) (core : Nat) : List Nat → Option (Nat × Nat × Act) × State
  | [] => (none, s)
  | slot :: r =>
    match s.group? core slot with
    | none => s.scan core r
    | some g =>
      let c := (s.team g.team).ctx
      if g.yielded then (s.setGroup core slot { g with yielded := false }).scan core r
      else if !s.hasAllowance core c then s.scan core r
      else
        match s.look core slot with
        | (.go x a, s) => (some (slot, x, a), s)
        | (.budget, s) => (s.countMat core c 0).scan core r
        | (.none, s) => s.scan core r

/-- The group slots of a quarter that hold a group, in the order of its scan. -/
def State.scanOrder (s : State) (core q : Nat) : List Nat :=
  let last := (s.coreSt core).lastQ.getD q 255
  let mine := ((s.groupsOn core).map Prod.fst).filter fun x => x / 256 == q
  mine.filter (fun x => x % 256 > last) ++ mine.filter (fun x => x % 256 ≤ last)

/-- The throttle of the stack leaves this clock to the quarter (R410). -/
def State.throttleOk (s : State) (core q : Nat) : Bool :=
  let st := s.stackSt (stackOfCore core)
  match (s.coreSt core).issuedAt.getD q none with
  | some at_ => st.throttle == 0 || st.clock ≥ at_ + 2 ^ st.throttle
  | none => true

/-- Record the selection of a group by its quarter. -/
def State.selected (s : State) (core slot : Nat) : State :=
  let c := s.coreSt core
  let st := s.stackSt (stackOfCore core)
  let s := s.setCore core { c with
    lastQ := setAt c.lastQ (slot / 256) (slot % 256)
    issuedAt := setAt c.issuedAt (slot / 256) (if st.throttle = 0 then none else some st.clock) }
  s.setStack (stackOfCore core) { s.stackSt (stackOfCore core) with idle := 0 }

/-- Free the names that LAST names in either instruction of a pair, before either writes (R94, R114), and keep the
operand stage busy for both (R99). -/
def State.pairReads (s : State) (me : Issuer) (i j : Instr) : State :=
  match s.group? me.core me.slot with
  | none => s
  | some g =>
    let oi := instrFields i
    let oj := instrFields j
    let s := s.setGroup me.core me.slot { g with v := eraseAll g.v (lastNames i oi ++ lastNames j oj) }
    { s.busyFor me.core me.slot (bankCycles g (allNames i oi ++ allNames j oj)) with pair := some g }

/-- Causes that a fetch finds: their report carries the line's address as the faulting address (R115, R353; log 15). -/
def Cause.ofFetch : Cause → Bool
  | .lineReserved | .parity | .unmarkedTarget | .wideLayout | .pairLayout | .misalignedTarget | .noExecute
  | .formatPage | .world | .key | .noDomain | .domainLost | .read | .addressRange => true
  | _ => false

/-- A fault found before issue: a fetch fault of the line, or a fault of one slot of a pair (R115, R127). The
instruction that fails is charged its issue weight. -/
def State.stopAt (s : State) (me : Issuer) (c : Cause) (second : Bool) : State :=
  match s.envAt me {} with
  | none => s
  | some e =>
    let pc := if second then nextSlot e.pc 1 else e.pc
    (s.charge e.payer (s.wt e.payer 0)).faultAt { e with pc := pc } c e.live (if Cause.ofFetch c then pc / 64 * 64 else 0)

/-! ## Placing one instruction (log 2) -/

/-- The line whose slot 0 holds the words `w`; an instruction of more than one slot fills slot 1 and is marked wide. -/
def lineFor (nbits w : Nat) : Nat :=
  let l := if nbits ≤ 96 then w % 2 ^ 96 else w % 2 ^ 192 + 2 ^ 491
  l + 2 ^ 504 * parityField l

/-- Leaf of the page that holds the line: valid, leaf, all permissions, raw, kind R, physical address 0. -/
def wordLeaf : Nat := 0x3F

/-- One group of one team of one kernel of context 0 on core 0, at the line's slot 0, and the move that issues it. -/
def placeWord (s : State) (nbits w : Nat) : State :=
  { s with
    agenda := .quarter 0 0 :: s.agenda
    groups := s.groups.put 0 { slot0 := { mask := 0xFFFFFFFF } }
    teams := s.teams.put 0 { slots := [0], live := [0] }
    kernels := s.kernels.put 0 { rec_ := { regs := 256, team := 1, gridTeams := 1 }, st := .running }
    ctxs := s.ctxs.put 0 { s.ctx 0 with st := .active, rate := 0xFFFFFF, enable := true }
    tlb := { stack := 0, ctx := 0, level := 0, vnum := 0, pte := wordLeaf, wr := true } :: s.tlb
    sealKey := Tbl.set 0 (Tbl.set 0 s.sealKey 0 0) 1 0
    mem := writeBytes s.mem 0 (leBytes 64 (lineFor nbits w)) }

end Sys2Proof.Machine
end

