-- ==== Sys2Proof/Machine/Run.lean ====
section
/-! DEFINITION. One move of one agent: a clock of a quarter, the Harness head at a queue, a step of another agent, a
clock of a counter, an event from outside. -/

namespace Sys2Proof.Machine

open Sys2Proof

/-- Issue a legal pair from its PC slot: both read before either writes (R114); the second is lost where the first
ended the group. -/
def runPair (me : Issuer) (i j : Instr) (s : State) : Host.Outcome State Fault Refusal :=
  match exec i (s.pairReads me i j) with
  | .next s =>
    match s.group? me.core me.slot with
    | none => .next { s with pair := none }
    | some _ =>
      match exec j s with
      | .next s => .next { s with pair := none }
      | r => r
  | r => r

/-- What the scan found, run from its PC slot. -/
def runAct (me : Issuer) (a : Act) (s : State) : Host.Outcome State Fault Refusal :=
  let s := { s with cur := me }
  match a with
  | .one i => exec i s
  | .two i j => runPair me i j s
  | .stop c second => .next (s.stopAt me c second)

/-- One clock of a quarter (R99, R372, R410, R412). -/
def runQuarter (core q : Nat) (s : State) : Host.Outcome State Fault Refusal :=
  let c := s.coreSt core
  let busy := c.busy.getD q 0
  if (s.stackSt (stackOfCore core)).retention then .next s
  else if busy > 0 then .next (s.setCore core { c with busy := setAt c.busy q (busy - 1) })
  else if !s.throttleOk core q then .next s
  else
    match s.scan core (s.scanOrder core q) with
    | (none, s) => .next s
    | (some (slot, x, a), s) => runAct { core := core, slot := slot, pcs := x } a (s.selected core slot)

/-- The Harness head at a queue (R356, R360). -/
def runHead (q : Nat) (s : State) : Host.Outcome State Fault Refusal :=
  match s.findCommand q with
  | (.nothing, s) => .next s
  | (.fault, s) => .next (s.setQueue q { s.queue q with fault := 1 })
  | (.after, s) => .next (s.setQueue q { s.queue q with pend := true })
  | (.unknown done, s) => .next (s.malformedCmd { q := q, done := done })
  | (.command i, s) => exec i s

/-- A write of a function's window: at a register, or where none lies (R453). -/
def runWrite (fn off : Nat) (v : W64) (s : State) : Host.Outcome State Fault Refusal :=
  match s.barReg fn off with
  | some (r, _) => exec (.registerWrite fn r v) s
  | none => .next (if s.ready then s.refuseWrite fn else s)

/-- A read of a function's window: zero where no register lies. -/
def runRead (fn off : Nat) (s : State) : State :=
  match s.barReg fn off with
  | some (r, up) => s.regRead fn r up
  | none => s.send { kind := 20, dst := fn, words := [0] }

/-- One move. -/
def runMove (m : Move) (s : State) : Host.Outcome State Fault Refusal :=
  match m with
  | .quarter core q => runQuarter core q s
  | .head q => runHead q s
  | .op i => exec i s
  | .tick c => .next (s.tick c)
  | .hostWrite pa bytes => if hostRange pa bytes.length then .next (s.hostStore pa bytes) else .fault .noSuchAddress
  | .winRead fn off => .next (runRead fn off s)
  | .winWrite fn off value => runWrite fn off value s
  | .ecc at_ bad => .next (s.eccError at_ bad)
  | .l1Evict core vline => .next (s.evictL1 core vline)
  | .tlbEvict stack vnum => .next (s.evictTlb stack vnum)
  | .l2Evict line => .next (s.evictL2 line)
  | .fetchAhead core slot pcs half => .next (s.fetchAhead core slot pcs half)
  | .raceByte kid team va b => .next (s.raceByte kid team va b)
  | .raceAbort kid cause => .next (s.raceAbort kid cause)
  | .scrubCore die => .next (s.scrubCore die)

end Sys2Proof.Machine
end

