-- ==== Sys2Proof/Machine/Step.lean ====
section
/-! DEFINITION. The step: the machine makes the next move of its agenda, or with an empty agenda a free one (log 1);
and the state whose next step runs given words (log 2). -/

namespace Sys2Proof.Machine

open Sys2Proof

/-- The next move and the state without it. -/
def State.takeMove (s : State) : Move × State :=
  match s.agenda with
  | m :: r => (m, { s with agenda := r })
  | [] => (Config.freeMove s.free, { s with free := s.free + 1 })

def step (s : State) : Host.Outcome State Fault Refusal := runMove s.takeMove.1 s.takeMove.2

/-- The state whose next step fetches and runs the words `w` in slot 0 of a line: the move of quarter 0 of core 0, one
group of one team of one kernel of context 0, its page in the stack TLB, and the line. -/
def State.withFetchWord (s : State) (nbits w : Nat) : State := placeWord s nbits w

end Sys2Proof.Machine
end

