-- ==== Sys2Proof/Safety.lean ====
section
/-! DEFINITION. The terms in which statements speak: the invariant every step keeps, when an instruction issues, what
issue alone changes, and the exact integer operations of R141 and R174 on bit vectors. -/

namespace Sys2Proof.Machine

open Sys2Proof

/-! ## The invariant of a safe run -/

/-- Memory, the scratchpads and the tile arrays are in canonical form: keys strictly rising, no byte listed that reads
as an unlisted one. -/
abbrev State.Inv (s : State) : Prop :=
  Memory.wf s.mem = true ∧ Memory.wf s.sram = true ∧ Memory.wf s.tile = true

/-! ## Issue -/

/-- The instruction issues: a resident group's PC slot is the issuer, the words pass every check of R127, nothing of
R76 to R78 or of the instruction's own rule waits (a pair waits as one, before either issues), its tiles lie in the
allotment, its latch entries are valid. -/
structure Ready (i : Instr) (s : State) (e : Env) : Prop where
  issuer : s.envAt s.cur e.o = some e
  fields : i.fields = some e.o
  legal : i.check = none
  runs : s.pair = none → s.waits i e = false
  tiles : accBad i e = false
  latch : latchBad e.g i e.o = false

/-- The issuing group after issue and before the effect: the latch aged and held (R100), the names of LAST free (R94;
a pair frees them before either issues; which names log 18 says), the PC slot at the next instruction (R109). -/
def Env.issued (e : Env) (i : Instr) (paired : Bool) (g : Group) : Group :=
  ({ g with
    latch := e.latchAfter i g
    v := if paired then g.v else eraseAll g.v (lastNames i e.o)
    lastPcs := e.me.pcs } : Group).setSlot e.me.pcs
    { g.slotAt e.me.pcs with
      pc := nextSlot (g.slotAt e.me.pcs).pc (if e.o.wide.isSome then 2 else 1), entered := false
      line := some ((g.slotAt e.me.pcs).pc / 64) }

/-- The state without its groups, accounts and counts of issue: what an instruction that only writes registers
leaves as it was, all memory included. -/
def State.besideIssue (s : State) : State :=
  { s with groups := [], ctxs := [], allow := [], teams := [], stks := [], cores := [], regEvents := [] }

/-- `t` differs from `s` only in groups and in what charges and counts of issue write: the account and the bucket level
of contexts, the running charge of teams, the window's charges of stacks, the operand stage's clocks of cores, the
unmapped-read counts. -/
structure OnlyCharged (s t : State) : Prop where
  beside : t.besideIssue = s.besideIssue
  ctxs : ∀ c, t.ctx c = { s.ctx c with charged := (t.ctx c).charged, level := (t.ctx c).level }
  teams : ∀ u, t.teams.find? u = (s.teams.find? u).map fun x => { x with charge := (t.team u).charge }
  stks : ∀ k, t.stackSt k = { s.stackSt k with charges := (t.stackSt k).charges, kernC := (t.stackSt k).kernC }
  cores : ∀ c, t.coreSt c = { s.coreSt c with busy := (t.coreSt c).busy }

/-- `t` is what issue of `e` leaves where the instruction's effect on its group is `f`: every other group is as it was,
the issuing group is as issue left it changed by `f`, and beside groups only charges and counts differ. -/
structure IssuedOnly (i : Instr) (e : Env) (s t : State) (f : Group → Group) : Prop where
  charged : OnlyCharged s t
  others : ∀ k, k ≠ gkey e.me.core e.me.slot → t.groups.find? k = s.groups.find? k
  group : t.group? e.me.core e.me.slot = (s.group? e.me.core e.me.slot).map fun g => f (e.issued i s.pair.isSome g)

/-! ## Accesses in flight -/

/-- What every access of the issuing slot carries (R77, R225): whose it is, and its instruction's address. -/
def Env.access (e : Env) (now : Group) : Access :=
  { core := e.me.core, slot := e.me.slot, pcs := e.me.pcs, tag := now.tag, team := now.team, gidx := e.g.idx,
    kid := e.kid, ctx := e.team.ctx, pc := e.pc, prior := (now.slotAt e.me.pcs).seen, space := .global, op := .load }

/-- The state with one more access in flight. -/
def State.withAccess (s : State) (a : Access) : State := { s with acc := s.acc.put s.next a, next := s.next + 1 }

/-- A group whose PC slot `x` has put the state's next access in flight: what it issues from now on follows that access too
(R225). -/
def Group.after (g : Group) (x : Nat) (s : State) : Group := g.setSlot x (s.seenAfter (g.slotAt x) s.next)

/-- A group with a path counter raised by one (R77). -/
def Group.raised (g : Group) (p : Nat) : Group := { g with pathc := setAt g.pathc p (g.pathc.getD p 0 + 1) }

/-! ## Register writes -/

/-- The numbers of names mapped, once `names` are written too, stay within the register ceiling (R97). -/
def Env.room (e : Env) (v : Tbl VReg) (names : List Nat) : Prop :=
  (names.foldl (fun t n => t.put n []) v).length ≤ e.kern.rec_.regs

/-- The names a result of 32 or 64 bits takes (R36). -/
def resultNames (d : Nat) (wide : Bool) : List Nat := if wide then [d, d + 1] else [d]

/-- The name map after a 32- or 64-bit result `val` for the lanes of `m` (R36, R93, R167): a written lane holds its
result, another lane of a written name its old contents, zero where the name was unmapped, every other name as before;
with no lane nothing is written. -/
structure VecWrite (d : Nat) (wide : Bool) (m : Mask) (val : Nat → Nat) (v v' : Tbl VReg) : Prop where
  none : m = 0 → v' = v
  low : m ≠ 0 → ∀ l, l < 32 →
    laneOf (v'.get [] d) l = if m.getLsbD l then BitVec.ofNat 32 (val l) else laneOf (v.get [] d) l
  high : m ≠ 0 → wide = true → ∀ l, l < 32 →
    laneOf (v'.get [] (d + 1)) l =
      if m.getLsbD l then BitVec.ofNat 32 (val l / 2 ^ 32) else laneOf (v.get [] (d + 1)) l
  others : ∀ n, n ∉ resultNames d wide → v'.find? n = v.find? n

/-- A predicate register of a group written whole; p0 takes no write (R91). -/
def Group.writePred (g : Group) (d : Nat) (x : W32) : Group :=
  if d = 0 then g else { g with preds := g.preds.set 0 d x }

/-- A scalar register of a group written whole. -/
def Group.writeScal (g : Group) (d : Nat) (x : W64) : Group := { g with sreg := g.sreg.set 0 d x }

/-! ## Integer operations on bit vectors (R141, R174) -/

inductive IntOp where
  | add | sub | mul | mulh | mad | min | max | and | or | xor | andn | not | shl | shr | sra | rot | popc | clz | brev
  | bfe | bfi | abs | neg | mov
deriving DecidableEq, Repr

/-- A word read by a type's signedness. -/
def wordVal (signed : Bool) {w : Nat} (a : BitVec w) : Int := if signed then a.toInt else a.toNat

/-- The word nearest to an exact value within a type's range: what .sat writes (R37). -/
def nearestWord (signed : Bool) (w : Nat) (x : Int) : BitVec w :=
  let lo : Int := if signed then -(2 ^ (w - 1)) else 0
  let hi : Int := if signed then 2 ^ (w - 1) - 1 else 2 ^ w - 1
  BitVec.ofInt w (if x < lo then lo else if hi < x then hi else x)

/-- Position and length that a field descriptor gives, cut to the width (R141). -/
def fieldPos (w d : Nat) : Nat := min (d % 256) w
def fieldLen (w d : Nat) : Nat := min (d / 256 % 256) (w - fieldPos w d)

/-- The result word of an integer operation of width `w` on operand words a, b and c (R141, R174). -/
def IntOp.result (op : IntOp) (sat signed : Bool) {w : Nat} (a b c : BitVec w) : BitVec w :=
  let k := b.toNat % 256
  match op with
  | .add => if sat then nearestWord signed w (wordVal signed a + wordVal signed b) else a + b
  | .sub => if sat then nearestWord signed w (wordVal signed a - wordVal signed b) else a - b
  | .mul => if sat then nearestWord signed w (wordVal signed a * wordVal signed b) else a * b
  | .mad => if sat then nearestWord signed w (wordVal signed a * wordVal signed b + wordVal signed c) else a * b + c
  | .mulh =>
    if signed then (a.signExtend (2 * w) * b.signExtend (2 * w)).extractLsb' w w
    else (a.setWidth (2 * w) * b.setWidth (2 * w)).extractLsb' w w
  | .min => if (if signed then a.slt b else a.ult b) then a else b
  | .max => if (if signed then a.slt b else a.ult b) then b else a
  | .and => a &&& b
  | .or => a ||| b
  | .xor => a ^^^ b
  | .andn => a &&& ~~~b
  | .not => ~~~a
  | .shl => a <<< k
  | .shr => a >>> k
  | .sra => a.sshiftRight k
  | .rot => a.rotateLeft (k % w)
  | .popc => BitVec.ofNat w ((List.range w).filter fun i => a.getLsbD i).length
  | .clz => BitVec.ofNat w ((List.range w).takeWhile fun i => !a.getMsbD i).length
  | .brev => a.reverse
  | .bfe =>
    let f := a >>> fieldPos w b.toNat
    let n := fieldLen w b.toNat
    if signed ∧ 0 < n then (f.setWidth n).signExtend w else (f.setWidth n).setWidth w
  | .bfi =>
    let n := fieldLen w c.toNat
    let m := (BitVec.allOnes n).setWidth w <<< fieldPos w c.toNat
    (a &&& ~~~m) ||| (b <<< fieldPos w c.toNat &&& m)
  | .abs =>
    let x := ((wordVal signed a).natAbs : Int)
    if sat then nearestWord signed w x else BitVec.ofInt w x
  | .neg => if sat then nearestWord signed w (-(wordVal signed a)) else -a
  | .mov => a

/-- The scalar instructions that compute one of these operations (R141, R143). -/
def scalarOps : List ((Fields → Instr) × IntOp) :=
  [(.sadd, .add), (.ssub, .sub), (.smin, .min), (.smax, .max), (.smul, .mul), (.smulh, .mulh), (.smad, .mad),
   (.sand, .and), (.sor, .or), (.sxor, .xor), (.sandn, .andn), (.sshl, .shl), (.sshr, .shr), (.ssra, .sra),
   (.spopc, .popc), (.sclz, .clz), (.sbfe, .bfe), (.sbfi, .bfi), (.smov, .mov)]

/-- The vector instructions that compute one of these operations per lane (R174). -/
def vectorOps : List ((Fields → Instr) × IntOp) :=
  [(.vadd, .add), (.vsub, .sub), (.vmul, .mul), (.vmulh, .mulh), (.vmad, .mad), (.vmin, .min), (.vmax, .max),
   (.vand, .and), (.vor, .or), (.vxor, .xor), (.vnot, .not), (.vshl, .shl), (.vshr, .shr), (.vsra, .sra), (.vrot, .rot),
   (.vpopc, .popc), (.vclz, .clz), (.vbrev, .brev), (.vbfe, .bfe), (.vbfi, .bfi), (.vabs, .abs), (.vneg, .neg),
   (.vmov, .mov)]

/-! ## Lanes that take part, and the floating operations -/

/-- The visible lanes that take part in a lane instruction, in increasing index (R87, R193). -/
def Env.seen (e : Env) : List Nat := (List.range e.nLanes).filter fun j => e.run.getLsbD (e.phys j)

/-- Those of them whose bit of predicate source `x` is set. -/
def Env.seenIn (e : Env) (x : Src) : List Nat := e.seen.filter fun j => (e.predSrc x).getLsbD (e.phys j)

/-- What VOTE writes (R195). -/
def voteResult (mode : VoteMode) (seen ones : List Nat) : Nat :=
  match mode with
  | .any => if ones = [] then 0 else 1
  | .all => if ones.length = seen.length then 1 else 0
  | .eq => if ones.length = seen.length ∨ ones = [] then 1 else 0
  | .ballot => (ones.map fun j => 2 ^ j).sum

/-- The lane that SHFL reads for visible lane `l` with selector `k` (R194). -/
def shuffleLane (mode : ShflMode) (w l k : Nat) : Nat :=
  let base := w * (l / w)
  match mode with
  | .idx => base + k % w
  | .up => if base + k ≤ l then l - k else l
  | .down => if l + k < base + w then l + k else l
  | .xor => base + ((l % w) ^^^ (k % w))

/-- The segment width of SHFL among `n` visible lanes (R194, R199). -/
def shuffleWidth (code n : Nat) : Nat := if code = 0 then n else 32 / 2 ^ code

/-- Floating instructions of one format and a rounding mode, with the lane's operation (R179 to R182). -/
def floatOps : List ((Fields → Instr) × (Fmt → RMode → Nat → Nat → Nat → Nat × FFlags)) :=
  [(.fadd, fun f m a b _ => fAdd f m a b), (.fsub, fun f m a b _ => fSub f m a b), (.fmul, fun f m a b _ => fMul f m a b),
   (.ffma, fun f m a b c => fFma f m a b c), (.fmin, fun f _ a b _ => fMinMax f false false a b),
   (.fmax, fun f _ a b _ => fMinMax f true false a b), (.fminNan, fun f _ a b _ => fMinMax f false true a b),
   (.fmaxNan, fun f _ a b _ => fMinMax f true true a b)]

/-- The functions of one source whose result the spec leaves open within bounds (R187, R188). -/
def approxOps : List ((Fields → Instr) × (Fmt → Nat → Nat → Nat × FFlags)) :=
  [(.frcp, fRcp), (.frsq, fRsq), (.fexp2, fExp2), (.flog2, fLog2), (.fsinpi, fSinpi), (.fcospi, fCospi)]

/-- The predicate instructions of two or one predicate sources (R178). -/
def predOps : List ((Fields → Instr) × (Bool → Bool → Bool)) :=
  [(.pand, fun a b => a && b), (.por, fun a b => a || b), (.pxor, fun a b => a != b), (.pnot, fun a _ => !a)]

/-! ## Control -/

/-- A group whose PC slot `x` was transferred to `a` (R111, R145). -/
def Group.movedTo (g : Group) (x a : Nat) : Group := g.setSlot x { g.slotAt x with pc := a, entered := true }

/-- A group whose PC slot `x` is held (R65). -/
def Group.heldAt (g : Group) (x : Nat) (h : Held) : Group := g.setSlot x { g.slotAt x with held := h }

/-- The two sides of a split (R68): the slot keeps the lanes that do not branch, the other takes the taken lanes at the
target; both take the index, and what precedes the split precedes what either issues (R225). -/
def Group.split (g : Group) (x : Nat) (stay taken : Mask) (target index : Nat) : Group :=
  (g.setSlot x { g.slotAt x with mask := stay, index := index }).setSlot (1 - x)
    { pc := target, mask := taken, index := index, entered := true, seen := (g.slotAt x).seen }

/-- A merge with an empty stack (R69): slot 0 takes both slots' lanes and continues at `pc` with no index, after the accesses
of both (R225); the line that a slot at `pc` last issued from is its own. -/
def Group.merged (g : Group) (pc : Nat) : Group :=
  { g with
    slot0 := { pc := pc, mask := g.slot0.mask ||| g.slot1.mask, index := 0xFF
               line := if g.slot0.pc = pc then g.slot0.line else g.slot1.line
               seen := joinIds g.slot0.seen g.slot1.seen }
    slot1 := {} }

/-- Every byte of memory reads as before, under every key. -/
def SameMemory (s t : State) : Prop := t.mem = s.mem ∧ t.sealKey = s.sealKey

/-- A kernel was aborted (R350, R351): it is in ABORTING with this record, every group slot its teams held is empty, it
holds no record to place, and no byte of memory, scratchpads or tiles changed. -/
structure Aborted (s t : State) (kid : Nat) (info : AbortInfo) : Prop where
  state : (t.kern kid).st = .aborting
  record : (t.kern kid).abort = some info
  pool : (t.kern kid).pool = []
  killed : ∀ u x, s.teams.find? u = some x → x.kid = kid → ∀ slot ∈ x.slots, t.group? x.core slot = none
  memory : SameMemory s t ∧ t.sram = s.sram ∧ t.tile = s.tile

/-- The record of a fault of the issuing instruction (R353). -/
def Env.report (e : Env) (c : Cause) (lanes : Mask) (addr : Nat := 0) : AbortInfo :=
  { status := 3, cause := c.code, core := e.me.core, slot := e.me.slot, pcSlot := e.me.pcs, lanes := lanes,
    team := e.team.idx, pc := e.pc, address := addr }

/-- The issuing group's kernel is known and short of COMPLETING (R349). -/
def Env.abortable (e : Env) (s : State) : Prop := ∃ k, s.kernels.find? e.kid = some k ∧ k.st.abortable = true

/-! ## Memory instructions -/

/-- What the scratchpad and global instructions put in flight: the operation, the elements of a lane, whether a result
returns, whether protected pairs are compared (R88), a lane's data. -/
structure MemForm where
  op : Fields → AccOp
  count : Fields → Nat
  ret : Fields → Bool
  compared : Bool
  data : Env → Nat → List Nat

def scratchForms : List ((Fields → Instr) × Bool × MemForm) :=
  [(.lds, false, ⟨fun _ => .load, vecCount, fun _ => true, false, fun _ _ => []⟩),
   (.sts, false, ⟨fun _ => .store, vecCount, fun _ => false, true, fun e l => e.storeData (vecCount e.o) l⟩),
   (.ldsc, true, ⟨fun _ => .load, vecCount, fun _ => true, false, fun _ _ => []⟩),
   (.stsc, true, ⟨fun _ => .store, vecCount, fun _ => false, true, fun e l => e.storeData (vecCount e.o) l⟩),
   (.atoms, false, ⟨fun o => .atom (o.md.spec.toNat % 16) (!o.md.spec.getLsbD 4), fun _ => 1,
     fun o => !o.md.spec.getLsbD 4, true, fun e l => e.atomData l⟩)]

/-- The global instructions, with the path counter each raises (R77). -/
def globalForms : List ((Fields → Instr) × Nat × MemForm) :=
  [(.ldgRaw, 1, ⟨fun _ => .load, vecCount, fun _ => true, false, fun _ _ => []⟩),
   (.ldgElem, 1, ⟨fun _ => .elemLoad, vecCount, fun _ => true, false, fun _ _ => []⟩),
   (.stgRaw, 2, ⟨fun _ => .store, vecCount, fun _ => false, true, fun e l => e.storeData (vecCount e.o) l⟩),
   (.stgElem, 2, ⟨fun _ => .elemStore, vecCount, fun _ => false, true, fun e l => e.storeData (vecCount e.o) l⟩),
   (.atomg, 2, ⟨fun o => .atom (o.md.spec.toNat % 16) true, fun _ => 1, fun _ => true, true, fun e l => e.atomData l⟩),
   (.red, 2, ⟨fun o => .atom (o.md.spec.toNat % 16) false, fun _ => 1, fun _ => false, true, fun e l => e.atomData l⟩)]

def isAtom : AccOp → Bool
  | .atom .. => true
  | _ => false

/-- The access of a memory instruction, beside its space and its addresses. -/
def Env.memAccess (e : Env) (now : Group) (f : MemForm) (path : Nat) : Access :=
  { e.access now with
    op := f.op e.o, path := some path, order := e.o.md.order.toNat, scope := e.o.md.scope.toNat, ty := e.o.ty,
    count := f.count e.o, dst := if f.ret e.o then some e.o.dst.toNat else none, lanes := e.run, left := e.run,
    data := perLane e.run [] (f.data e) }

/-- The bytes that lane `l` of a raw store writes, each with its key and its address: a byte of the scratchpad array or of
physical memory (R207, R265, R266). -/
def State.laneWrites (s : State) (a : Access) (l : Nat) : List (Nat × Nat × Byte) :=
  let va := s.laneVa a l
  let bs := (a.data.getD l []).flatMap (leBytes (tyBytes a.ty))
  (List.range bs.length).map fun i =>
    if a.space == .global then (s.keyFor a (va + i), s.paFor a (va + i), bs.getD i 0) else (0, va + i, bs.getD i 0)

/-- Writes of bytes at consecutive addresses under one key. -/
def keyed (k a : Nat) (bs : List Byte) : List (Nat × Nat × Byte) := (List.range bs.length).map fun i => (k, a + i, bs.getD i 0)

/-- What a byte reads as after writes in order: the last write to its address, else what it read before. -/
def lastWrite (old : Nat → Byte) (ws : List (Nat × Byte)) (k : Nat) : Byte :=
  ((ws.reverse.find? fun w => w.1 == k).map Prod.snd).getD (old k)

/-- Memory after writes in order, each under a key (R207): a byte of a sector that is written under one key alone reads under
that key as the last write to it left it, else as before; a byte of any other sector reads under every key as before. -/
def WrittenTo (s t : State) (ws : List (Nat × Nat × Byte)) : Prop :=
  ∀ k a, (∀ w ∈ ws, w.2.1 / 32 = a / 32 → w.1 = k) → t.under k a = lastWrite (s.under k) (ws.map Prod.snd) a

/-- The registers of every group that stays are as they were. -/
def SameRegisters (s t : State) : Prop :=
  ∀ k g, t.groups.find? k = some g → ∃ g0, s.groups.find? k = some g0 ∧
    g.v = g0.v ∧ g.sreg = g0.sreg ∧ g.preds = g0.preds

/-- The lanes of an access that perform now, all on this chip and all in order (R278), no barrier arrival of its group
waiting for them. -/
structure Performs (s : State) (id : Nat) (a : Access) (lanes : List Nat) : Prop where
  known : s.acc.find? id = some a
  ready : s.readyLanes id a = lanes
  someLane : lanes ≠ []
  here : ∀ l ∈ lanes, ∃ va, s.placeOf a (a.ea.getD l 0) = .here va
  ok : ∀ l ∈ lanes, s.checkLane a l = .ok
  quiet : ∀ g, s.group? a.core a.slot = some g → g.arrival = none

/-! ## Matrix operations, copies and barriers at issue -/

/-- The operation that one group's matrix instruction puts in order as number `id` (R284, R302). -/
def Env.matOp (e : Env) (now : Group) (i : Instr) (a id : Nat) : MatOp :=
  { core := e.me.core, team := now.team, kid := e.kid, ctx := e.team.ctx, pcs := e.me.pcs, pc := e.pc, ins := i,
    members := [{ slot := e.me.slot, tag := now.tag, idx := now.idx, batch := now.batch, a := a, upto := id }] }

/-- The state with one more matrix operation in order. -/
def State.withMat (s : State) (m : MatOp) : State := { s with mats := s.mats.put s.next m, next := s.next + 1 }

/-- `t` is what issue of a matrix instruction leaves, beside `f` on its group: the core's issues of the window rise by one
(R305), and windows_spent is counted only where the budget is reached by it (R306). -/
structure MatIssued (i : Instr) (e : Env) (s t : State) (f : Group → Group) : Prop where
  issued : IssuedOnly i e { s with cores := t.cores, matStall := t.matStall } t f
  here : t.coreSt e.me.core = { s.coreSt e.me.core with
    issues := (s.coreSt e.me.core).issues + 1, busy := (t.coreSt e.me.core).busy,
    spent := (s.coreSt e.me.core).spent ||
      ((s.dieSt (dieOfCore e.me.core)).budget != 0 &&
        decide ((s.dieSt (dieOfCore e.me.core)).budget ≤ (s.coreSt e.me.core).issues + 1)) }
  elsewhere : ∀ c, c ≠ e.me.core → t.coreSt c = s.coreSt c
  stall : ((s.dieSt (dieOfCore e.me.core)).budget = 0 ∨ (s.coreSt e.me.core).spent = true ∨
    (s.coreSt e.me.core).issues + 1 < (s.dieSt (dieOfCore e.me.core)).budget) → t.matStall = s.matStall

/-- The copy that CPY or TCPY puts in flight. -/
def Env.copyOp (e : Env) (now : Group) (i : Instr) (a b : Nat) (c : List Nat) : CopyOp :=
  { core := e.me.core, team := e.g.team, gidx := e.g.idx, kid := e.kid, ctx := e.team.ctx, pcs := e.me.pcs,
    prior := (now.slotAt e.me.pcs).seen, pc := e.pc, ins := i, a := a, b := b, c := c }

/-- The state with one more copy in flight. -/
def State.withCopy (s : State) (c : CopyOp) : State := { s with copies := s.copies.put s.next c, next := s.next + 1 }

/-- What an arrival instruction records and how its slot waits (R324, R326). -/
structure BarForm where
  op : Nat
  n : Env → Nat
  val : Env → Nat
  hold : Env → Held

def barForms : List ((Fields → Instr) × BarForm) :=
  [(.bar, ⟨opBar, fun _ => 0, fun _ => 0, fun _ => .bar⟩),
   (.bara, ⟨opBara, fun e => e.o.md.spec.toNat % 16, fun e => e.scal e.o.a .n32, fun _ => .no⟩),
   (.barn, ⟨opBarn, fun e => e.o.md.spec.toNat % 16, fun e => e.scal e.o.a .n32,
     fun e => .barp (e.o.md.spec.toNat % 16)⟩),
   (.cbar, ⟨opCbar, fun _ => 0, fun _ => 0, fun e => if e.team.cluster = none then .bar else .cbar⟩),
   (.dbar, ⟨opDbar, fun _ => 0, fun e => e.scal e.o.a .n32, fun _ => .dbar⟩)]

/-- The arrival that the issuing slot records. -/
def BarForm.arrival (f : BarForm) (e : Env) (now : Group) : Arrival :=
  { op := f.op, n := f.n e, val := f.val e, lanes := e.live, prior := (now.slotAt e.me.pcs).seen, pcs := e.me.pcs, pc := e.pc }

/-- The last live lanes of the issuing group arrive, with nothing in flight to wait for (R324, R325). -/
def Env.lastToArrive (e : Env) (s : State) (now : Group) : Prop :=
  s.group? e.me.core e.me.slot = some now ∧ now.arrival = none ∧ now.liveLanes &&& ~~~e.live = 0 ∧ now.liveLanes ≠ 0 ∧
  s.accOf e.me.core e.me.slot now.tag = []

/-! ## Engines -/

/-- Every page of `n` bytes at `va` is held by the stack's TLB and lets `k` through. -/
def State.reaches (s : State) (ctx stack va n : Nat) (k : AccKind) : Prop :=
  ∀ u ∈ unitsOf va n, ∃ l e, s.cached ctx stack u (k == .write || k == .both) = some (l, e) ∧ s.permit ctx e k = none

/-- The level and the leaf by which the stack's TLB translates an address. -/
def State.leafAt (s : State) (ctx stack va : Nat) : Nat × Nat :=
  match s.tlbLeaf stack ctx va with
  | some x => (x.level, x.pte)
  | none => (0, 0)

/-- Physical writes of bytes at consecutive addresses of a context, each under the key of its page. -/
def State.writesAt (s : State) (ctx stack va : Nat) (bs : List Byte) : List (Nat × Nat × Byte) :=
  (List.range bs.length).map fun i => (s.keyVia ctx stack (va + i), s.paVia ctx stack (va + i), bs.getD i 0)

/-- The bytes at consecutive addresses of a context, as the home slices give them. -/
def State.bytesAt (s : State) (ctx stack va n : Nat) : List Byte :=
  (List.range n).map fun i => s.byteVia ctx stack (va + i)

/-- `b` is what a byte at an address of a context reads as, or what memory holds behind an older copy in L2 (R233). -/
def State.gives (s : State) (ctx stack va : Nat) (b : Byte) : Prop :=
  b = s.byteVia ctx stack va ∨ b = s.under (s.keyVia ctx stack va) (s.paVia ctx stack va)

/-- L2 holds no older copy of host memory (R233). -/
def State.upToDate (s : State) : Prop := ∀ a, s.clearByte a = Tbl.get 0 s.mem a

/-- The report of work that a group issued with no lane named: its core and slot while it is resident (R353). -/
def State.reportOf (s : State) (uid gidx pcs pc : Nat) (c : Cause) (addr : Nat) : AbortInfo :=
  { status := 3, cause := c.code, pcSlot := pcs, team := (s.team uid).idx, pc := pc, address := addr
    core := ((s.findMember uid gidx).map Prod.fst).getD 0xFFFF
    slot := ((s.findMember uid gidx).map Prod.snd).getD 0xFFFF }

/-- A message of kind `kind` for rank `r` of domain slot `m` is sent, or kept for a route. -/
def SentTo (t : State) (m r kind : Nat) (words : List Nat) : Prop :=
  ∃ x ∈ t.outbox ++ t.heldFlits, x.kind = kind ∧ x.dom = some m ∧ x.rank = r ∧ x.words = words

/-! ## Queues, and what an event leaves alone -/

/-- No register of a group and no byte changed. -/
def Untouched (s t : State) : Prop := t.groups = s.groups ∧ SameMemory s t ∧ t.sram = s.sram ∧ t.tile = s.tile

/-- A queue but for its deficit and its mark of IDLE, which every event settles (R363). -/
def Queue.besideIdle (x : Queue) : Queue := { x with idle := true, deficit := 0 }

/-- Only queue `q` changed among the queues, by `f`, beside deficits and marks of IDLE. -/
def QueueNow (s t : State) (q : Nat) (f : Queue → Queue) : Prop :=
  (∀ k, k ≠ q → (t.queue k).besideIdle = (s.queue k).besideIdle) ∧
  (t.queue q).besideIdle = (f (s.queue q)).besideIdle

/-- The head command is taken (R360). -/
def Queue.taken (x : Queue) : Queue := { x with cons := (x.cons + 1) % 2 ^ 32, pend := false }

/-- The bytes of an aligned word of `n` bytes at an address of a context, each with its key, by the head's own walk (R336). -/
def State.headWord (s : State) (ctx va n : Nat) : Option (List (Nat × Nat)) :=
  if va / 2 ^ 56 ≠ 0 ∨ va % n ≠ 0 then none else s.headBytes ctx va n .write

/-- A word written by the head in a context's space, or skipped where it cannot be, which is counted (R353, R359). -/
def HeadWrote (s t : State) (ctx va n v : Nat) : Prop :=
  (∀ pas, s.headWord ctx va n = some pas → WrittenTo s t ((pas.zip (leBytes n v)).map fun x => (x.1.1, x.1.2, x.2))) ∧
  (s.headWord ctx va n = none → SameMemory s t ∧
    t.errs.get 0 (64 * s.partOfCtx ctx + 11) = satAdd 0xFFFFFFFF (s.errs.get 0 (64 * s.partOfCtx ctx + 11)) 1)

/-- `t` differs from `s` in memory, caches, kernels, queues, charges and counts alone: what the Harness head's own accesses
leave of the rest. -/
structure HeadActed (s t : State) : Prop where
  ctxs : ∀ c, t.ctx c = { s.ctx c with charged := (t.ctx c).charged, level := (t.ctx c).level }
  rest : t = { s with mem := t.mem, sealKey := t.sealKey, poison := t.poison, l2 := t.l2, touched := t.touched, kernels := t.kernels,
                      queues := t.queues, ctxs := t.ctxs, allow := t.allow, errs := t.errs, free := t.free }

/-- Words written by the head one after another: context, address and value of each. -/
def HeadWroteAll (s t : State) : List (Nat × Nat × Nat) → Prop
  | [] => SameMemory s t
  | (c, va, v) :: r => ∃ u, HeadActed s u ∧ HeadWrote s u c va 8 v ∧ HeadWroteAll u t r

/-- The join step of a kernel that ends (R352): its object counts down, or the step is skipped. -/
def JoinStepped (s t : State) (k : Kernel) : Prop :=
  (k.rec_.join = 0 ∨ 2 ^ 56 ≤ k.rec_.join ∨ k.rec_.join % 32 ≠ 0 ∨ s.headPa k.ctx k.rec_.join .both = none → SameMemory s t) ∧
  ∀ pa, k.rec_.join ≠ 0 → k.rec_.join < 2 ^ 56 → k.rec_.join % 32 = 0 → s.headPa k.ctx k.rec_.join .both = some pa →
    let key := s.headKey k.ctx k.rec_.join .both
    (s.poisoned pa = true → SameMemory s t) ∧
    (s.poisoned pa = false → WrittenTo s t (keyed key pa (leBytes 8 (BitVec.ofNat 64 (s.read64 key pa) - 1#64).toNat)))

/-- ABORT commands that name a kernel: the queue and the done word of each, in the queues' order. -/
def State.abortsOf (s : State) (kid : Nat) : List (Nat × Nat) :=
  s.queues.flatMap fun x => x.2.running.filterMap fun r =>
    match r with
    | .abort i d => if i = kid then some (x.1, d) else none
    | _ => none

/-- A kernel is DONE, its done word written and with it those of the ABORT commands that name it (R349, R359). -/
structure KernelEnded (s u t : State) (kid : Nat) (k : Kernel) (v : Nat) : Prop where
  words : HeadWroteAll u t ((k.ctx, k.rec_.done, v) :: (s.abortsOf kid).map fun x => ((s.queue x.1).ctx, x.2, 1))
  state : (t.kern kid).st = .done
  launch : Running.launch kid ∉ (t.queue k.queue).running
  aborts : t.abortsOf kid = []
  head : (t.queue k.queue).head ≠ some kid
  rest : t.groups = s.groups ∧ t.sram = s.sram ∧ t.tile = s.tile ∧ t.acc = s.acc

/-- The keys and physical addresses of the bytes that the head reads at an address of a context, behind its acquire at .sys
(R356). -/
def State.headPas (s : State) (ctx va n : Nat) : Option (List (Nat × Nat)) :=
  if va / 2 ^ 56 ≠ 0 then none else s.headAcquire.headBytes ctx va n .read

/-- Those bytes. -/
def State.headGot (s : State) (pas : List (Nat × Nat)) : List Byte := pas.map fun a => s.headAcquire.keyByte a.1 a.2

/-- A command ends with a status in its done word: it is taken, the word written, no register changed (R359). -/
structure Answered (s t : State) (c : Cmd) (v : Nat) : Prop where
  queue : QueueNow s t c.q Queue.taken
  word : HeadWrote s t (s.queue c.q).ctx c.done 8 v
  rest : t.groups = s.groups ∧ t.sram = s.sram ∧ t.tile = s.tile ∧ t.kernels = s.kernels ∧ t.acc = s.acc

/-! ## Capacity notices -/

/-- The notice of a change: each kernel short of DONE whose pool it belongs to counts it, and CAPRD shows it (R165,
R354). -/
def Noted (s t : State) (kind unit : Nat) (f : Kernel → Bool) : Prop :=
  ∀ kid k, s.kernels.find? kid = some k → t.kern kid =
    if k.st != .done && f k then
      { k with notices := k.notices + 1, lastChange := kind * 2 ^ 32 + unit * 2 ^ 16 + (k.notices + 1) % 2 ^ 16 }
    else k

/-- No kernel is registered for notices: no event word is written. -/
def State.unregistered (s : State) : Prop := ∀ x ∈ s.kernels, x.2.noted = false

/-! ## Contexts and dies -/

/-- The context that a create makes, under a key slot (R375). -/
def Ctx.created (x : Ctx) (fn k : Nat) : Ctx :=
  { x with st := .ready, fn := fn, keySlot := k, result := 1, charged := 0, correction := 0, footprint := 0, filler := 0,
           saves := 0, held := false, cmd := 0, stage := 0 }

/-- The context that a free leaves (R375). -/
def Ctx.freed (x : Ctx) : Ctx :=
  { x with st := .free, fn := 0, keySlot := 0, result := 1, charged := 0, correction := 0, footprint := 0, filler := 0,
           level := 0, saves := 0, held := false, cmd := 0, stage := 0 }

/-- A PARKED context whose level has come back to `resume` is ACTIVE again (R375). -/
def Ctx.unparked (x : Ctx) : Ctx :=
  if x.st = .parked ∧ (x.unmetered = true ∨ (x.resume : Int) * 2 ^ 30 ≤ x.level) then { x with st := .active } else x

/-- A function's window takes a command for a context: the device is READY, the function live, the context its own or
FREE (R375, R442). -/
def State.takesFor (s : State) (fn c : Nat) : Prop := s.ready = true ∧ s.fnLive fn = true ∧ s.reachC fn c = true

/-- The scratchpads and tiles of cores that `f` picks read zero, every other byte of them as before. -/
def ZeroedCores (s t : State) (f : Nat → Bool) : Prop :=
  ∀ k, Tbl.get 0 t.sram k = (if f (k / 2 ^ 32) then 0 else Tbl.get 0 s.sram k) ∧
    Tbl.get 0 t.tile k = if f (k / 2 ^ 32) then 0 else Tbl.get 0 s.tile k

/-- The record of a retirement, from the unit's score and the die's clock as they stand (R404). -/
def State.retirementOf (s : State) (k kind cause unit : Nat) : RetRec :=
  { seq := s.logSeq, kind := kind, cause := cause, unit := unit, score := (s.scoreOf k).score,
    pattern := (s.scoreOf k).lastFail, awlClock := (s.dieSt (scoreDie k)).awl, snapshot := s.snpSeq }

/-! ## Links -/

/-- Only link `k` changed, and it is `l`. -/
def LinkNow (s t : State) (k : Nat) (l : LinkSt) : Prop :=
  t = { s with links := t.links } ∧ t.link k = l ∧ ∀ j, j ≠ k → t.link j = s.link j

/-- Link `k`, whose registers are `l`, left UP for a state: a borrower's loan is given back at once, a lender's waits from
now, messages that only cross the link are dropped and the others kept (R415, R420, R435). -/
structure LeftUp (s t : State) (k : Nat) (l : LinkSt) (st : LinkState) : Prop where
  link : t.link k =
    { l with
      st := st, inState := 0, leased := false, borrowed := 0, offered := 0, asked := 0
      unacked := l.unacked.filter fun m => !m.linkOnly
      reclaimAt := if l.lent = 0 then none else some (l.reclaimAt.getD (s.dieSt (k / 4)).ref) }
  share : t.share = { s.share with borrowed := s.share.borrowed - l.borrowed }
  others : ∀ j, j ≠ k → t.link j = s.link j
  rest : t = { s with links := t.links, share := t.share }

/-- A link in a new state, its other registers as they were. -/
def LinkSt.entering (l : LinkSt) (st : LinkState) : LinkSt := { l with st := st, inState := 0, leased := false }

/-- A message sent over a link, or kept for a route, beside its counter, epoch and sequence number. -/
def SentOn (t : State) (x : Sent) : Prop :=
  ∃ y ∈ t.outbox ++ t.heldFlits, { y with counter := x.counter, epoch := x.epoch, seq := x.seq } = x

/-! ## Domains -/

/-- The slot has a membership in force (R421). -/
def DomSt.member (d : DomSt) : Prop := d.st = .up ∨ d.st = .broken ∨ d.st = .rekey

/-- The keys that a message names are the slot's: the data keys of its epoch, or the control keys of a re-key whose secret
has come (R423, R429). -/
def DomSt.keyed (d : DomSt) (h : DomHead) : Prop :=
  if h.ctl = true then h.epoch = (d.epoch + 1) % 256 ∧ d.st = .rekey ∧ d.newSecret = true else h.epoch = d.epoch

/-- The keys are those that the last re-key ended (R428). -/
def DomSt.oldKeys (d : DomSt) (h : DomHead) : Prop :=
  d.rekeyed = true ∧ if h.ctl = true then h.epoch = d.epoch else (h.epoch + 1) % 256 = d.epoch

/-- The keys are those that a membership change under way, or still to be heard of, will bring (R429). -/
def DomSt.nextKeys (d : DomSt) (h : DomHead) : Prop :=
  h.epoch = (d.epoch + 1) % 256 ∧ (h.ctl = true ∨ d.st = .rekey)

/-- The number that a pair's next message has (R423). -/
def DomSt.expects (d : DomSt) (src : Nat) (h : DomHead) : Nat :=
  if h.ctl = true then d.ctlRecv.get 0 src else d.recvSeq.get 0 src

/-- The slot takes messages of a rank; `ctl` for the control that a BROKEN one takes too (R424 to R426). -/
def DomSt.hears (d : DomSt) (src : Nat) (ctl : Bool) : Prop :=
  (d.st = .up ∨ d.st = .rekey ∨ d.st = .broken ∧ ctl = true) ∧ d.entryOf src ≠ none ∧ src ≠ d.rank

/-- A message that is taken as it comes: its keys are the slot's, its tag verifies and it is its pair's next. -/
def DomSt.nextFrom (d : DomSt) (src : Nat) (h : DomHead) : Prop :=
  d.keyed h ∧ h.tagOk = true ∧ h.seq = d.expects src h

/-- The pair's number has risen by one and no other number has changed. -/
def Counted (d e : DomSt) (src : Nat) (h : DomHead) : Prop :=
  e.expects src h = h.seq + 1 ∧ (h.ctl = true → e.recvSeq = d.recvSeq) ∧ (h.ctl = false → e.ctlRecv = d.ctlRecv) ∧
    ∀ r, r ≠ src → e.expects r h = d.expects r h

/-- A function's window takes a domain command (R421, R442). -/
def State.takesDom (s : State) (fn m : Nat) : Prop := s.ready = true ∧ s.reachD fn m = true

/-- Every kernel short of COMPLETING with a group waiting at the domain barrier of a context is aborted with a cause
(R331). -/
def WaitersAbort (s t : State) (ctx : Nat) (c : Cause) : Prop :=
  ∀ k g kern, s.groups.find? k = some g → (s.team g.team).ctx = ctx → g.holds (· == .dbar) = true →
    s.kernels.find? (s.team g.team).kid = some kern → kern.st.abortable = true →
    (t.kern (s.team g.team).kid).st = .aborting ∧
      (t.kern (s.team g.team).kid).abort.map (fun a => (a.status, a.cause)) = some (3, c.code)

/-! ## Power loans, partitions and functions -/

/-- The dealing is of the module's borrowed watts between its partitions (R446). -/
def ofModule (k : Nat) : Prop := 16 ≤ k ∧ (k - 16) / 128 = 64

/-- A power message leaves: over the link, or as the other partition's next step. -/
def PowerSent (s t : State) (k kind w : Nat) (i : Instr) : Prop :=
  (k < 16 → t.agenda = s.agenda ∧ ∃ y ∈ t.outbox, y.kind = kind ∧ y.dst = (s.link k).peer ∧ y.words = [w]) ∧
  (16 ≤ k → t.agenda = s.agenda ++ [.op i] ∧ t.outbox = s.outbox)

/-- The physical function's command of a virtual function is taken (R442). -/
def State.takesVf (s : State) (fn f : Nat) : Prop := s.ready = true ∧ fn = 0 ∧ f ≠ 0 ∧ f < 64

/-- Why a function may not become ACTIVE, by result code (R443). -/
def State.barsVf (s : State) (f : Nat) : Nat → Prop
  | 4 => ∃ e ∈ s.vfs, e.1 ≠ f ∧ e.2.part = (s.vf f).part ∧ (e.2.st = .active ∨ e.2.st = .suspending)
  | 3 => ∃ i < (s.vf f).qcount, let q := (s.vf f).qbase + i
      1024 ≤ q ∨ (s.part (s.vf f).part).ownsQueue q = false ∨
        ∃ e ∈ s.vfs, e.1 ≠ f ∧ e.2.st ≠ .off ∧ e.2.qbase ≤ q ∧ q < e.2.qbase + e.2.qcount
  | 2 => (s.vf f).save = 0
  | _ => False

/-- The result code of a refused activation: the first of 4, 3 and 2 that stands. -/
def State.barOf (s : State) (f r : Nat) : Prop :=
  s.barsVf f r ∧ (r = 3 ∨ r = 2 → ¬ s.barsVf f 4) ∧ (r = 2 → ¬ s.barsVf f 3)

/-- A unit that bring-up sets retired: retired before, or a core of a stack with two retired tiers (R404, R405, R458). -/
def State.bootsRetired (s : State) (k : Nat) : Bool :=
  (s.scoreOf k).retired ||
    decide (k < 256) && decide (2 ≤ ((List.range 4).filter fun t => (s.scoreOf (coreOf (stackOfCore k) t)).retired).length)

/-- A machine as a fundamental reset leaves it, beside what the records and flash keep (R458). -/
structure Booted (s t : State) : Prop where
  kept : SameMemory s t ∧ t.poison = s.poison ∧ t.log = s.log ∧ t.logHeld = s.logHeld ∧ t.logSeq = s.logSeq
  empty : t.groups = [] ∧ t.teams = [] ∧ t.kernels = [] ∧ t.acc = [] ∧ t.mats = [] ∧ t.copies = [] ∧ t.colls = [] ∧
    t.sram = [] ∧ t.tile = [] ∧ t.l1 = [] ∧ t.l2 = [] ∧ t.tlb = [] ∧ t.agenda = []
  blocks : t.ctxs = [] ∧ t.queues = [] ∧ t.doms = [] ∧ t.parts = [] ∧ t.vfs = [] ∧ t.errs = [] ∧ t.keys = [] ∧
    t.cap = 2800 ∧ t.headClock = 0 ∧ t.snpSeq = 0
  scores : ∀ k < 576, t.scoreOf k = if s.bootsRetired k then { retired := true } else {}
  cores : ∀ c < 256, (t.coreSt c).st = (if s.bootsRetired c then .retired else .service) ∧ (t.coreSt c).scratch = 8
  links : ∀ k < 16, t.link k = { st := if (s.scoreOf (256 + k)).retired then .retired else .down }

end Sys2Proof.Machine
end

