-- ==== Sys2Proof/Certificates/Slice0/Obligations.lean ====
section
/-! DEFINITION. The statements for the provers. `Ready`, `IssuedOnly` and the other terms are those of Safety.lean. -/

open Sys2Proof Sys2Proof.Machine

/-! ## Registers and integer instructions -/

/-- R136, R137, R141, R143: each scalar integer instruction writes, where it takes effect, the result word of its
operation on its operands' words at the type's width, extended to 64 bits by the type, into its destination; nothing
else of the group, and nothing beside it, changes. R167, R168, R174: each per-lane integer instruction writes, for its
active lanes, the result word of its operation on the lanes' operand words, a narrow word extended by the type, a
64-bit word into the pair; with the register ceiling kept, nothing else of the group and nothing beside it changes. -/
def Obligations.IntegerResults : Prop :=
  (∀ p ∈ scalarOps, ∀ (s : State) (e : Env), Ready (p.1 e.o) s e →
     let w := e.o.ty.width
     let word (x : Src) : BitVec w := BitVec.ofNat w (e.scal x e.o.ty)
     let r := p.2.result e.o.md.sat e.o.ty.isSigned (word e.o.a) (word e.o.b) (word e.o.c)
     ∃ t, exec (p.1 e.o) s = .next t ∧
       IssuedOnly (p.1 e.o) e s t fun g =>
         if e.takes then g.writeScal e.o.dst.toNat (if e.o.ty.isSigned then r.signExtend 64 else r.setWidth 64) else g) ∧
  (∀ p ∈ vectorOps, ∀ (s : State) (e : Env) (now : Group), Ready (p.1 e.o) s e →
     s.group? e.me.core e.me.slot = some now →
     let w := e.o.ty.width
     let d := e.o.dst.toNat
     let word (x : Src) (l : Nat) : BitVec w := BitVec.ofNat w (e.src x e.o.ty l)
     let r (l : Nat) := p.2.result e.o.md.sat e.o.ty.isSigned (word e.o.a l) (word e.o.b l) (word e.o.c l)
     let lane (l : Nat) : Nat :=
       if w = 64 then (r l).toNat else if e.o.ty.isSigned then ((r l).signExtend 32).toNat else (r l).toNat
     let v := (e.issued (p.1 e.o) s.pair.isSome now).v
     (e.run ≠ 0 → e.room v (resultNames d (w = 64))) →
     ∃ t v', exec (p.1 e.o) s = .next t ∧ VecWrite d (w = 64) e.run lane v v' ∧
       IssuedOnly (p.1 e.o) e s t fun g => { g with v := v' })

/-- R142, R143: SSEL takes a where an active lane has its bit of pC set and b otherwise; SLEA adds b shifted left by
k, modulo 2^64; SMOVI writes its 64-bit immediate. R142, R91: SCMP writes all 32 bits of its predicate by the
condition between its operands' values; p0 takes no write. -/
def Obligations.ScalarOtherResults : Prop :=
  ((∀ (s : State) (e : Env), Ready (.ssel e.o) s e →
     let w := e.o.ty.width
     let x := if (List.range 32).any fun l => e.live.getLsbD l && (e.g.predReg (predIdx e.o.c)).getLsbD l
       then e.o.a else e.o.b
     let r : BitVec w := BitVec.ofNat w (e.scal x e.o.ty)
     ∃ t, exec (.ssel e.o) s = .next t ∧ IssuedOnly (.ssel e.o) e s t fun g =>
       if e.takes then g.writeScal e.o.dst.toNat (if e.o.ty.isSigned then r.signExtend 64 else r.setWidth 64) else g) ∧
   (∀ (s : State) (e : Env), Ready (.slea e.o) s e →
     let a : W64 := BitVec.ofNat 64 (e.scal e.o.a e.o.ty)
     let b : W64 := BitVec.ofNat 64 (e.scal e.o.b e.o.ty)
     ∃ t, exec (.slea e.o) s = .next t ∧ IssuedOnly (.slea e.o) e s t fun g =>
       if e.takes then g.writeScal e.o.dst.toNat (a + (b <<< (e.o.md.spec.toNat % 8))) else g) ∧
   (∀ (s : State) (e : Env), Ready (.smovi e.o) s e →
     ∃ t x, exec (.smovi e.o) s = .next t ∧ e.o.wide = some x ∧
       IssuedOnly (.smovi e.o) e s t fun g => if e.takes then g.writeScal e.o.dst.toNat x else g)) ∧
  (∀ (s : State) (e : Env), Ready (.scmp e.o) s e →
     let a := wordVal e.o.ty.isSigned (BitVec.ofNat e.o.ty.width (e.scal e.o.a e.o.ty))
     let b := wordVal e.o.ty.isSigned (BitVec.ofNat e.o.ty.width (e.scal e.o.b e.o.ty))
     ∃ t, exec (.scmp e.o) s = .next t ∧ IssuedOnly (.scmp e.o) e s t fun g =>
       if e.takes then g.writePred e.o.dst.toNat
         (if intCond (e.o.md.spec.toNat % 8) a b then BitVec.allOnes 32 else 0) else g)

/-- R175: VMADW adds the exact product of two 32-bit words, extended by the signedness of its type, to a 64-bit word,
modulo 2^64; VDOT4 adds four byte products, bytes of a read by ta and of b by tb, to a 32-bit word, wrapped or, with
.sat, clamped. R176, R177, R91: VSEL keeps every bit of the value its lane's bit of pC selects; VCMP sets the bits of
its predicate for active lanes by the condition between the lanes' values, and changes no other bit. -/
def Obligations.VectorOtherResults : Prop :=
  ((∀ (s : State) (e : Env) (now : Group), Ready (.vmadw e.o) s e → s.group? e.me.core e.me.slot = some now →
     let word (x : Src) (l : Nat) : W64 :=
       if e.o.ty.isSigned then (BitVec.ofNat 32 (e.src x .i32 l)).signExtend 64
       else (BitVec.ofNat 32 (e.src x .n32 l)).setWidth 64
     let r (l : Nat) : W64 := word e.o.a l * word e.o.b l + BitVec.ofNat 64 (e.src e.o.c e.o.ty l)
     let v := (e.issued (.vmadw e.o) s.pair.isSome now).v
     (e.run ≠ 0 → e.room v (resultNames e.o.dst.toNat true)) →
     ∃ t v', exec (.vmadw e.o) s = .next t ∧
       VecWrite e.o.dst.toNat true e.run (fun l => (r l).toNat) v v' ∧
       IssuedOnly (.vmadw e.o) e s t fun g => { g with v := v' }) ∧
   (∀ (s : State) (e : Env) (now : Group), Ready (.vdot4 e.o) s e → s.group? e.me.core e.me.slot = some now →
     let byte (signed : Bool) (x : Src) (l k : Nat) : Int :=
       wordVal signed ((BitVec.ofNat 32 (e.src x .b32 l)).extractLsb' (8 * k) 8)
     let sa := e.o.md.type2 == .i8
     let sb := !e.o.md.spec.getLsbD 0
     let p (l k : Nat) : Int := byte sa e.o.a l k * byte sb e.o.b l k
     let ex (l : Nat) : Int := (BitVec.ofNat 32 (e.src e.o.c .i32 l)).toInt + p l 0 + p l 1 + p l 2 + p l 3
     let r (l : Nat) : W32 := if e.o.md.sat then nearestWord true 32 (ex l) else BitVec.ofInt 32 (ex l)
     let v := (e.issued (.vdot4 e.o) s.pair.isSome now).v
     (e.run ≠ 0 → e.room v (resultNames e.o.dst.toNat false)) →
     ∃ t v', exec (.vdot4 e.o) s = .next t ∧
       VecWrite e.o.dst.toNat false e.run (fun l => (r l).toNat) v v' ∧
       IssuedOnly (.vdot4 e.o) e s t fun g => { g with v := v' })) ∧
  ((∀ (s : State) (e : Env) (now : Group), Ready (.vsel e.o) s e → s.group? e.me.core e.me.slot = some now →
     let w := e.o.ty.width
     let pick (l : Nat) : Src := if (e.g.predReg (predIdx e.o.c)).getLsbD l then e.o.a else e.o.b
     let v := (e.issued (.vsel e.o) s.pair.isSome now).v
     (e.run ≠ 0 → e.room v (resultNames e.o.dst.toNat (w = 64))) →
     ∃ t v', exec (.vsel e.o) s = .next t ∧
       VecWrite e.o.dst.toNat (w = 64) e.run (fun l => e.src (pick l) e.o.ty l) v v' ∧
       IssuedOnly (.vsel e.o) e s t fun g => { g with v := v' }) ∧
   (∀ (s : State) (e : Env), Ready (.vcmp e.o) s e →
     let val (x : Src) (l : Nat) := wordVal e.o.ty.isSigned (BitVec.ofNat e.o.ty.width (e.src x e.o.ty l))
     ∃ t p, exec (.vcmp e.o) s = .next t ∧
       (∀ l, l < 32 → p.getLsbD l = if e.run.getLsbD l
         then intCond (e.o.md.spec.toNat % 8) (val e.o.a l) (val e.o.b l) else (e.g.predReg e.o.dst.toNat).getLsbD l) ∧
       IssuedOnly (.vcmp e.o) e s t fun g => g.writePred e.o.dst.toNat p))

/-- R178, R91: predicate instructions set the bits of active lanes and change no other bit; p0 takes no write. -/
def Obligations.PredicateResults : Prop :=
  (∀ p ∈ predOps, ∀ (s : State) (e : Env), Ready (p.1 e.o) s e →
    ∃ t q, exec (p.1 e.o) s = .next t ∧
      (∀ l, l < 32 → q.getLsbD l = if e.run.getLsbD l
        then p.2 ((e.predSrc e.o.a).getLsbD l) ((e.predSrc e.o.b).getLsbD l)
        else (e.g.predReg e.o.dst.toNat).getLsbD l) ∧
      IssuedOnly (p.1 e.o) e s t fun g => g.writePred e.o.dst.toNat q) ∧
  (∀ (s : State) (e : Env), Ready (.pmov e.o) s e →
    let src : W32 := match e.o.a with
      | .v n => e.g.predReg (n.toNat % 8)
      | x => BitVec.ofNat 32 (e.scal x .b32)
    ∃ t q, exec (.pmov e.o) s = .next t ∧
      (∀ l, l < 32 → q.getLsbD l = if e.run.getLsbD l then src.getLsbD l else (e.g.predReg e.o.dst.toNat).getLsbD l) ∧
      IssuedOnly (.pmov e.o) e s t fun g => g.writePred e.o.dst.toNat q)

/-- R87, R178, R195, R198, R199: the counts, votes and the first value over the visible lanes that take part; each
always writes its scalar. R176, R193, R194, R199: VMOVS and SHFL read another lane's value of their source, a dead
lane's as zero with dead_read set; a constant of SHFL is the reading lane's own. -/
def Obligations.LaneResults : Prop :=
  ((∀ (s : State) (e : Env), Ready (.pcnt e.o) s e →
     ∃ t, exec (.pcnt e.o) s = .next t ∧
       IssuedOnly (.pcnt e.o) e s t fun g => g.writeScal e.o.dst.toNat (BitVec.ofNat 64 (e.seenIn e.o.a).length)) ∧
   (∀ (s : State) (e : Env), Ready (.pffs e.o) s e →
     ∃ t, exec (.pffs e.o) s = .next t ∧
       IssuedOnly (.pffs e.o) e s t fun g => g.writeScal e.o.dst.toNat (BitVec.ofNat 64 ((e.seenIn e.o.a).headD 32))) ∧
   (∀ (mode : VoteMode) (s : State) (e : Env), Ready (.vote mode e.o) s e →
     ∃ t, exec (.vote mode e.o) s = .next t ∧
       IssuedOnly (.vote mode e.o) e s t fun g =>
         g.writeScal e.o.dst.toNat (BitVec.ofNat 64 (voteResult mode e.seen (e.seenIn e.o.a)))) ∧
   (∀ (s : State) (e : Env), Ready (.vfirst e.o) s e →
     ∃ t, exec (.vfirst e.o) s = .next t ∧
       IssuedOnly (.vfirst e.o) e s t fun g => g.writeScal e.o.dst.toNat
         (BitVec.ofNat 64 (match e.seen with | j :: _ => e.src e.o.a e.o.ty (e.phys j) | [] => 0)))) ∧
  ((∀ (s : State) (e : Env), Ready (.vmovs e.o) s e →
     let j := e.phys (e.scal e.o.b .b32 % e.nLanes)
     ∃ t, exec (.vmovs e.o) s = .next t ∧
       IssuedOnly (.vmovs e.o) e s t fun g =>
         { g.writeScal e.o.dst.toNat (BitVec.ofNat 64 (if e.g.dead.getLsbD j then 0 else e.src e.o.a e.o.ty j)) with
           deadRead := g.deadRead || e.g.dead.getLsbD j }) ∧
   (∀ (mode : ShflMode) (s : State) (e : Env) (now : Group), Ready (.shfl mode e.o) s e →
     s.group? e.me.core e.me.slot = some now →
     let w := shuffleWidth (e.o.md.spec.toNat % 8) e.nLanes
     let from_ (l : Nat) : Nat :=
       e.phys (shuffleLane mode w (e.laneId l) (e.src e.o.b .b32 (e.phys (e.laneId l)) % e.nLanes))
     let v := (e.issued (.shfl mode e.o) s.pair.isSome now).v
     (e.run ≠ 0 → e.room v (resultNames e.o.dst.toNat (e.o.ty.width = 64))) →
     ∃ t v', exec (.shfl mode e.o) s = .next t ∧
       VecWrite e.o.dst.toNat (e.o.ty.width = 64) e.run
         (fun l => if e.g.dead.getLsbD (from_ l) then 0
           else e.src e.o.a e.o.ty (match e.o.a with | .const _ => l | _ => from_ l)) v v' ∧
       IssuedOnly (.shfl mode e.o) e s t fun g =>
         { g with v := v', deadRead := g.deadRead || (lanesOf e.run).any fun l => e.g.dead.getLsbD (from_ l) }))

/-- R59, R60, R61, R87, R196, R197: VRED writes the root of the fixed tree over the visible lanes' inputs, VSCAN each
active lane's prefix by the fixed steps (exclusive: the lane before it, the identity for the first); flags of the
combines are ORed. R59, R60, R196: an integer VRED.add of 32-bit inputs is the sum of what the lanes that take part
supply, modulo 2^32, whatever the others hold. -/
def Obligations.Reductions : Prop :=
  ((∀ (s : State) (e : Env), Ready (.vred e.o) s e →
     let op := e.o.md.spec.toNat % 8
     let r := treeRed (redCombine e.o.ty op (redMode e.o)) (if e.prot then 4 else 5) (e.redInputs op)
     let x := r.1.headD 0
     ∃ t, exec (.vred e.o) s = .next t ∧ IssuedOnly (.vred e.o) e s t fun g =>
       { g.writeScal e.o.dst.toNat
           (if e.o.ty = .i32 then (BitVec.ofNat 32 x).signExtend 64 else BitVec.ofNat 64 x) with
         fflags := g.fflags ||| r.2 }) ∧
   (∀ (s : State) (e : Env) (now : Group), Ready (.vscan e.o) s e → s.group? e.me.core e.me.slot = some now →
     let op := e.o.md.spec.toNat % 8
     let r := scanAll (redCombine e.o.ty op (redMode e.o)) (if e.prot then [1, 2, 4, 8] else [1, 2, 4, 8, 16])
       (e.redInputs op)
     let lane (l : Nat) : Nat :=
       if e.o.md.spec.getLsbD 3 then
         (if e.laneId l = 0 then redIdentity e.o.ty op else r.1.getD (e.laneId l - 1) 0)
       else r.1.getD (e.laneId l) 0
     let v := (e.issued (.vscan e.o) s.pair.isSome now).v
     (e.run ≠ 0 → e.room v (resultNames e.o.dst.toNat (e.o.ty.width = 64))) →
     ∃ t v', exec (.vscan e.o) s = .next t ∧
       VecWrite e.o.dst.toNat (e.o.ty.width = 64) e.run lane v v' ∧
       IssuedOnly (.vscan e.o) e s t fun g => { g with v := v', fflags := g.fflags ||| r.2 })) ∧
  (∀ (s : State) (e : Env), Ready (.vred e.o) s e → e.o.ty = .n32 → e.o.md.spec.toNat % 8 = 0 →
     ∃ t, exec (.vred e.o) s = .next t ∧ IssuedOnly (.vred e.o) e s t fun g =>
       g.writeScal e.o.dst.toNat
         (BitVec.ofNat 64 (((e.seen.map fun j => e.src e.o.a .n32 (e.phys j)).sum) % 2 ^ 32)))

/-! ## Floating instructions and conversions -/

/-- R62, R167, R168, R179 to R182: floating arithmetic and the minima write each active lane's result, with .x2 both
halves, and OR the lanes' flags into %fflags; nothing else changes. R183 to R185, R62: FCMP sets its predicate's bits
for active lanes; FCLASS, FSCALE and FRND write each active lane; their flags are ORed. -/
def Obligations.FloatResults : Prop :=
  (∀ p ∈ floatOps, ∀ (s : State) (e : Env) (now : Group), Ready (p.1 e.o) s e →
     s.group? e.me.core e.me.slot = some now →
     let i := p.1 e.o
     let r (l : Nat) := e.fLane i.isX2 l (p.2 (fmtOf e.o.ty) (RMode.ofCode e.o.md.round))
     let wide := e.o.ty == .f64 || (i.isX2 && e.o.ty == .f32)
     let v := (e.issued i s.pair.isSome now).v
     (e.run ≠ 0 → e.room v (resultNames e.o.dst.toNat wide)) →
     ∃ t v', exec i s = .next t ∧ VecWrite e.o.dst.toNat wide e.run (fun l => (r l).1) v v' ∧
       IssuedOnly i e s t fun g => { g with v := v', fflags := g.fflags ||| orOver e.run fun l => (r l).2 }) ∧
  ((∀ (s : State) (e : Env), Ready (.fcmp e.o) s e →
     let r (l : Nat) := fCmp (fmtOf e.o.ty) (e.o.md.spec.toNat % 8) (e.src e.o.a e.o.ty l) (e.src e.o.b e.o.ty l)
     ∃ t p, exec (.fcmp e.o) s = .next t ∧
       (∀ l, l < 32 → p.getLsbD l = if e.run.getLsbD l then (r l).1 else (e.g.predReg e.o.dst.toNat).getLsbD l) ∧
       IssuedOnly (.fcmp e.o) e s t fun g =>
         { g.writePred e.o.dst.toNat p with fflags := g.fflags ||| orOver e.run fun l => (r l).2 }) ∧
   (∀ p ∈ [(Instr.fclass, fun (o : Fields) (a _b : Nat) => (fClass (fmtOf o.ty) a, (0 : FFlags))),
           (Instr.fscale, fun o a b => fScale (fmtOf o.ty) (RMode.ofCode o.md.round) a (BitVec.ofNat 32 b).toInt),
           (Instr.frnd, fun o a _ => fRnd (fmtOf o.ty) (RMode.ofCode o.md.round) a)],
     ∀ (s : State) (e : Env) (now : Group), Ready (p.1 e.o) s e → s.group? e.me.core e.me.slot = some now →
     let i := p.1 e.o
     let r (l : Nat) := p.2 e.o (e.src e.o.a e.o.ty l) (e.src e.o.b .i32 l)
     let wide := e.o.ty == .f64 && i.opcode != (Instr.fclass e.o).opcode
     let v := (e.issued i s.pair.isSome now).v
     (e.run ≠ 0 → e.room v (resultNames e.o.dst.toNat wide)) →
     ∃ t v', exec i s = .next t ∧ VecWrite e.o.dst.toNat wide e.run (fun l => (r l).1) v v' ∧
       IssuedOnly i e s t fun g => { g with v := v', fflags := g.fflags ||| orOver e.run fun l => (r l).2 }))

/-- R73, R170, R186 to R189: the deferred functions put one result per active lane in flight, computed from the
sources at issue, and write nothing yet; the approximate ones give a result their bounds allow, by a choice that
depends on nothing but the source's bits. R62, R74, R77, R93, R102, R103: a deferred result whose slot still has its
tag binds its names for its lanes that are alive and ORs its flags, and it is gone from flight; one with a stale tag
changes nothing of any group and is counted as a dropped return. The model's choice: the values of the approximated
functions are those of log 6. -/
def Obligations.DeferredFunctions : Prop :=
  ((∀ (s : State) (e : Env) (now : Group), s.group? e.me.core e.me.slot = some now →
     let fmt := fmtOf e.o.ty
     let m := RMode.ofCode e.o.md.round
     let flight (r : Nat → Nat × FFlags) : Access :=
       { e.access now with space := .sfu, ty := e.o.ty, dst := some e.o.dst.toNat, lanes := e.run
                           got := (lanesOf e.run).map fun l => (l, [(r l).1])
                           raised := orOver e.run fun l => (r l).2 }
     (Ready (.fdiv e.o) s e → ∃ t, exec (.fdiv e.o) s = .next t ∧
       IssuedOnly (.fdiv e.o) e
         (s.withAccess (flight fun l => fDiv fmt m (e.src e.o.a e.o.ty l) (e.src e.o.b e.o.ty l))) t
         fun g => g.after e.me.pcs s) ∧
     (Ready (.fsqrt e.o) s e → ∃ t, exec (.fsqrt e.o) s = .next t ∧
       IssuedOnly (.fsqrt e.o) e (s.withAccess (flight fun l => fSqrt fmt m (e.src e.o.a e.o.ty l))) t
         fun g => g.after e.me.pcs s) ∧
     (∀ p ∈ approxOps, Ready (p.1 e.o) s e → ∃ t, ∃ choice : Nat → Nat, exec (p.1 e.o) s = .next t ∧
       IssuedOnly (p.1 e.o) e
         (s.withAccess (flight fun l => let a := e.src e.o.a e.o.ty l; p.2 fmt (choice a) a)) t
         fun g => g.after e.me.pcs s))) ∧
  ((∀ (s : State) (id d : Nat) (a : Access) (now : Group), s.acc.find? id = some a → a.dst = some d → a.left = 0 →
     a.count = 1 → a.path = none → a.dying = 0 →
     ((s.coreSt a.core).tags.get 0 a.slot) = a.tag → s.group? a.core a.slot = some now → now.arrival = none →
     s.returnBlocked id a = false → s.teams.has now.team = true →
     let m := a.lanes &&& ~~~now.dead
     let names := resultNames d (a.ty.width = 64)
     ((names.foldl (fun t n => t.put n []) now.v).length ≤ (s.kern (s.team now.team).kid).rec_.regs) →
     ∃ t v', exec (.deferredReturn id) s = .next t ∧ t.acc.find? id = none ∧
       VecWrite d (a.ty.width = 64) m (fun l => loadedLane a.ty ((a.got.get [] l).getD 0 0)) now.v v' ∧
       t.group? a.core a.slot = some { now with v := v', fflags := now.fflags ||| a.raised } ∧
       (∀ k, k ≠ gkey a.core a.slot → t.groups.find? k = s.groups.find? k) ∧ SameMemory s t ∧ t.sram = s.sram) ∧
   (∀ (s : State) (id d : Nat) (a : Access), s.acc.find? id = some a → a.dst = some d → a.left = 0 →
     ((s.coreSt a.core).tags.get 0 a.slot) ≠ a.tag →
     let k := regEvKey a.core (a.slot / 256) (s.partOfCtx a.ctx) 1
     exec (.deferredReturn id) s = .next
       { s with acc := s.acc.erase id, regEvents := s.regEvents.set 0 k (min 0xFFFFFFFF (s.regEvents.get 0 k + 1)) }))

/-- R48, R49, R51, R87, R190 to R192: CVT and QCVT write each active lane's converted value and OR the flags; in mode
sr the generator advances once, whatever the lanes. The model's choice: CVT.satf from e5m2 to e5m2 makes an infinity
the largest finite value (log 18). -/
def Obligations.Conversions : Prop :=
  ∀ (s : State) (e : Env) (now : Group), s.group? e.me.core e.me.slot = some now →
    let ts := e.o.md.type2
    let seed (g : Group) : W32 := if e.o.md.round = 4 then xorshift32 g.srseed else g.srseed
    (Ready (.cvt e.o) s e →
      let r (l : Nat) := cvtLane e.o.ty ts (e.mode l) e.o.md.sat (e.src e.o.a ts l)
      let v := (e.issued (.cvt e.o) s.pair.isSome now).v
      (e.run ≠ 0 → e.room v (resultNames e.o.dst.toNat (e.o.ty.width = 64))) →
      ∃ t v', exec (.cvt e.o) s = .next t ∧
        VecWrite e.o.dst.toNat (e.o.ty.width = 64) e.run (fun l => (r l).1) v v' ∧
        IssuedOnly (.cvt e.o) e s t fun g =>
          { g with v := v', srseed := seed g, fflags := g.fflags ||| orOver e.run fun l => (r l).2 }) ∧
    (Ready (.qcvt e.o) s e →
      let r (l : Nat) :=
        quantise (fmtOf ts) (e.mode l) (if e.o.ty = .q4 then 15 else 255) (e.src e.o.b .b32 l) (e.src e.o.a ts l)
      let v := (e.issued (.qcvt e.o) s.pair.isSome now).v
      (e.run ≠ 0 → e.room v (resultNames e.o.dst.toNat false)) →
      ∃ t v', exec (.qcvt e.o) s = .next t ∧ VecWrite e.o.dst.toNat false e.run (fun l => (r l).1) v v' ∧
        IssuedOnly (.qcvt e.o) e s t fun g =>
          { g with v := v', srseed := seed g, fflags := g.fflags ||| orOver e.run fun l => (r l).2 })

/-! ## Control -/

/-- R110, R145, R146: BRA, CALL and BRU move the whole issuing slot to the slot-counted target where they branch, a
CALL with its link written; else they fall through. R109, R111, R145: BRX, RET and CALLX move the whole issuing slot
to an instruction address held in a scalar, which CALLX reads before it writes its link. R109, R110, R115, R145, R350:
a target outside the address space, or one that is no instruction address, aborts the kernel with a fetch fault. R109,
R110: instructions lie five to a line of 64 bytes, 12 bytes apart; a slot-counted offset moves by that many slots, and
the next slot is one on. The model's choice: after the last slot of the 57-bit space the flow goes on at address 0
(log 18). -/
def Obligations.Transfers : Prop :=
  (∀ (s : State) (e : Env) (a : Nat), branchTarget e.pc e.o.low = some a →
     (Ready (.bra e.o) s e → ∃ t, exec (.bra e.o) s = .next t ∧
       IssuedOnly (.bra e.o) e s t fun g => g.movedTo e.me.pcs a) ∧
     (Ready (.call e.o) s e → ∃ t, exec (.call e.o) s = .next t ∧
       IssuedOnly (.call e.o) e s t fun g =>
         (g.writeScal e.o.dst.toNat (BitVec.ofNat 64 (nextSlot e.pc 1))).movedTo e.me.pcs a) ∧
     (∀ all : Bool, Ready (.bru all e.o) s e → condDiff e = 0 →
       let taken : Bool := e.o.pred == 0 || (if all then e.run == e.live else e.run != 0)
       ∃ t, exec (.bru all e.o) s = .next t ∧ IssuedOnly (.bru all e.o) e s t fun g =>
         if taken then g.movedTo e.me.pcs a else g)) ∧
  (∀ (s : State) (e : Env),
     let a := e.scal e.o.a .n64
     a < 2 ^ 57 → (slotIndex a).isSome = true →
     (Ready (.brx e.o) s e → ∃ t, exec (.brx e.o) s = .next t ∧
       IssuedOnly (.brx e.o) e s t fun g => g.movedTo e.me.pcs a) ∧
     (Ready (.ret e.o) s e → ∃ t, exec (.ret e.o) s = .next t ∧
       IssuedOnly (.ret e.o) e s t fun g => g.movedTo e.me.pcs a) ∧
     (Ready (.callx e.o) s e → ∃ t, exec (.callx e.o) s = .next t ∧
       IssuedOnly (.callx e.o) e s t fun g =>
         (g.writeScal e.o.dst.toNat (BitVec.ofNat 64 (nextSlot e.pc 1))).movedTo e.me.pcs a)) ∧
  (∀ (s : State) (e : Env), e.abortable s →
     (Ready (.bra e.o) s e → branchTarget e.pc e.o.low = none →
       ∃ t, exec (.bra e.o) s = .next t ∧ Aborted s t e.kid (e.report .targetRange e.live)) ∧
     (Ready (.brx e.o) s e → 2 ^ 57 ≤ e.scal e.o.a .n64 →
       ∃ t, exec (.brx e.o) s = .next t ∧ Aborted s t e.kid (e.report .targetRange e.live (e.scal e.o.a .n64))) ∧
     (Ready (.brx e.o) s e → e.scal e.o.a .n64 < 2 ^ 57 → slotIndex (e.scal e.o.a .n64) = none →
       ∃ t, exec (.brx e.o) s = .next t ∧ Aborted s t e.kid (e.report .misalignedTarget e.live (e.scal e.o.a .n64)))) ∧
  ((∀ n : Nat, n < 5 * 2 ^ 51 → slotIndex (slotAddr n) = some (n % 5) ∧ linearIndex (slotAddr n) = n ∧
     slotAddr n < 2 ^ 57 ∧ (n % 5 ≠ 4 → slotAddr (n + 1) = slotAddr n + 12) ∧
     (n % 5 = 4 → slotAddr (n + 1) = slotAddr n + 16)) ∧
   (∀ (n : Nat) (off : W32) (m : Nat), n < 5 * 2 ^ 51 → m < 5 * 2 ^ 51 → (n : Int) + off.toInt = m →
     branchTarget (slotAddr n) off = some (slotAddr m)) ∧
   (∀ (n : Nat) (off : W32), n < 5 * 2 ^ 51 → ((n : Int) + off.toInt < 0 ∨ 5 * 2 ^ 51 ≤ (n : Int) + off.toInt) →
     branchTarget (slotAddr n) off = none))

/-- R149: LOOP writes its 64-bit counter less one, modulo 2^64; the slot moves to the target where the result is not zero,
and falls through where it is; from zero the counter becomes all ones, and LOOP branches. -/
def Obligations.LoopCounts : Prop :=
  ∀ (s : State) (e : Env), Ready (.loop e.o) s e →
    let n := e.o.dst.toNat
    let c : W64 := BitVec.ofNat 64 (e.g.sval n) - 1
    (c = 0 → ∃ t, exec (.loop e.o) s = .next t ∧ IssuedOnly (.loop e.o) e s t fun g => g.writeScal n c) ∧
    (∀ a, c ≠ 0 → branchTarget e.pc e.o.low = some a → ∃ t, exec (.loop e.o) s = .next t ∧
      IssuedOnly (.loop e.o) e s t fun g => (g.writeScal n c).movedTo e.me.pcs a) ∧
    (∀ a, e.g.sval n = 0 → branchTarget e.pc e.o.low = some a → ∃ t, exec (.loop e.o) s = .next t ∧
      IssuedOnly (.loop e.o) e s t fun g => (g.writeScal n (BitVec.allOnes 64)).movedTo e.me.pcs a)

/-- R68, R71, R147: where its lanes agree DBR is a plain branch; where they do not, the other slot is pushed first if
the issuing slot has an index, and the slots split. R69, R148: RCV n has no effect on a slot of another index, waits
for the other slot of its index, and merges with an empty slot or one that waits at an RCV n. R69, R71, R72: the
popped entry fills its slot with the lanes of it that live, and its index is both slots'; an entry with a reserved bit
set or index 0xFF aborts the kernel. The model's choice: the order of accesses across a divergence is read as log 9
says, and what a slot pushed while it waits keeps as log 15 says. -/
def Obligations.SplitsAndMerges : Prop :=
  (∀ (s : State) (e : Env) (now : Group) (a : Nat), Ready (.dbr e.o) s e → condDiff e = 0 →
     s.group? e.me.core e.me.slot = some now → branchTarget e.pc e.o.low = some a →
     let x := now.slotAt e.me.pcs
     let y := now.slotAt (1 - e.me.pcs)
     let n := e.o.dst.toNat
     (e.run = 0 → ∃ t, exec (.dbr e.o) s = .next t ∧ IssuedOnly (.dbr e.o) e s t id) ∧
     (e.run ≠ 0 → e.run = e.live → ∃ t, exec (.dbr e.o) s = .next t ∧
       IssuedOnly (.dbr e.o) e s t fun g => g.movedTo e.me.pcs a) ∧
     (e.run ≠ 0 → e.run ≠ e.live → x.index = 0xFF → ∃ t, exec (.dbr e.o) s = .next t ∧
       IssuedOnly (.dbr e.o) e s t fun g => g.split e.me.pcs (e.live &&& ~~~e.run) e.run a n) ∧
     (∀ pc, e.run ≠ 0 → e.run ≠ e.live → x.index ≠ 0xFF → now.depth < 64 → e.me.pcs < 2 →
       (y.held = .no ∧ pc = y.pc) ∨ (y.held = .rcv x.index ∧ ∃ m < 5 * 2 ^ 51 - 1, pc = slotAddr m ∧ y.pc = slotAddr (m + 1)) →
       now.cinch.find? (1 - e.me.pcs) = none →
       let entry := pc + 2 ^ 80 * y.mask.toNat + 2 ^ 112 * x.index
       let push := stackAccess e.me.core e.me.slot e.me.pcs x.seen now e.team .push now.depth
         [entry % 2 ^ 64, entry / 2 ^ 64]
       ∃ t, exec (.dbr e.o) s = .next t ∧
         IssuedOnly (.dbr e.o) e (s.withAccess ((s.atIssue (.dbr e.o) e).lookL1 push)) t fun g =>
           ({ g.after e.me.pcs s with
               depth := g.depth + 1, below := g.below.put now.depth (joinIds y.seen x.seen) } : Group).split
             e.me.pcs (e.live &&& ~~~e.run) e.run a n) ∧
     (e.run ≠ 0 → e.run ≠ e.live → x.index ≠ 0xFF → now.depth < 64 → e.me.pcs < 2 → y.held = .bar →
       ∃ t g, exec (.dbr e.o) s = .next t ∧ t.group? e.me.core e.me.slot = some g ∧ g.depth = now.depth + 1 ∧
         g.parked.find? now.depth = some .bar ∧ g.liveLanes = now.liveLanes ∧ SameMemory s t) ∧
     (e.run ≠ 0 → e.run ≠ e.live → x.index ≠ 0xFF → 64 ≤ now.depth → e.abortable s →
       ∃ t, exec (.dbr e.o) s = .next t ∧ Aborted s t e.kid (e.report .divergenceStack e.live))) ∧
  (∀ (s : State) (e : Env) (now : Group), Ready (.rcv e.o) s e → s.group? e.me.core e.me.slot = some now →
     e.me.pcs < 2 →
     let x := now.slotAt e.me.pcs
     let y := now.slotAt (1 - e.me.pcs)
     let n := e.o.dst.toNat
     (x.index ≠ n → ∃ t, exec (.rcv e.o) s = .next t ∧ IssuedOnly (.rcv e.o) e s t id) ∧
     (x.index = n → y.mask ≠ 0 → y.index = n → y.held ≠ .rcv n → ∃ t, exec (.rcv e.o) s = .next t ∧
       IssuedOnly (.rcv e.o) e s t fun g => g.heldAt e.me.pcs (.rcv n)) ∧
     (x.index = n → (y.mask = 0 ∧ y.held = .no) ∨ y.held = .rcv n → now.depth = 0 → now.arrival = none →
       ∃ t, exec (.rcv e.o) s = .next t ∧
         IssuedOnly (.rcv e.o) e s t fun g => g.merged (g.slotAt e.me.pcs).pc) ∧
     (x.index = n → (y.mask = 0 ∧ y.held = .no) ∨ y.held = .rcv n → 0 < now.depth → now.arrival = none →
       ∃ t g, exec (.rcv e.o) s = .next t ∧ t.group? e.me.core e.me.slot = some g ∧ g.depth = now.depth - 1 ∧
         g.slot0.mask = now.slot0.mask ||| now.slot1.mask ∧ g.slot1.held = .pop s.next ∧
         (∃ p, t.acc.find? s.next = some p ∧ p.op = .pop 1 ∧ p.ea = [stackAddr e.team now (now.depth - 1)] ∧
           p.prior = now.below.get [] (now.depth - 1)) ∧
         SameMemory s t)) ∧
  (∀ (s : State) (core slot id x : Nat) (a : Access) (now : Group), s.group? core slot = some now →
     (id, a) ∈ s.accOf core slot now.tag → a.op = .pop x → x < 2 → a.left = 0 → a.dying = 0 → now.arrival = none →
     (∀ y ∈ s.accOf core slot now.tag, (∃ p, y.2.op = .pop p) → y = (id, a)) →
     (∀ (pc idx : Nat) (m : Mask), popEntry a = pc + 2 ^ 80 * m.toNat + 2 ^ 112 * idx → pc < 2 ^ 57 → idx < 255 →
       m &&& ~~~now.dead ≠ 0 → now.cinch.find? (2 + now.depth) = none →
       (∀ n, now.parked.find? now.depth ≠ some (.rcv n)) →
       exec (.divergenceStackPopReturn core slot) s = .next
         (State.setGroup { s with acc := s.acc.erase id } core slot
           (({ now with
               slot0 := { now.slot0 with index := idx }, slot1 := { now.slot1 with index := idx }
               gone := now.gone &&& ~~~(m &&& ~~~now.dead)
               parked := (match now.parked.find? now.depth with
                 | some _ => now.parked.erase now.depth | none => now.parked) } : Group).setSlot
             x { pc := pc, mask := m &&& ~~~now.dead, index := idx, held := (now.parked.find? now.depth).getD .no
                 entered := true, seen := (now.slotAt x).seen }))) ∧
     (∀ k, popEntry a < 2 ^ 128 →
       (2 ^ 120 ≤ popEntry a ∨ popEntry a / 2 ^ 57 % 2 ^ 23 ≠ 0 ∨ popEntry a / 2 ^ 112 % 256 = 255) →
       s.kernels.find? (s.team now.team).kid = some k → k.st.abortable = true →
       ∃ t, exec (.divergenceStackPopReturn core slot) s = .next t ∧ Aborted s t (s.team now.team).kid
         { status := 3, cause := Cause.divergenceStack.code, core := core, slot := slot, pcSlot := x, lanes := now.liveLanes,
           team := (s.team now.team).idx, pc := (now.slotAt (1 - x)).pc }))

/-- R70, R150, R151: EXIT takes its lanes out of the issuing slot, and the last lanes take the group away; YIELD marks
the group to be passed over, and NOP does nothing. -/
def Obligations.ExitYieldNop : Prop :=
  ∀ (s : State) (e : Env) (now : Group), s.group? e.me.core e.me.slot = some now →
    (Ready (.nop e.o) s e → ∃ t, exec (.nop e.o) s = .next t ∧ IssuedOnly (.nop e.o) e s t id) ∧
    (Ready (.yield e.o) s e → ∃ t, exec (.yield e.o) s = .next t ∧
      IssuedOnly (.yield e.o) e s t fun g => { g with yielded := true }) ∧
    (Ready (.exit e.o) s e → (now.slotAt e.me.pcs).mask &&& ~~~e.run ≠ 0 → (now.slotAt e.me.pcs).held = .no →
      e.me.pcs < 2 → now.arrival = none → ∃ t, exec (.exit e.o) s = .next t ∧
      IssuedOnly (.exit e.o) e s t fun g => ({ g with gone := g.gone ||| e.run } : Group).setSlot e.me.pcs
        { g.slotAt e.me.pcs with mask := (g.slotAt e.me.pcs).mask &&& ~~~e.run }) ∧
    (Ready (.exit e.o) s e → (now.slotAt e.me.pcs).mask &&& ~~~e.run = 0 → (now.slotAt e.me.pcs).held = .no →
      (now.slotAt (1 - e.me.pcs)).mask = 0 → (now.slotAt (1 - e.me.pcs)).held = .no → e.me.pcs < 2 → now.depth = 0 →
      ∃ t, exec (.exit e.o) s = .next t ∧ t.group? e.me.core e.me.slot = none ∧
        SameMemory s t ∧ t.sram = s.sram ∧ t.tile = s.tile) ∧
    (Ready (.exit e.o) s e → (now.slotAt e.me.pcs).mask &&& ~~~e.run = 0 → (now.slotAt e.me.pcs).held = .no →
      (now.slotAt (1 - e.me.pcs)).mask = 0 → (now.slotAt (1 - e.me.pcs)).held = .no → e.me.pcs < 2 → 0 < now.depth →
      now.arrival = none → ∃ t g, exec (.exit e.o) s = .next t ∧ t.group? e.me.core e.me.slot = some g ∧
        g.depth = now.depth - 1 ∧ g.slot0.held = .pop s.next ∧ SameMemory s t ∧
        ∃ p, t.acc.find? s.next = some p ∧ p.op = .pop 0 ∧ p.ea = [stackAddr e.team now (now.depth - 1)]) ∧
    (Ready (.exit e.o) s e → (now.slotAt e.me.pcs).mask &&& ~~~e.run = 0 → (now.slotAt e.me.pcs).held = .no →
      (∃ n, (now.slotAt (1 - e.me.pcs)).held = .rcv n) → (now.slotAt (1 - e.me.pcs)).mask ≠ 0 → e.me.pcs < 2 →
      now.depth = 0 → now.arrival = none → ∃ t, exec (.exit e.o) s = .next t ∧
      IssuedOnly (.exit e.o) e s t fun g =>
        (({ g with gone := g.gone ||| e.run } : Group).setSlot e.me.pcs (clearMask (g.slotAt e.me.pcs) e.run)).merged
          (g.slotAt (1 - e.me.pcs)).pc)

/-! ## Memory instructions -/

/-- R77, R88, R262 to R265, R272: a scratchpad or cluster instruction whose active lanes lie within bounds, aligned,
puts its access in flight at the bytes its addresses name and raises P0; no register, no byte changes yet. R77, R88,
R262, R266 to R269, R272: a global instruction whose active lanes pass the checks made at issue puts its access in
flight at its lanes' addresses and raises its path counter; no register, no byte changes yet. R77, R78: one that has
no active lane and returns nothing is complete at once: no access stays in flight, and its counter stands where it
stood. The model's choice: the sectors that L1 holds are looked up when the access is issued (log 15), and LAST on
data of several names frees them all (log 18). -/
def Obligations.AccessesIssue : Prop :=
  (∀ p ∈ scratchForms, ∀ (s : State) (e : Env) (now : Group), Ready (p.1 e.o) s e →
     s.group? e.me.core e.me.slot = some now →
     let f := p.2.2
     let n := f.count e.o * tyBytes e.o.ty
     let place (l : Nat) : Option (Nat × Nat) := (s.atIssue (p.1 e.o) e).sramPlace e p.2.1 n l
     (f.compared = true → e.pairBad (fun l => wrapN 65 (e.sea l)) (f.data e) = 0) →
     (∀ l, l < 32 → e.run.getLsbD l = true → (place l).isSome = true ∧ e.sea l % (tyBytes e.o.ty : Nat) = 0) →
     (e.run ≠ 0 ∨ f.ret e.o = true) →
     ∃ t, exec (p.1 e.o) s = .next t ∧
       IssuedOnly (p.1 e.o) e (s.withAccess { e.memAccess now f 0 with
         space := if p.2.1 then .cluster else .scratch
         ea := perLane e.run 0 fun l => match place l with | some (c, b) => 2 ^ 32 * c + b | none => 0 }) t
         fun g => (g.after e.me.pcs s).raised 0) ∧
  (∀ p ∈ globalForms, ∀ (s : State) (e : Env) (now : Group), Ready (p.1 e.o) s e →
     s.group? e.me.core e.me.slot = some now →
     let f := p.2.2
     (f.compared = true → e.pairBad e.gea (f.data e) = 0) → s.globalFault e (isAtom (f.op e.o)) = none →
     (e.run ≠ 0 ∨ f.ret e.o = true) →
     ∃ t, exec (p.1 e.o) s = .next t ∧
       IssuedOnly (p.1 e.o) e (s.withAccess ((s.atIssue (p.1 e.o) e).lookL1 { e.memAccess now f p.2.1 with
         space := .global, ea := perLane e.run 0 e.gea })) t fun g => (g.after e.me.pcs s).raised p.2.1) ∧
  (∀ p ∈ (scratchForms.map fun p => (p.1, 0, p.2.2)) ++ globalForms, ∀ (s : State) (e : Env) (now : Group), Ready (p.1 e.o) s e →
     s.group? e.me.core e.me.slot = some now → e.run = 0 → p.2.2.ret e.o = false →
     (∀ x ∈ s.accOf e.me.core e.me.slot now.tag, x.2.path ≠ some p.2.1) →
     ∃ t c, exec (p.1 e.o) s = .next t ∧ (∀ k, c.getD k 0 = now.pathc.getD k 0) ∧
       (∀ k, t.acc.find? k = if k = s.next then none else s.acc.find? k) ∧
       IssuedOnly (p.1 e.o) e { s with acc := t.acc, next := s.next + 1 } t fun g => { g.after e.me.pcs s with pathc := c })

/-- R200, R231, R262 to R264, R272, R278: the lowest lane whose address fails a check made at issue aborts the kernel, with
that lane and its address in the report: beyond 57 bits, a misaligned atomic within a page, one across pages, outside
the scratchpad allocation. -/
def Obligations.MemoryFaultsAtIssue : Prop :=
  (∀ p ∈ globalForms, ∀ (s : State) (e : Env) (l : Nat), Ready (p.1 e.o) s e → e.abortable s →
    (p.2.2.compared = true → e.pairBad e.gea (p.2.2.data e) = 0) →
    l < 32 → e.run.getLsbD l = true → 2 ^ 57 ≤ e.gea l → (∀ k < l, e.run.getLsbD k = true → e.gea k < 2 ^ 57) →
    ∃ t, exec (p.1 e.o) s = .next t ∧ Aborted s t e.kid (e.report .addressRange (1#32 <<< l) (e.gea l))) ∧
  (∀ p ∈ [(Instr.atomg, true), (Instr.red, false)], ∀ (s : State) (e : Env) (l : Nat), Ready (p.1 e.o) s e → e.abortable s →
    e.pairBad e.gea (fun l => e.atomData l) = 0 →
    let n := tyBytes e.o.ty
    (∀ k, k < 32 → e.run.getLsbD k = true → e.gea k < 2 ^ 57) →
    l < 32 → e.run.getLsbD l = true → e.gea l % n ≠ 0 → (∀ k < l, e.run.getLsbD k = true → e.gea k % n = 0) →
    ∃ t, exec (p.1 e.o) s = .next t ∧
      Aborted s t e.kid (e.report (if e.gea l / 4096 = (e.gea l + n - 1) / 4096 then .misaligned else .straddle)
        (1#32 <<< l) (e.gea l))) ∧
  (∀ p ∈ [(Instr.lds, false), (Instr.sts, true)], ∀ (s : State) (e : Env) (l : Nat), Ready (p.1 e.o) s e → e.abortable s →
    (p.2 = true → e.pairBad (fun l => wrapN 65 (e.sea l)) (fun l => e.storeData (vecCount e.o) l) = 0) →
    let n := vecCount e.o * tyBytes e.o.ty
    let out (k : Nat) : Prop := e.sea k < 0 ∨ (roundUp e.team.scratchLen 32 : Int) < e.sea k + n
    l < 32 → e.run.getLsbD l = true → out l → (∀ k < l, e.run.getLsbD k = true → ¬ out k) →
    ∃ t, exec (p.1 e.o) s = .next t ∧
      Aborted s t e.kid (e.report .scratchpadBound (1#32 <<< l) (wrapN 64 (e.sea l))))

/-- R226, R265, R266, R278, R280: when a raw store performs for its lanes, each byte it stores reads as the last of
its lanes wrote it, every other byte of memory and of the scratchpads reads as before, and no register changes. R74,
R77, R267, R278, R280: when a raw load performs for its lanes, they hold for the return what their bytes read as,
unless one is poisoned; the access waits for the other lanes; no byte and no register changes. R240, R271, R272, R278:
when a scratchpad atomic performs for one lane, its word becomes the new value of its old one and its data, the old
one is held for the return, and every other byte reads as before. The model's choice: every lane that may perform does
so in one step (log 15). -/
def Obligations.AccessesPerform : Prop :=
  (∀ (s : State) (id : Nat) (a : Access) (lanes : List Nat), Performs s id a lanes → a.op = .store → a.space ≠ .sfu →
     a.raised = 0 → a.dying = 0 →
     let ws := lanes.flatMap (s.laneWrites a)
     ∃ t, exec (.globalAccessPerformed id) s = .next t ∧ SameRegisters s t ∧ t.tile = s.tile ∧
       (if a.space = .global then WrittenTo s t ws ∧ t.sram = s.sram
       else (∀ k, Tbl.get 0 t.sram k = lastWrite (Tbl.get 0 s.sram) (ws.map Prod.snd) k) ∧ SameMemory s t)) ∧
  (∀ (s : State) (id : Nat) (a : Access) (lanes : List Nat) (d : Nat), Performs s id a lanes → a.op = .load →
     a.space ≠ .sfu → a.dst = some d →
     ∃ t a', exec (.globalAccessPerformed id) s = .next t ∧ t.acc.find? id = some a' ∧
       a'.left = a.left &&& ~~~maskFrom lanes ∧ a'.dst = a.dst ∧ a'.lanes = a.lanes ∧
       (∀ l ∈ lanes, (∀ v, s.loadLane a l = some v → a'.got.find? l = some v) ∧
         (s.loadLane a l = none → l < 32 → a'.dying.getLsbD l = true)) ∧
       SameRegisters s t ∧ SameMemory s t ∧ t.sram = s.sram ∧ t.tile = s.tile) ∧
  (∀ (s : State) (id : Nat) (a : Access) (l op d : Nat), Performs s id a [l] → a.op = .atom op true → a.space = .scratch →
     a.dst = some d → a.left = BitVec.ofNat 32 (2 ^ l) → l < 32 →
     let va := a.ea.getD l 0
     let n := tyBytes a.ty
     let old := readNat s.sram va n
     let new := (atomNew op a.ty old (a.data.getD l [])).1
     s.sramPoison.contains (va / 8) = false →
     ∃ t a', exec (.globalAccessPerformed id) s = .next t ∧ t.acc.find? id = some a' ∧ a'.left = 0 ∧
       a'.got.find? l = some [old] ∧ readBytes t.sram va n = leBytes n new ∧
       (∀ k, k < va ∨ va + n ≤ k → Tbl.get 0 t.sram k = Tbl.get 0 s.sram k) ∧ SameMemory s t ∧ SameRegisters s t)

/-! ## Waits and faults of any instruction -/

/-- R76, R77, R78: an instruction that waits at issue changes nothing, and a marked one waits while a deferred write of its
group is outstanding. R234, R275, R304, R472: FENCE, WAITC and MWAIT issue, and hold their slot while an earlier access has not
performed at the fence's scope, while the counter exceeds the threshold, or while more closed batches than named are
incomplete. -/
def Obligations.WaitsChangeNothing : Prop :=
  (∀ (i : Instr) (s : State) (e : Env), s.envAt s.cur e.o = some e → i.fields = some e.o → i.check = none →
    s.pair = none → s.waits i e = true → exec i s = .next s) ∧
  (∀ (s : State) (e : Env) (now : Group), s.group? e.me.core e.me.slot = some now →
    let p := e.o.md.spec.toNat % 4
    let order := e.o.md.order.toNat
    let scope := e.o.md.scope.toNat
    (Ready (.waitc e.o) s e → e.scal e.o.a .n64 < now.pathc.getD p 0 → ∃ t, exec (.waitc e.o) s = .next t ∧
      IssuedOnly (.waitc e.o) e s t fun g => g.heldAt e.me.pcs (.waitc p (e.scal e.o.a .n64))) ∧
    (Ready (.fence e.o) s e → s.fenceOver order scope (now.slotAt e.me.pcs).seen = false → ∃ t, exec (.fence e.o) s = .next t ∧
      IssuedOnly (.fence e.o) e s t fun g => g.heldAt e.me.pcs (.fence order scope)) ∧
    (Ready (.mwait e.o) s e → e.o.md.spec.toNat % 8 < s.closedOpen e.me.core e.me.slot now → ∃ t, exec (.mwait e.o) s = .next t ∧
      IssuedOnly (.mwait e.o) e s t fun g => g.heldAt e.me.pcs (.mwait (e.o.md.spec.toNat % 8)))) ∧
  (∀ (i : Instr) (s : State) (e : Env) (now : Group) (x : Nat × Access), s.envAt s.cur e.o = some e → i.fields = some e.o →
    i.check = none → s.pair = none → e.o.sm = true → s.group? e.me.core e.me.slot = some now → x ∈ s.acc → x.2.core = e.me.core →
    x.2.slot = e.me.slot → x.2.tag = now.tag → x.2.dst.isSome = true → exec i s = .next s)

/-- R92, R101, R126, R127, R350: an instruction whose words fail a check, that names a tile beyond the team's
allotment or an expired latch entry, aborts its kernel with that cause, its live lanes and its address, and has no
effect. The model's choice: an illegal pair is reported for its first slot, and which checks come before the waits at
issue is as log 18 says. -/
def Obligations.IllegalInstructionsAbort : Prop :=
  (∀ (i : Instr) (s : State) (e : Env) (c : Cause), s.envAt s.cur e.o = some e → i.fields = some e.o →
    (∀ raw, i ≠ .unassignedOpcode raw) → i.check = some c → e.abortable s →
    ∃ t, exec i s = .next t ∧ Aborted s t e.kid (e.report c e.live)) ∧
  (∀ (raw : BitVec 96) (s : State) (e : Env), s.envAt s.cur (fieldsOf raw none) = some e → e.abortable s →
    ∃ t, exec (.unassignedOpcode raw) s = .next t ∧ Aborted s t e.kid (e.report .unassignedOpcode e.live)) ∧
  (∀ (i : Instr) (s : State) (e : Env), s.envAt s.cur e.o = some e → i.fields = some e.o → i.check = none →
    (s.pair = none → s.waits i e = false) → accBad i e = true → e.abortable s →
    ∃ t, exec i s = .next t ∧ Aborted s t e.kid (e.report .accumulatorBound e.live)) ∧
  (∀ (i : Instr) (s : State) (e : Env), s.envAt s.cur e.o = some e → i.fields = some e.o → i.check = none →
    (s.pair = none → s.waits i e = false) → accBad i e = false → latchBad e.g i e.o = true → e.abortable s →
    ∃ t, exec i s = .next t ∧ Aborted s t e.kid (e.report .illegalOperand e.live))

/-- R77, R230, R233, R250, R274 to R277: a FENCE whose earlier accesses have performed goes on; with acquire it drops the
core's R lines of the context from .clus on, its window lines from .dom on, host lines of L2 at .sys, and one at .sys its U
lines; a WAITC whose counter is not above its threshold does nothing; CINV drops the
lines its active lanes address, or all; PREF of pages the TLB holds fetches its sectors, with .l1 into L1 too; none
changes a register or a byte. -/
def Obligations.FencesAndCaches : Prop :=
  ∀ (s : State) (e : Env) (now : Group), s.group? e.me.core e.me.slot = some now → let mine (x : L1Line) : Prop := x.core = e.me.core ∧ x.ctx = e.team.ctx
    (Ready (.fence e.o) s e →
      let acq := e.o.md.order ≠ 2
      let sc := e.o.md.scope.toNat
      s.fenceOver e.o.md.order.toNat sc (now.slotAt e.me.pcs).seen = true →
      ∃ t, exec (.fence e.o) s = .next t ∧
        IssuedOnly (.fence e.o) e { s with l1 := t.l1, l2 := t.l2 } t (fun g => g.heldAt e.me.pcs .no) ∧
        (∀ x, x ∈ t.l1 ↔ x ∈ s.l1 ∧ ¬ (mine x ∧ ((acq ∧ 2 ≤ sc ∧ x.order = 1) ∨
          (acq ∧ 4 ≤ sc ∧ 2 ^ 56 ≤ x.vline * 128) ∨ (sc = 5 ∧ x.order = 2)))) ∧
        ((s.l2.map Prod.fst).Pairwise (· < ·) →
          ∀ x, x ∈ t.l2 ↔ x ∈ s.l2 ∧ ¬ (acq ∧ 5 ≤ sc ∧ tierOfPa (x.1 * 128) = some 2))) ∧
    (Ready (.waitc e.o) s e → now.pathc.getD (e.o.md.spec.toNat % 4) 0 ≤ e.scal e.o.a .n64 →
      ∃ t, exec (.waitc e.o) s = .next t ∧ IssuedOnly (.waitc e.o) e s t fun g => g.heldAt e.me.pcs .no) ∧
    (Ready (.cinv e.o) s e →
      ∃ t, exec (.cinv e.o) s = .next t ∧ IssuedOnly (.cinv e.o) e { s with l1 := t.l1 } t id ∧
        ∀ x, x ∈ t.l1 ↔ x ∈ s.l1 ∧ ¬ (mine x ∧ (e.o.md.spec.getLsbD 0 = true ∨
          ∃ l, l < 32 ∧ e.live.getLsbD l = true ∧ e.gea l < 2 ^ 57 ∧ x.vline = e.gea l / 128))) ∧
    (Ready (.pref e.o) s e →
      (∀ l, l < 32 → e.run.getLsbD l = true → e.gea l < 2 ^ 56 → ∃ n p,
        s.cached e.team.ctx (stackOfCore e.me.core) (e.gea l) false = some (n, p) ∧ s.permit e.team.ctx p .read = none) →
      ∃ t, exec (.pref e.o) s = .next t ∧ IssuedOnly (.pref e.o) e { s with l1 := t.l1, l2 := t.l2, touched := t.touched, free := t.free } t id ∧
        (e.o.md.spec.getLsbD 0 = false → t.l1 = s.l1 ∧
          ∀ l n p, l < 32 → e.run = 1#32 <<< l → e.gea l < 2 ^ 56 →
            s.cached e.team.ctx (stackOfCore e.me.core) (e.gea l) false = some (n, p) →
            (∀ x ∈ s.setMates (paOf n p (e.gea l)), ∀ m ∈ s.mats, x.1 ∉ m.2.pins) →
            (t.l2.get {} (paOf n p (e.gea l) / 128)).valid.testBit (paOf n p (e.gea l) / 32 % 4) = true) ∧
        (∀ l n p, e.o.md.spec.getLsbD 0 = true → l < 32 → e.run = 1#32 <<< l → e.gea l < 2 ^ 56 →
          s.cached e.team.ctx (stackOfCore e.me.core) (e.gea l) false = some (n, p) → pteOrder p ≠ 0 →
          s.poisoned (paOf n p (e.gea l)) = false → (s.l1Hit e.me.core e.team.ctx (e.gea l)).isSome = false →
          ∃ x ∈ t.l1, mine x ∧ x.vline = e.gea l / 128 ∧ x.valid.testBit (e.gea l / 32 % 4) = true))

/-! ## The matrix unit, copies, collectives and records -/

/-- R284, R288 to R290, R298 to R305: GANG installs its register and restarts its sequence; an MMA under a legal gang
arrives at the cinch and waits there; MZERO, MLD, MST and MMOV enter the core's order; MFENCE closes the open batch; a
completed MWAIT does nothing. No tile changes at issue. -/
def Obligations.MatrixIssue : Prop :=
  ∀ (s : State) (e : Env) (now : Group), s.group? e.me.core e.me.slot = some now →
    let x : W64 := BitVec.ofNat 64 (e.scal e.o.a .b64)
    let a := e.scal e.o.a .n64
    (Ready (.gang e.o) s e → (x ≠ now.gang → s.gangBroken now.team now.idx now.mmaSeq (· == now.gang) = false) →
      ∃ t left, exec (.gang e.o) s = .next t ∧ (∀ y ∈ left, y ∈ now.gangLeft ∨ y = (now.gang, now.mmaSeq)) ∧
        (x ≠ now.gang → (now.gang, now.mmaSeq) ∈ left) ∧ (∀ y ∈ left, y.1 ≠ x) ∧
        IssuedOnly (.gang e.o) e s t fun g => { g with gang := x, mmaSeq := 0, gangLeft := left }) ∧
    (Ready (.gang e.o) s e → x ≠ now.gang → s.gangBroken now.team now.idx now.mmaSeq (· == now.gang) = true →
      e.abortable s → ∃ t, exec (.gang e.o) s = .next t ∧ Aborted s t e.kid (e.report .gangBroken e.live)) ∧
    (Ready (.mma e.o) s e → gangOk now.gang e.kern.rec_.team now.idx = true →
      s.memberLost now.team now.gang (now.mmaSeq + 1) = false → e.g.team = now.team →
      ∃ t, exec (.mma e.o) s = .next t ∧ MatIssued (.mma e.o) e s t fun g =>
        ({ g with mmaSeq := now.mmaSeq + 1
                  cinch := g.cinch.put e.me.pcs
                    { seq := now.mmaSeq + 1, ins := .mma e.o, gang := now.gang, batch := now.batch, a := a,
                      b := e.scal e.o.b .n64, c := e.scal e.o.c .b64, upto := s.next, pc := e.pc } } : Group).heldAt
          e.me.pcs (.cinch (now.mmaSeq + 1))) ∧
    (Ready (.mma e.o) s e → gangOk now.gang e.kern.rec_.team now.idx = false → e.abortable s →
      ∃ t, exec (.mma e.o) s = .next t ∧ Aborted s t e.kid (e.report .gangInvalid e.live)) ∧
    (Ready (.mzero e.o) s e → ∃ t, exec (.mzero e.o) s = .next t ∧
      MatIssued (.mzero e.o) e (s.withMat (e.matOp now (.mzero e.o) 0 s.next)) t id) ∧
    (Ready (.mld e.o) s e → e.blockFault (nTiles e.o * viewRows e.o.ty) (128 * tyBytes e.o.ty) = none →
      ∃ t, exec (.mld e.o) s = .next t ∧
        MatIssued (.mld e.o) e (s.withMat { e.matOp now (.mld e.o) a s.next with b := e.scal e.o.b .n64 }) t id) ∧
    (Ready (.mst e.o) s e → e.blockFault (nTiles e.o * viewRows e.o.md.type2) (128 * tyBytes e.o.ty) = none →
      ∃ t, exec (.mst e.o) s = .next t ∧
        MatIssued (.mst e.o) e (s.withMat { e.matOp now (.mst e.o) a s.next with b := e.scal e.o.b .n64 }) t id) ∧
    (∀ n, Ready (.mmov e.o) s e → e.prot = false → e.o.a = .v n →
      ∃ t, exec (.mmov e.o) s = .next t ∧
        MatIssued (.mmov e.o) e (s.withMat { e.matOp now (.mmov e.o) 0 s.next with
          b := e.scal e.o.b .b64, lanes := e.run
          vals := if e.o.md.spec.getLsbD 0 then [0, 1, 2, 3].map fun k => e.g.vreg (n.toNat + k) else [] }) t id) ∧
    (Ready (.mfence e.o) s e → ∃ t, exec (.mfence e.o) s = .next t ∧
      IssuedOnly (.mfence e.o) e s t fun g => { g with batch := (g.batch + 1) % 2 ^ 16 }) ∧
    (Ready (.mwait e.o) s e → s.closedOpen e.me.core e.me.slot now ≤ e.o.md.spec.toNat % 8 →
      ∃ t, exec (.mwait e.o) s = .next t ∧ IssuedOnly (.mwait e.o) e s t fun g => g.heldAt e.me.pcs .no)

/-- R308 to R310, R315, R316, R318, R320: CPY and TCPY put a copy in flight and raise P3; SPAWN and JDEC put their
access in flight and raise P2; COLL is accepted with the fields of its descriptor. One that takes no effect only
issues. The model's choice: what a COLL reads at issue follows log 15. -/
def Obligations.AsyncIssue : Prop :=
  ∀ (s : State) (e : Env) (now : Group), s.group? e.me.core e.me.slot = some now →
    let a := e.scal e.o.a .n64
    let b := e.scal e.o.b .n64
    let n := e.scal e.o.c .n64
    let stack := stackOfCore e.me.core
    (Ready (.cpy e.o) s e → e.prot = false → e.takes = true → n ≤ 2 ^ 32 →
      (if e.o.md.spec.getLsbD 8 then a + n ≤ roundUp e.team.scratchLen 32 else a < 2 ^ 56 ∧ a + n ≤ 2 ^ 56) →
      (if e.o.md.spec.getLsbD 9 then b + n ≤ roundUp e.team.scratchLen 32 else b < 2 ^ 56 ∧ b + n ≤ 2 ^ 56) →
      ∃ t, exec (.cpy e.o) s = .next t ∧
        IssuedOnly (.cpy e.o) e (s.withCopy (e.copyOp now (.cpy e.o) a b [n])) t fun g => g.raised 3) ∧
    (Ready (.tcpy e.o) s e → e.prot = false → e.takes = true → a < 2 ^ 56 → a % 128 = 0 →
      ∃ t, exec (.tcpy e.o) s = .next t ∧
        IssuedOnly (.tcpy e.o) e (s.withCopy (e.copyOp now (.tcpy e.o) a b e.origin)) t fun g => g.raised 3) ∧
    (Ready (.spawn e.o) s e → e.takes = true → b % 1024 = 0 → n % 32 = 0 → e.kern.rec_.cluster = 0 →
      ∃ t, exec (.spawn e.o) s = .next t ∧
        IssuedOnly (.spawn e.o) e (s.withAccess ((s.atIssue (.spawn e.o) e).lookL1 { e.access now with
          op := .spawn, path := some 2, order := 2, scope := 3, lanes := 1, left := 1, ea := [0], data := [[a, b, n]] })) t
          fun g => (g.after e.me.pcs s).raised 2) ∧
    (Ready (.jdec e.o) s e → e.takes = true → a < 2 ^ 56 → a % 32 = 0 →
      ∃ t, exec (.jdec e.o) s = .next t ∧
        IssuedOnly (.jdec e.o) e (s.withAccess ((s.atIssue (.jdec e.o) e).lookL1 { e.access now with
          op := .jdec, path := some 2, order := 2, scope := 3, ty := .b64, count := 4, lanes := 1, left := 1, ea := [a]
          data := [[]] })) t fun g => (g.after e.me.pcs s).raised 2) ∧
    (∀ lvl p, Ready (.coll e.o) s e → e.takes = true → a < 2 ^ 56 → a % 64 = 0 →
      s.cached e.team.ctx stack (a / 4096 * 4096) false = some (lvl, p) → s.permit e.team.ctx p .read = none →
      (s.part (s.partOfCtx e.team.ctx)).ownsEngine (dieOfCore e.me.core) = true →
      let bs := s.bytesAt e.team.ctx stack a 64
      let c : CollOp :=
        { op := field bs 0 1, redop := field bs 1 1, ty := Ty.ofCode (BitVec.ofNat 6 (field bs 2 1)), flags := field bs 3 1
          root := field bs 4 2, count := field bs 8 8, ranks := field bs 0x10 8, send := field bs 0x18 8
          recv := field bs 0x20 8, doneW := field bs 0x28 8, ctag := field bs 0x30 4, die := dieOfCore e.me.core
          core := e.me.core, team := e.g.team, gidx := e.g.idx, kid := e.kid, ctx := e.team.ctx, pcs := e.me.pcs, pc := e.pc }
      c.send < 2 ^ 56 → c.recv < 2 ^ 56 → c.doneW < 2 ^ 56 → c.send + c.sendLen ≤ 2 ^ 56 → c.recv + c.recvLen ≤ 2 ^ 56 →
      collOk bs (s.selfRank e.team.ctx) (s.domOf e.team.ctx).isSome = true →
      ∃ t, exec (.coll e.o) s = .next t ∧
        IssuedOnly (.coll e.o) e
          { s with l2 := t.l2, touched := t.touched, free := t.free, colls := s.colls.put s.next c, next := s.next + 1 } t id) ∧
    (∀ i ∈ [Instr.cpy e.o, .tcpy e.o, .spawn e.o, .jdec e.o, .coll e.o], Ready i s e → e.prot = false → e.takes = false →
      ∃ t, exec i s = .next t ∧ IssuedOnly i e s t id)

/-! ## Barriers -/

/-- R324, R326: a slot that arrives while lanes of its group are still to arrive records its lanes and waits as its
instruction says; a different arrival than the one recorded is a mismatch. R324, R328, R330: the last lanes of a group
to arrive at BAR, or at a CBAR outside clusters, raise the team's count, and the last group of the team releases every
slot of the team that waits there and sets the count to zero; at CBAR in a cluster likewise over the cluster's teams.
-/
def Obligations.TeamBarrier : Prop :=
  (∀ p ∈ barForms, ∀ (s : State) (e : Env) (now : Group), Ready (p.1 e.o) s e →
     s.group? e.me.core e.me.slot = some now →
     (p.2.op = opDbar → ∃ m d, s.domOf e.team.ctx = some (m, d) ∧ d.st ≠ .broken) →
     (now.arrival = none → now.liveLanes &&& ~~~e.live ≠ 0 →
       ∃ t, exec (p.1 e.o) s = .next t ∧ IssuedOnly (p.1 e.o) e s t fun g =>
         let h := if p.2.hold e = .no then (g.slotAt e.me.pcs).held else p.2.hold e
         ({ g with arrival := some (p.2.arrival e now) } : Group).heldAt e.me.pcs h) ∧
     (∀ a, now.arrival = some a → ¬ (a.op = p.2.op ∧ a.n = p.2.n e ∧ a.val = p.2.val e) → e.abortable s →
       ∃ t, exec (p.1 e.o) s = .next t ∧ Aborted s t e.kid (e.report .barrierMismatch e.live))) ∧
  (∀ (s : State) (e : Env) (now : Group), e.lastToArrive s now → e.team = s.team now.team →
     (∀ i ∈ [Instr.bar e.o, .cbar e.o], Ready i s e → (i = .cbar e.o → e.team.cluster = none) →
       (e.team.barArr + 1 ≠ e.team.live.length → ∃ t, exec i s = .next t ∧
         IssuedOnly i e (s.setTeam now.team { e.team with barArr := e.team.barArr + 1 }) t fun g =>
           ({ g with arrival := none } : Group).heldAt e.me.pcs .bar) ∧
       (e.team.barArr + 1 = e.team.live.length → ∃ t, exec i s = .next t ∧ (t.team now.team).barArr = 0 ∧
         (∀ k, k ≠ gkey e.me.core e.me.slot → t.groups.find? k = (s.groups.find? k).map fun g =>
           if g.team = now.team then g.release (· == .bar) else g) ∧
         t.group? e.me.core e.me.slot = some
           ((({ e.issued i s.pair.isSome now with arrival := none } : Group).heldAt e.me.pcs .bar).release (· == .bar)) ∧
         SameMemory s t ∧ t.sram = s.sram ∧ t.tile = s.tile ∧ t.acc = s.acc)) ∧
     (∀ c, Ready (.cbar e.o) s e → e.team.cluster = some c → (s.teams.map Prod.fst).Pairwise (· < ·) →
       s.teams.find? now.team = some e.team →
       let cluster := s.clusterOf now.team
       let arrived := (cluster.map fun x => x.2.clusArr).sum
       let groups := (cluster.map fun x => x.2.live.length).sum
       (arrived + 1 ≠ groups → ∃ t, exec (.cbar e.o) s = .next t ∧
         IssuedOnly (.cbar e.o) e (s.setTeam now.team { e.team with clusArr := e.team.clusArr + 1 }) t fun g =>
           ({ g with arrival := none } : Group).heldAt e.me.pcs .cbar) ∧
       (arrived + 1 = groups → ∃ t, exec (.cbar e.o) s = .next t ∧ (∀ x ∈ cluster, (t.team x.1).clusArr = 0) ∧
         (∀ k, k ≠ gkey e.me.core e.me.slot → t.groups.find? k = (s.groups.find? k).map fun g =>
           if g.team ∈ cluster.map Prod.fst then g.release (· == .cbar) else g) ∧
         t.group? e.me.core e.me.slot = some
           ((({ e.issued (.cbar e.o) s.pair.isSome now with arrival := none } : Group).heldAt e.me.pcs .cbar).release
             (· == .cbar)) ∧
         SameMemory s t ∧ t.sram = s.sram ∧ t.tile = s.tile ∧ t.acc = s.acc)))

/-- R324, R326, R329: an arrival at a named barrier with count 1 to the team's groups is counted under that count; the one
that reaches it flips the phase, clears the count and releases the phase's waiters. BARW waits for the phase of its
group's latest arrival; where none is pending it is an acquire fence at .team. -/
def Obligations.NamedBarriers : Prop :=
  (∀ p ∈ [(Instr.bara, false), (Instr.barn, true)], ∀ (s : State) (e : Env) (now : Group), Ready (p.1 e.o) s e →
    e.lastToArrive s now → e.team = s.team now.team → s.kern e.team.kid = e.kern →
    let n := e.o.md.spec.toNat % 16
    let c := e.scal e.o.a .n32
    let b := e.team.named.get {} n
    let arr := (if b.counting then b.arrivals else 0) + 1
    let wait := Held.barw n b.phase
    1 ≤ c → c ≤ e.kern.rec_.team → (b.counting = true → b.expected = c) →
    (arr ≠ c → ∃ t, exec (p.1 e.o) s = .next t ∧
      IssuedOnly (p.1 e.o) e (s.setTeam now.team { e.team with
        named := e.team.named.set {} n { b with counting := true, expected := c, arrivals := arr } }) t fun g =>
        let g := if p.2 then g.heldAt e.me.pcs (.barp n) else g
        ({ g with arrival := none, named := g.named.put n b.phase } : Group).mapHeld
          fun h => if h = .barp n then wait else h) ∧
    (arr = c → ∃ t, exec (p.1 e.o) s = .next t ∧
      (t.team now.team).named.get {} n = { phase := !b.phase } ∧
      (∀ k, k ≠ gkey e.me.core e.me.slot → t.groups.find? k = (s.groups.find? k).map fun g =>
        if g.team = now.team then { g.release (· == wait) with named := g.named.erase n } else g) ∧
      (∃ g, t.group? e.me.core e.me.slot = some g ∧ g.arrival = none ∧ g.v = (e.issued (p.1 e.o) s.pair.isSome now).v ∧
        g.sreg = now.sreg ∧ g.preds = now.preds ∧ g.holds (· == wait) = false) ∧
      SameMemory s t ∧ t.sram = s.sram ∧ t.tile = s.tile)) ∧
  (∀ (s : State) (e : Env) (now : Group), Ready (.barw e.o) s e → s.group? e.me.core e.me.slot = some now →
    let n := e.o.md.spec.toNat % 16
    let ph := ((s.team e.g.team).named.get {} n).phase
    let ahead : Bool := e.g.arrival.any fun a => (a.op == opBara || a.op == opBarn) && a.n == n
    (ahead = true → ∃ t, exec (.barw e.o) s = .next t ∧
      IssuedOnly (.barw e.o) e s t fun g => g.heldAt e.me.pcs (.barp n)) ∧
    (ahead = false → e.g.named.find? n = some ph → ∃ t, exec (.barw e.o) s = .next t ∧
      IssuedOnly (.barw e.o) e s t fun g => g.heldAt e.me.pcs (.barw n ph)) ∧
    (ahead = false → e.g.named.find? n ≠ some ph → ∃ t, exec (.barw e.o) s = .next t ∧
      IssuedOnly (.barw e.o) e s t fun g =>
        g.heldAt e.me.pcs (if s.fenceOver 1 1 (now.slotAt e.me.pcs).seen then .no else .fence 1 1)))

/-- R331, R332: DBAR outside any domain is an illegal operand, in a broken one it aborts the kernel; the first arrival
of this rank counts it and sends its value to every other rank of the group table, the barrier waiting while a live one is
missing; where every live rank has arrived the waiting slots of the context run on. The model's choice: the number of the arrival
message is the model's (log 1). -/
def Obligations.DomainBarrier : Prop :=
  ∀ (s : State) (e : Env) (now : Group), Ready (.dbar e.o) s e →
    let a := e.scal e.o.a .n32
    (s.domOf e.team.ctx = none → e.abortable s →
      ∃ t, exec (.dbar e.o) s = .next t ∧ Aborted s t e.kid (e.report .illegalOperand e.live)) ∧
    (∀ m d, s.domOf e.team.ctx = some (m, d) → d.st = .broken → e.abortable s →
      ∃ t, exec (.dbar e.o) s = .next t ∧ Aborted s t e.kid (e.report .domainLost e.live)) ∧
    (∀ m d, s.domOf e.team.ctx = some (m, d) → s.doms.find? m = some d → d.st ≠ .broken → e.lastToArrive s now →
      e.team = s.team now.team → d.barVal = none → d.barLocal = false → d.liveRanks = [d.rank] → d.rekeyPending = false →
      d.barEarly = [] → (∀ x ∈ s.groups, x.1 = gkey e.me.core e.me.slot ∨ x.2.holds (· == .dbar) = false) →
      ∃ t, exec (.dbar e.o) s = .next t ∧ (t.dom m).barVal = none ∧ (t.dom m).barRanks = [] ∧
        t.group? e.me.core e.me.slot = some
          ((({ e.issued (.dbar e.o) s.pair.isSome now with arrival := none } : Group).heldAt e.me.pcs .dbar).release
            (· == .dbar)) ∧
        (∀ k, k ≠ gkey e.me.core e.me.slot → t.groups.find? k = s.groups.find? k) ∧
        SameMemory s t ∧ t.sram = s.sram ∧ t.tile = s.tile ∧ (d.ranks = [d.rank] → t.outbox = s.outbox)) ∧
    (∀ m d r, s.domOf e.team.ctx = some (m, d) → s.doms.find? m = some d → d.st ≠ .broken → e.lastToArrive s now →
      e.team = s.team now.team → d.barVal = none → d.barLocal = false → r ∈ d.liveRanks → r ≠ d.rank →
      ∃ t, exec (.dbar e.o) s = .next t ∧ (t.dom m).barVal = some a ∧ (t.dom m).barRanks = [d.rank] ∧
        (t.dom m).barLocal = true ∧
        t.group? e.me.core e.me.slot =
          some (({ e.issued (.dbar e.o) s.pair.isSome now with arrival := none } : Group).heldAt e.me.pcs .dbar) ∧
        (∀ k, k ≠ gkey e.me.core e.me.slot → t.groups.find? k = s.groups.find? k) ∧
        (∀ q ∈ d.ranks, q ≠ d.rank → SentTo t m q 1 [a]) ∧
        SameMemory s t ∧ t.sram = s.sram ∧ t.tile = s.tile)

/-! ## System instructions -/

/-- R50, R86, R104, R153 to R155: SRD of %lane writes each active lane's index, SRD of any other special register
writes its value into a scalar; SWR of %fflags takes five bits, of %dead clears only dead_read, of %srseed holds 1 for
0. R163 to R166: ENRD writes the 128-bit total it names into a scalar pair, CAPRD a capacity figure of its kernel. -/
def Obligations.SpecialRegisters : Prop :=
  ((∀ (s : State) (e : Env) (now : Group), Ready (.srd e.o) s e → s.group? e.me.core e.me.slot = some now →
     e.o.md.spec.toNat % 256 = 0 → let v := (e.issued (.srd e.o) s.pair.isSome now).v
     (e.run ≠ 0 → e.room v [e.o.dst.toNat]) →
     ∃ t v', exec (.srd e.o) s = .next t ∧
       VecWrite e.o.dst.toNat false e.run (fun l => if e.prot then l / 2 else l) v v' ∧
       IssuedOnly (.srd e.o) e s t fun g => { g with v := v' }) ∧
   (∀ (s : State) (e : Env) (r : Nat × Nat), Ready (.srd e.o) s e → e.o.md.spec.toNat % 256 = r.1 →
     r ∈ [(0x01, e.g.idx), (0x02, e.team.idx), (0x03, e.team.cluster.getD 0xFFFFFFFF),
          (0x04, (e.team.idx * e.kern.rec_.team + e.g.idx) % 2 ^ 32), (0x05, e.me.core), (0x06, stackOfCore e.me.core),
          (0x07, tierOfCore e.me.core), (0x08, e.me.core / 64),
          (0x09, e.g.dead.toNat + 2 ^ 32 * (if e.g.deadRead then 1 else 0)), (0x0A, e.run.toNat), (0x0B, e.g.fflags.toNat),
          (0x0C, e.g.srseed.toNat), (0x0D, (s.stackSt (stackOfCore e.me.core)).clock % 2 ^ 64),
          (0x0E, (s.stackSt (stackOfCore e.me.core)).cls), (0x0F, e.team.ctx)] →
     ∃ t, exec (.srd e.o) s = .next t ∧ IssuedOnly (.srd e.o) e s t fun g =>
       if e.takes then g.writeScal e.o.dst.toNat (BitVec.ofNat 64 r.2) else g) ∧
   (∀ (s : State) (e : Env), Ready (.swr e.o) s e →
     let x : W64 := BitVec.ofNat 64 (e.scal e.o.a .n64)
     let code := e.o.md.spec.toNat % 256
     ∃ t, exec (.swr e.o) s = .next t ∧ IssuedOnly (.swr e.o) e s t fun g =>
       if e.takes = false then g
       else if code = 0x0B then { g with fflags := x.setWidth 5 }
       else if code = 0x09 then { g with deadRead := g.deadRead && !x.getLsbD 32 }
       else if code = 0x0C then { g with srseed := if x.setWidth 32 = 0#32 then 1 else x.setWidth 32 }
       else g)) ∧
  ((∀ (f : EnrdForm) (s : State) (e : Env), Ready (.enrd f e.o) s e →
     let stack := stackOfCore e.me.core
     let sel := e.o.md.spec.toNat % 8
     let copy (kern : Bool) (n k : Nat) : Int := (s.stackCopy.get [] (copyKey stack kern n)).getD k 0
     let x : BitVec 128 := BitVec.ofInt 128 (match f with
       | .team => (e.team.charge : Int)
       | .ctx => copy false e.team.ctx sel
       | .kern =>
         if sel = 5 then
           if e.kern.rec_.limit = 0 then 2 ^ 63 - 1
           else max (-(2 ^ 63)) (min (2 ^ 63 - 1) ((e.kern.rec_.limit : Int) -
             (copy true e.kid 0 + copy true e.kid 1 + copy true e.kid 2 + copy true e.kid 3)))
         else copy true e.kid sel)
     ∃ t, exec (.enrd f e.o) s = .next t ∧ IssuedOnly (.enrd f e.o) e s t fun g =>
       if e.takes then
         (g.writeScal e.o.dst.toNat (x.setWidth 64)).writeScal (e.o.dst.toNat + 1) ((x >>> 64).setWidth 64)
       else g) ∧
   (∀ (s : State) (e : Env) (r : Nat × Nat), Ready (.caprd e.o) s e → e.o.md.spec.toNat % 8 = r.1 →
     let k := s.kern e.kid
     let pool := s.poolOf k
     let cores := pool.flatMap stackCores
     r ∈ [(0, k.notices % 2 ^ 64), (1, (cores.filter fun c => (s.coreSt c).counted).length),
          (2, (cores.filter fun c => (s.coreSt c).notified && ((s.coreSt c).st == .drain || (s.coreSt c).st == .test)).length),
          (3, (cores.filter fun c => (s.coreSt c).st == .retired && (s.coreSt c).retBy == some (s.partOfCtx k.ctx)).length),
          (4, ((pool.filter fun x => (stackCores x).all fun c => (s.coreSt c).counted).map fun x => 2 ^ x).sum),
          (5, k.lastChange)] →
     ∃ t, exec (.caprd e.o) s = .next t ∧ IssuedOnly (.caprd e.o) e s t fun g =>
       if e.takes then g.writeScal e.o.dst.toNat (BitVec.ofNat 64 r.2) else g))

/-- R156 to R159, R161, R455: where its ring has room and its page is held for writes, SVC, and TRAP of a debug launch,
writes its 192-byte record at the producer's entry, advances the producer, signals the service interrupt where enabled
and holds its slot for the reply; TRAP of another launch aborts the kernel with its code as value. -/
def Obligations.ServiceAndTraps : Prop :=
  (∀ (i : Instr) (s : State) (e : Env),
    let c := s.ctx e.team.ctx
    let stack := stackOfCore e.me.core
    let va := c.svcBase + 192 * (c.svcProd % svcEntries c)
    let code := e.o.md.spec.toNat % 2 ^ 16
    let trap : Bool := i == .trap e.o
    let record := leBytes 4 c.svcProd ++ svcBody e (e.visible e.run) code (if trap then 2 else 1)
      (if trap then 0 else e.scal e.o.b .n64) fun j => if trap then 0 else e.src e.o.a .b32 (e.phys j)
    (i = .svc e.o ∧ e.run ≠ 0 ∧ e.prot = false) ∨ (i = .trap e.o ∧ e.takes = true ∧ e.kern.rec_.flags.testBit 1 = true) →
    Ready i s e → s.group? e.me.core e.me.slot ≠ none →
    (∀ u ∈ unitsOf va 192, ∃ n p, s.cached e.team.ctx stack u true = some (n, p) ∧ s.permit e.team.ctx p .write = none) →
    ∃ t, exec i s = .next t ∧
      WrittenTo s t (s.writesAt e.team.ctx stack va record) ∧
      IssuedOnly i e ({ s.setCtx e.team.ctx { c with svcProd := (c.svcProd + 1) % 2 ^ 32 } with
        mem := t.mem, sealKey := t.sealKey, l1 := t.l1, l2 := t.l2, touched := t.touched, free := t.free, poison := t.poison, errs := t.errs
        acc := s.acc.erase s.next, next := s.next + 1, irqs := if c.irqEnable then s.irqs ++ [(c.fn, c.irqVector)] else s.irqs }) t fun g =>
        (({ g with svc := some { seq := some c.svcProd, lanes := e.run, dst := if trap then 0 else e.o.dst.toNat
                                 trap := trap, pc := e.pc } } : Group).heldAt e.me.pcs .reply).after e.me.pcs s) ∧
  (∀ (s : State) (e : Env), Ready (.svc e.o) s e → e.run = 0 →
    ∃ t, exec (.svc e.o) s = .next t ∧ IssuedOnly (.svc e.o) e s t id) ∧
  (∀ (s : State) (e : Env), Ready (.trap e.o) s e → e.takes = true → e.kern.rec_.flags.testBit 1 = false → e.abortable s →
    ∃ t, exec (.trap e.o) s = .next t ∧ Aborted s t e.kid
      { status := 9, core := e.me.core, slot := e.me.slot, pcSlot := e.me.pcs, team := e.team.idx, pc := e.pc,
        value := e.o.md.spec.toNat % 2 ^ 16 }) ∧
  (∀ (s : State) (e : Env), Ready (.trap e.o) s e → e.takes = false →
    ∃ t, exec (.trap e.o) s = .next t ∧ IssuedOnly (.trap e.o) e s t id)

/-! ## Translation and faults in flight -/

/-- R202, R214, R215: the walk of an access's lowest missing page installs its leaf, with accessed and for a write
dirty set in the entry's bytes, or leaves the access waiting on a replayable fault that names the page; no other byte
and no register changes. R215, R216: with room in the ring of the context's function, the record of a replayable fault
is written at the producer's entry, the producer advances and vector 0 is raised; without room nothing changes yet.
The model's choice: one walk serves all lanes of a page (log 15). -/
def Obligations.PageWalks : Prop :=
  (∀ (s : State) (id u : Nat) (a : Access), s.acc.find? id = some a → a.fault = none → a.left ≠ 0 → a.space = .global →
     a.op ≠ .fetch → a.op ≠ .record → a.op ≠ .spawn →
     let here (l : Nat) : Prop := ∃ va, s.placeOf a (a.ea.getD l 0) = .here va
     (∃ l ∈ lanesOf a.left, here l ∧ u ∈ s.missing a l) →
     (∀ l ∈ lanesOf a.left, here l → ∀ x ∈ s.missing a l, u ≤ x) →
     let start := match s.tlbTable a.stack a.ctx u with
       | some x => (x.level, ptePa x.pte * 4096)
       | none => (5, (s.ctx a.ctx).root * 8192)
     let waits (t : State) (c d n : Nat) : Prop := ∃ f, t.acc = s.acc.put id { a with fault := some f } ∧ f.cause = c ∧
       f.detail = d ∧ f.level = n ∧ f.kind = a.faultKind ∧ f.lanes = a.left ∧ f.recorded = false ∧
       plainVa u ≤ f.va ∧ f.va < plainVa u + 4096 ∧
       ∀ l, l < 32 → (f.stuck.getLsbD l = true ↔ a.left.getLsbD l = true ∧ here l ∧ u ∈ s.missing a l)
     ((s.ctx a.ctx).enable = false → ∃ t, exec (.pageWalkComplete id) s = .next t ∧ waits t 1 2 4 ∧ SameMemory s t ∧
       t.groups = s.groups) ∧
     (∀ c d n, (s.ctx a.ctx).enable = true → (s.walkLoop u start.1 start.2).1 = .fault c d n →
       ∃ t, exec (.pageWalkComplete id) s = .next t ∧ waits t c d n ∧ SameMemory s t ∧ t.groups = s.groups) ∧
     (∀ n e pa, (s.ctx a.ctx).enable = true → (s.walkLoop u start.1 start.2).1 = .leaf n e pa →
       let e' := e ||| 2 ^ 8 ||| (if a.writes then 2 ^ 9 else 0)
       ∃ t x, exec (.pageWalkComplete id) s = .next t ∧ x ∈ t.tlb ∧
         x = { stack := a.stack, ctx := a.ctx, level := n, vnum := vnumOf u n, pte := e', wr := a.writes } ∧
         WrittenTo s t (if e' = e then [] else keyed 0 pa ((List.range 8).map fun i => BitVec.ofNat 8 (e' / 2 ^ (8 * i)))) ∧
         t.acc = s.acc ∧ t.groups = s.groups ∧ t.sram = s.sram ∧ t.tile = s.tile)) ∧
  (∀ (s : State) (id ctx core slot : Nat) (f : PageFault) (lanes : Mask) (mark : State → State),
     (∃ a, s.acc.find? id = some a ∧ a.fault = some f ∧ ctx = a.ctx ∧ core = a.core ∧ slot = a.slot ∧
       lanes = (if f.kind = 4 then 0 else a.left) ∧
       mark = fun t => { t with acc := s.acc.put id { a with fault := some { f with recorded := true } } }) ∨
     (∃ c, s.acc.find? id = none ∧ s.copies.find? id = some c ∧ c.fault = some f ∧ ctx = c.ctx ∧ core = c.core ∧
       slot = 0xFFFF ∧ lanes = f.lanes ∧
       mark = fun t => { t with copies := s.copies.put id { c with fault := some { f with recorded := true } } }) ∨
     (∃ m, s.acc.find? id = none ∧ s.copies.find? id = none ∧ s.mats.find? id = some m ∧ m.fault = some f ∧ ctx = m.ctx ∧
       core = m.core ∧ slot = 0xFFFF ∧ lanes = f.lanes ∧
       mark = fun t => { t with mats := s.mats.put id { m with fault := some { f with recorded := true } } }) ∨
     (∃ c, s.acc.find? id = none ∧ s.copies.find? id = none ∧ s.mats.find? id = none ∧ s.colls.find? id = some c ∧
       c.fault = some f ∧ ctx = c.ctx ∧ core = c.core ∧ slot = 0xFFFF ∧ lanes = f.lanes ∧
       mark = fun t => { t with colls := s.colls.put id { c with fault := some { f with recorded := true } } }) →
     f.recorded = false →
     let fn := (s.ctx ctx).fn
     let r := s.ring fn
     let room : Prop := r.entries ≠ 0 ∧ (r.prod + 2 ^ 32 - r.cons) % 2 ^ 32 < r.entries
     (¬ room → exec (.faultRecordWrite id) s = .next s) ∧
     (room → let pa := r.base + 32 * (r.prod % r.entries)
       ∃ t, exec (.faultRecordWrite id) s = .next t ∧
         WrittenTo s t (keyed 0 pa (leBytes 8 f.va ++ leBytes 2 ctx ++ leBytes 1 f.cause ++ leBytes 1 f.detail ++
           leBytes 1 f.level ++ leBytes 1 f.kind ++ leBytes 2 core ++ leBytes 2 slot ++ leBytes 2 0 ++
           leBytes 4 lanes.toNat ++ leBytes 4 r.prod ++ leBytes 4 0)) ∧
         t.ring fn = { r with prod := (r.prod + 1) % 2 ^ 32 } ∧ (∀ k, k ≠ fn → t.ring k = s.ring k) ∧
         t = { mark s with mem := t.mem, sealKey := t.sealKey, rings := t.rings, irqs := s.irqs ++ [(fn, 0)] }))

/-! ## The divergence stack, records and join objects -/

/-- R318 to R321: a SPAWN's record enters the pool under the next %team; a join step lowers the object's counter by
one modulo 2^64 and, where it becomes zero with a nonzero code, makes the object's record; a record outside a pool
with room enters it. No other byte and no register changes. The model's choice: a poisoned join object is left as it
is (log 15). -/
def Obligations.RecordsAndJoins : Prop :=
  let entered (k : Kernel) (code frame join : Nat) : Kernel :=
    { k with pool := k.pool ++ [{ idx := k.rec_.gridTeams + k.spawnedN, code := code, frame := frame, join := join
                                  spawned := true }]
             spawnedN := k.spawnedN + 1 }
  let stepped (s t : State) (key pa : Nat) (old new : Kernel) : Prop :=
    let n : W64 := BitVec.ofNat 64 (s.read64 key pa) - 1
    WrittenTo s t (keyed key pa (leBytes 8 n.toNat)) ∧
    (if n = 0 ∧ s.read64 key (pa + 8) ≠ 0 then
      new.pool = (entered old (s.read64 key (pa + 8)) (s.read64 key (pa + 16)) (s.read64 key (pa + 24))).pool ∧
        new.spawnedN = old.spawnedN + 1
    else new.pool = old.pool ∧ new.spawnedN = old.spawnedN)
  (∀ (s : State) (id code frame join : Nat) (a : Access) (k : Kernel), s.acc.find? id = some a → a.op = .spawn →
    a.left ≠ 0 → a.data = [[code, frame, join]] → (∀ x ∈ s.among a.prior, x.2.left = 0) →
    s.kernels.find? a.kid = some k → k.pool.length < 65536 → k.outside = [] →
    (∀ g, s.group? a.core a.slot = some g → g.arrival = none) →
    ∃ t, exec (.globalAccessPerformed id) s = .next t ∧ t.kernels = s.kernels.put a.kid (entered k code frame join) ∧
      SameRegisters s t ∧ SameMemory s t ∧ t.sram = s.sram ∧ t.tile = s.tile) ∧
  (∀ (s : State) (id : Nat) (a : Access) (k : Kernel), s.acc.find? id = some a → a.op = .jdec → a.left ≠ 0 →
    s.readyLanes id a = [0] → s.checkLane a 0 = .ok → s.kernels.find? a.kid = some k → k.st.abortable = true →
    k.pool.length < 65536 → k.outside = [] → (∀ g, s.group? a.core a.slot = some g → g.arrival = none) →
    s.poisoned (s.paFor a (a.ea.getD 0 0)) = false →
    ∃ t, exec (.globalAccessPerformed id) s = .next t ∧
      stepped s t (s.keyFor a (a.ea.getD 0 0)) (s.paFor a (a.ea.getD 0 0)) k (t.kern a.kid) ∧ SameRegisters s t ∧ t.sram = s.sram ∧ t.tile = s.tile) ∧
  (∀ (s : State) (kid : Nat) (k : Kernel) (r : Rec) (rest : List (Rec × Option Nat)), s.kernels.find? kid = some k →
    k.outside = (r, none) :: rest → k.pool.length < 65536 →
    exec (.poolRecordEntry kid) s = .next (s.setKern kid { k with
      outside := rest, pool := k.pool ++ [{ r with idx := k.rec_.gridTeams + k.spawnedN }]
      spawnedN := k.spawnedN + 1 })) ∧
  (∀ (s : State) (kid : Nat) (k : Kernel), s.kernels.find? kid = some k →
    (k.outside = [] ∨ 65536 ≤ k.pool.length) → exec (.poolRecordEntry kid) s = .next s) ∧
  (∀ (s : State) (kid pa : Nat) (k : Kernel) (j : Nat × Nat) (rest : List (Nat × Nat)), s.kernels.find? kid = some k →
    k.joins = j :: rest → (∀ x ∈ s.acc, x.2.team = j.1 → x.2.left = 0) → k.st.abortable = true →
    k.pool.length < 65536 → k.outside = [] → j.2 < 2 ^ 56 → j.2 % 32 = 0 → s.headPa k.ctx j.2 .both = some pa →
    s.poisoned pa = false →
    ∃ t, exec (.teamRetirementStep kid) s = .next t ∧ (t.kern kid).joins = rest ∧
      stepped s t (s.headKey k.ctx j.2 .both) pa k (t.kern kid) ∧
      t.groups = s.groups ∧ t.sram = s.sram ∧ t.tile = s.tile) ∧
  (∀ (s : State) (kid : Nat) (k : Kernel) (j : Nat × Nat) (rest : List (Nat × Nat)), s.kernels.find? kid = some k →
    k.joins = j :: rest → (∀ x ∈ s.acc, x.2.team = j.1 → x.2.left = 0) →
    (2 ^ 56 ≤ j.2 ∨ j.2 % 32 ≠ 0 ∨ s.headPa k.ctx j.2 .both = none) →
    exec (.teamRetirementStep kid) s = .next ((s.setKern kid { k with joins := rest }).countErrCtx k.ctx 11))

/-! ## The matrix unit's events -/

/-- R284, R289, R294: when every member of a gang waits at the cinch for one sequence index and their MMAs pass the
checks, they go on behind an acquire-release fence at .team and one operation enters the core's order; where a check fails
the kernel is aborted. R246, R284,
R295, R299: the fetch phase of the first operation of a core's order, when the accesses its reads follow have
performed, takes the rows of its operands as memory holds them (here of its team's scratchpad), and changes no
register, no tile and no byte. The model's choice: a phase is one step of the unit (log 15). -/
def Obligations.MatrixFetches : Prop :=
  (∀ (s : State) (core slot p : Nat) (now : Group) (arr : CinchArr) (o : Fields)
     (ms : List (Nat × Nat × Group × CinchArr)), (s.groups.map Prod.fst).Pairwise (· < ·) →
     s.group? core slot = some now → (p, arr) ∈ now.cinch →
     (∀ x ∈ now.cinch, x = (p, arr) ∨ arr.seq < x.2.seq) → arr.ins = .mma o →
     (gangMembers arr.gang).map (fun i => s.arrivalOf now.team i arr.seq) = ms.map some → (s.matsOn core).length < 16 →
     let team := s.team now.team
     (releaseFault o team (ms.map fun m => m.2.2.2) = none →
       ∃ t, exec (.cinchRelease core slot) s = .next t ∧
         t = State.withMat { s with groups := t.groups, l1 := t.l1, l2 := t.l2, ctxs := t.ctxs }
           { core := core, team := now.team, kid := team.kid, ctx := team.ctx, ins := arr.ins
             pcs := (ms.head?.map fun m => if m.2.1 < 2 then m.2.1 else 0).getD 0
             pc := (ms.head?.map fun m => m.2.2.2.pc).getD arr.pc
             members := ms.map fun m => { slot := m.1 % 1024, tag := m.2.2.1.tag, idx := m.2.2.1.idx,
                                          batch := m.2.2.2.batch, a := m.2.2.2.a, upto := m.2.2.2.upto }
             b := arr.b, c := arr.c } ∧
         (∀ k, (∀ m ∈ ms, m.1 ≠ k) → t.groups.find? k = s.groups.find? k) ∧
         (∀ m ∈ ms, ∃ g, t.groups.find? m.1 = some g ∧ g.cinch.find? m.2.1 = none ∧
           g.v = m.2.2.1.v ∧ g.sreg = m.2.2.1.sreg ∧ g.preds = m.2.2.1.preds ∧
           (m.2.1 < 2 → (m.2.2.1.slotAt m.2.1).held = .cinch m.2.2.2.seq → (g.slotAt m.2.1).held =
             if s.fenceOver 3 1 (m.2.2.1.slotAt m.2.1).seen then .no else .fence 3 1))) ∧
     (∀ c k, releaseFault o team (ms.map fun m => m.2.2.2) = some c → s.kernels.find? team.kid = some k →
       k.st.abortable = true → ∃ t, exec (.cinchRelease core slot) s = .next t ∧ Aborted s t team.kid
         { status := 3, cause := c.code, core := core, slot := slot, lanes := now.liveLanes, team := team.idx, pc := arr.pc
           pcSlot := (ms.findSome? fun m => if m.1 = gkey core slot ∧ m.2.1 < 2 then some m.2.1 else none).getD 0 })) ∧
  (∀ (s : State) (id : Nat) (m : MatOp) (rest : List (Nat × MatOp)), s.mats.find? id = some m → m.fetched = false →
     m.fault = none → s.matsOn m.core = (id, m) :: rest →
     let byte (a : Nat) : Byte := Tbl.get 0 s.sram (sramKey m.core ((s.team m.team).scratchAt + a))
     let row (n a : Nat) : List Byte := (List.range n).map fun i => byte (a + i)
     let quiet : Prop := ∀ x ∈ m.members, ∀ e ∈ s.acc, e.2.team = m.team → e.2.gidx = x.idx → e.1 < x.upto → e.2.left = 0
     (∀ o, m.ins = .mzero o ∨ m.ins = .mmov o →
       exec (.matrixFetchComplete id) s = .next { s with mats := s.mats.put id { m with fetched := true } }) ∧
     (∀ o x, m.ins = .mld o → m.members = [x] → o.md.spec.getLsbD 2 = true → quiet →
       ∃ t m', exec (.matrixFetchComplete id) s = .next t ∧ t.mats.find? id = some m' ∧ m'.fetched = true ∧
         m'.adata = (List.range (nTiles o * viewRows o.ty)).map (fun i =>
           (row (128 * tyBytes o.ty) (x.a + i * m.b)).map (·.toNat)) ∧ Untouched s t) ∧
     (∀ o x, m.ins = .mst o → m.members = [x] → o.md.spec.getLsbD 2 = true → quiet →
       ∃ t m', exec (.matrixFetchComplete id) s = .next t ∧ t.mats.find? id = some m' ∧ m'.fetched = true ∧
         Untouched s t) ∧
     (∀ o, m.ins = .mma o → o.md.spec.getLsbD 0 = true → o.md.spec.getLsbD 1 = true → o.ty ≠ .q8 → o.ty ≠ .q4 → quiet →
       let k := shapeK m.c
       ∃ t m', exec (.matrixFetchComplete id) s = .next t ∧ t.mats.find? id = some m' ∧ m'.fetched = true ∧
         m'.adata = (m.members.flatMap fun x => (List.range 64).map fun i =>
           rowElems o.ty.width k (row ((k * o.ty.width + 7) / 8) (x.a + i * shapeLda m.c))) ∧
         m'.bdata = ((List.range k).map fun i =>
           rowElems o.md.type2.width 128 (row (128 * tyBytes o.md.type2) (m.b + i * shapeLdb m.c))) ∧
         Untouched s t))

/-- R54 to R57, R286, R287, R291, R297 to R301: the compute phase of the first operation, once fetched, leaves the
order and writes exactly its results: MMA each accumulator element over its row and column, MZERO zeros, MLD the
fetched rows, MST the converted rows to the team's scratchpad, MMOV.vr a chunk of a tile and MMOV.rv the lanes of four
names. The model's choice: a phase is one step of the unit (log 15), and a product that is exactly zero has the sign
that log 18 says. -/
def Obligations.MatrixComputes : Prop :=
  ∀ (s : State) (id : Nat) (m : MatOp) (rest : List (Nat × MatOp)), s.mats.find? id = some m → m.fetched = true →
    s.matsOn m.core = (id, m) :: rest → (∀ x, s.teams.find? m.team = some x → x.live ≠ []) →
    let team := s.team m.team
    let at_ (tile off : Nat) : Nat := tileKey m.core (team.tileAt + tile) off
    let byte (t : State) (tile off : Nat) : Byte := Tbl.get 0 t.tile (at_ tile off)
    let gone (t : State) : Prop := t.mats.find? id = none ∧ ∀ k, k ≠ id → t.mats.find? k = s.mats.find? k
    (∀ o, m.ins = .mzero o →
      let n := o.md.spec.toNat % 64
      ∃ t, exec (.matrixComputeComplete id) s = .next t ∧ gone t ∧
        (∀ j off, j < n → off < 2 ^ 14 → byte t (o.dst.toNat + j) off = 0) ∧
        (∀ k, k < at_ o.dst.toNat 0 ∨ at_ (o.dst.toNat + n) 0 ≤ k → Tbl.get 0 t.tile k = Tbl.get 0 s.tile k) ∧
        t.groups = s.groups ∧ SameMemory s t ∧ t.sram = s.sram) ∧
    (∀ o, m.ins = .mld o →
      let v := viewRows o.ty
      let n := viewRowBytes o.ty
      v * n = 2 ^ 14 → m.adata.length = nTiles o * v → (∀ r ∈ m.adata, r.length = n ∧ ∀ x ∈ r, x < 256) →
      ∃ t, exec (.matrixComputeComplete id) s = .next t ∧ gone t ∧
        (∀ j i b, j < nTiles o → i < v → b < n →
          (byte t (o.dst.toNat + j) (i * n + b)).toNat = (m.adata.getD (j * v + i) []).getD b 0) ∧
        (∀ k, k < at_ o.dst.toNat 0 ∨ at_ (o.dst.toNat + nTiles o) 0 ≤ k → Tbl.get 0 t.tile k = Tbl.get 0 s.tile k) ∧
        t.groups = s.groups ∧ SameMemory s t ∧ t.sram = s.sram) ∧
    (∀ o, m.ins = .mma o → m.members.length ≤ 6 →
      let w := accW o.ty
      let n := tyBytes (accTy o.ty o.md.type2)
      let perTile := 64 / w
      let elem (t : State) (r i j : Nat) : Nat :=
        leNat (readBytes t.tile (at_ (o.dst.toNat + w * r + i / perTile) ((i % perTile * 128 + j) * n)) n)
      let base (r : Nat) : Nat := (match m.members[r]? with | some x => x.a | none => 0)
      ∃ t, exec (.matrixComputeComplete id) s = .next t ∧ gone t ∧
        (∀ r i j, r < m.members.length → i < 64 → j < 128 → elem t r i j =
          (accumulate o.ty o.md.type2 (elem s r i j) (m.adata.getD (64 * r + i) []) (m.scales.getD (64 * r + i) [])
            (m.bdata.map fun x => x.getD j 0) (cutsOf m o (base r + i * shapeLda m.c))).1 % 2 ^ (8 * n)) ∧
        (∀ k, k < at_ o.dst.toNat 0 ∨ at_ (o.dst.toNat + w * m.members.length) 0 ≤ k →
          Tbl.get 0 t.tile k = Tbl.get 0 s.tile k) ∧
        SameRegisters s t ∧ SameMemory s t ∧ t.sram = s.sram) ∧
    (∀ o x, m.ins = .mst o → m.members = [x] → o.md.spec.getLsbD 2 = true →
      (∀ j < nTiles o, s.tileBad m.core (team.tileAt + o.dst.toNat + j) = false) →
      let tt := o.md.type2
      let v := viewRows tt
      let size := tyBytes o.ty
      let cell (i j : Nat) : Nat :=
        (mstElem tt o.ty (RMode.ofCode o.md.round)
          (leNat (readBytes s.tile (at_ (o.dst.toNat + i / v) ((i % v * 128 + j) * tyBytes tt)) (tyBytes tt)))).1
      let ws := (List.range (nTiles o * v)).flatMap fun i => (List.range 128).flatMap fun j =>
        (List.range size).map fun b =>
          (sramKey m.core (team.scratchAt + (x.a + i * m.b) + size * j + b), BitVec.ofNat 8 (cell i j / 2 ^ (8 * b)))
      ∃ t, exec (.matrixComputeComplete id) s = .next t ∧ gone t ∧
        (∀ k, Tbl.get 0 t.sram k = lastWrite (Tbl.get 0 s.sram) ws k) ∧
        SameRegisters s t ∧ SameMemory s t ∧ t.tile = s.tile) ∧
    (∀ o x, m.ins = .mmov o → m.members = [x] → (s.kern m.kid).rec_.flags.testBit 0 = false →
      let chunk := 512 * (m.b % 32)
      (o.md.spec.getLsbD 0 = true → m.vals.length = 4 →
        ∃ t, exec (.matrixComputeComplete id) s = .next t ∧ gone t ∧
          (∀ l i, l < 32 → m.lanes.getLsbD l = true → i < 4 →
            readBytes t.tile (at_ o.dst.toNat (chunk + 16 * l + 4 * i)) 4 =
              leBytes 4 (laneOf (m.vals.getD i []) l).toNat) ∧
          (∀ k, (∀ l, l < 32 → m.lanes.getLsbD l = true → k < at_ o.dst.toNat (chunk + 16 * l) ∨
              at_ o.dst.toNat (chunk + 16 * l + 16) ≤ k) → Tbl.get 0 t.tile k = Tbl.get 0 s.tile k) ∧
          t.groups = s.groups ∧ SameMemory s t ∧ t.sram = s.sram) ∧
      (∀ n g, o.md.spec.getLsbD 0 = false → o.a = .v n → s.findMember m.team x.idx = some (m.core, x.slot) →
        s.group? m.core x.slot = some g → s.team g.team = team →
        s.tileBad m.core (team.tileAt + n.toNat) = false → m.lanes &&& ~~~g.dead ≠ 0 →
        ((List.range 4).foldl (fun v i => v.put (o.dst.toNat + i) []) g.v).length ≤ (s.kern team.kid).rec_.regs →
        ∃ t v, exec (.matrixComputeComplete id) s = .next t ∧ gone t ∧ t.group? m.core x.slot = some { g with v := v } ∧
          (∀ i l, i < 4 → l < 32 → laneOf (v.get [] (o.dst.toNat + i)) l =
            if (m.lanes &&& ~~~g.dead).getLsbD l then
              BitVec.ofNat 32 (leNat (readBytes s.tile (at_ n.toNat (chunk + 16 * l + 4 * i)) 4))
            else laneOf (g.v.get [] (o.dst.toNat + i)) l) ∧
          (∀ k, (∀ i < 4, k ≠ o.dst.toNat + i) → v.find? k = g.v.find? k) ∧
          (∀ k, k ≠ gkey m.core x.slot → t.groups.find? k = s.groups.find? k) ∧
          SameMemory s t ∧ t.sram = s.sram ∧ t.tile = s.tile))

/-! ## Copies and collectives -/

/-- R245, R308, R309, R311 to R313: a CPY performs its bytes as its sources hold them when it is performed, and a source
byte that the copy itself writes is read before or after that write; a TCPY
reads its descriptor and fills its slots from the elements inside the tensor, the fill value elsewhere, or stores its
slots' raw elements that lie inside; a malformed descriptor aborts the kernel. Either begins with its acquire flag's fence
(`u`); where L2 holds an older copy of host memory a CPY may read that or memory. No register changes. The model's
choice: a copy is one step (log 15). -/
def Obligations.CopiesPerform : Prop :=
  ∀ (s : State) (id : Nat) (c : CopyOp), s.copies.find? id = some c → c.fin = false → c.fault = none →
    (∀ x ∈ s.among c.prior, x.2.left = 0) →
    (∀ x, s.teams.find? c.team = some x → x.live ≠ []) →
    let stack := stackOfCore c.core
    let done (t : State) : Prop := SameRegisters s t ∧ t.tile = s.tile ∧
      ∀ x, t.copies.find? id = some x → x.fin = true
    (∀ o n, c.ins = .cpy o → c.c = [n] →
      let dsp := o.md.spec.getLsbD 8
      let ssp := o.md.spec.getLsbD 9
      (ssp = false → s.reaches c.ctx stack c.b n .read) → (dsp = false → s.reaches c.ctx stack c.a n .write) →
      ∃ t, ∃ src : List Byte, exec (.copyComplete id) s = .next t ∧ done t ∧ src.length = n ∧
        (∀ i < n, (if ssp then src.getD i 0 = Tbl.get 0 s.sram (s.teamSram c c.b + i)
            else s.gives c.ctx stack (c.b + i) (src.getD i 0)) ∨
          dsp = ssp ∧ c.a ≠ c.b ∧ c.a ≤ c.b + i ∧ c.b + i < c.a + n ∧ src.getD i 0 = src.getD (c.b + i - c.a) 0) ∧
        (dsp = false → WrittenTo s t (s.writesAt c.ctx stack c.a src) ∧ t.sram = s.sram) ∧
        (dsp = true → SameMemory s t ∧ ∀ k, Tbl.get 0 t.sram k =
          lastWrite (Tbl.get 0 s.sram) ((List.range n).map fun i => (s.teamSram c c.a + i, src.getD i 0)) k)) ∧
    (∀ o, c.ins = .tcpy o → c.a % 128 = 0 → s.reaches c.ctx stack c.a 128 .read →
      let u := s.engineAcquire c.core c.ctx (if o.md.spec.getLsbD 0 then some (bitsN o.md.spec.toNat 3 1) else none)
      let bs := u.bytesAt c.ctx stack c.a 128
      let T := tensorOf bs
      let store := o.md.spec.getLsbD 8
      let pts := boxPoints (T.box.take T.dims)
      let size := tyBytes T.ty
      let slot (b : List Nat) : Nat := s.teamSram c c.b + T.slotAt b
      let places := pts.filterMap fun b => (T.posOf c.c b).map T.placeOf
      let recOf (p : Nat × Nat) : Nat :=
        let x := s.leafAt c.ctx stack p.1
        u.record (s.keyVia c.ctx stack p.1) (recordAt x.2 (elemIndex x.1 x.2 p.1 p.2))
      (tensorOk bs = false → ∀ k, s.kernels.find? c.kid = some k → k.st.abortable = true →
        ∃ t, exec (.copyComplete id) s = .next t ∧ Aborted s t c.kid (s.reportOf c.team c.gidx c.pcs c.pc .descriptor c.a)) ∧
      (tensorOk bs = true → c.b + size * pts.length ≤ roundUp (s.team c.team).scratchLen 32 →
        (T.swizzle ≠ 0 → c.b % 1024 = 0 ∧ size * pts.length % 128 = 0) →
        (∀ p ∈ places, p.1 < 2 ^ 56 ∧ s.reaches c.ctx stack p.1 T.size (if store then .write else .read) ∧
          ∀ u ∈ unitsOf p.1 T.size, pteFormat (s.leafAt c.ctx stack u).2 = T.stored) →
        (T.stored ≠ 0 → ∀ p ∈ places, recBad (recOf p) = false) → u.upToDate →
        (store = false → ∃ t, exec (.copyComplete id) s = .next t ∧ done t ∧ SameMemory s t ∧
          let bytes (b : List Nat) : List Byte := match (T.posOf c.c b).map T.placeOf with
            | none => leBytes size T.fill
            | some p =>
              if T.stored = 0 then u.bytesAt c.ctx stack p.1 size
              else leBytes 4 (dequantise (recOf p) (codeOf T.stored (u.byteVia c.ctx stack p.1) p.2))
          ∀ k, Tbl.get 0 t.sram k = lastWrite (Tbl.get 0 s.sram)
            (pts.flatMap fun b => (List.range (bytes b).length).map fun i => (slot b + i, (bytes b).getD i 0)) k) ∧
        (store = true → T.stored = 0 → ∃ t, exec (.copyComplete id) s = .next t ∧ done t ∧ t.sram = s.sram ∧
          WrittenTo s t (pts.flatMap fun b => match (T.posOf c.c b).map T.placeOf with
            | none => []
            | some p => s.writesAt c.ctx stack p.1 (readBytes s.sram (slot b) size)))))

/-- R317, R323, R332, R432, R433: a collective of one rank copies its elements from send to recv; one of several sends
its contribution to each other rank, and with every contribution here writes the result of its operation; done
receives 1. Ended early it writes 2, or 3 where its domain is lost, and recv holds some bytes, as it does where recv
overlaps send in a way that is not allowed; no other byte changes. The model's choice: the two steps of a collective
and its message numbers are the model's (log 1, log 15), and the free bytes of recv are charged to nobody (log 12). -/
def Obligations.CollectivesComplete : Prop :=
  ∀ (s : State) (id : Nat) (c : CollOp), s.colls.find? id = some c → c.fault = none →
    s.reaches c.ctx (stackOfCore c.core) c.doneW 8 .write →
    (∀ m d, s.domOf c.ctx = some (m, d) → d.inbox = [] ∧ d.rekeyPending = false) →
    let lives : Prop := (s.kern c.kid).abort = none
    let stack := stackOfCore c.core
    let size := tyBytes c.ty
    let self := s.selfRank c.ctx
    let done (v : Nat) : List (Nat × Nat × Byte) := s.writesAt c.ctx stack c.doneW (leBytes 8 v)
    let frame (t : State) : Prop := SameRegisters s t ∧ t.sram = s.sram ∧ t.tile = s.tile
    let ended (t : State) (v : Nat) : Prop := ∃ bs : List Byte, bs.length = c.recvLen ∧
      WrittenTo s t (s.writesAt c.ctx stack c.recv bs ++ done v)
    (lives → c.sent = false → c.bad = false → s.collTagBusy id c = false → c.members = [self] → c.op ≤ 3 →
      (c.op = 3 → c.root = self) → s.reaches c.ctx stack c.send (size * c.count) .read →
      s.reaches c.ctx stack c.recv (size * c.count) .write →
      ∃ t, exec (.collectiveComplete id) s = .next t ∧ frame t ∧ t.colls.find? id = none ∧
        ∃ bs : List Byte, bs.length = size * c.count ∧
          (c.clashes = false → ∀ i < size * c.count, s.gives c.ctx stack (c.send + i) (bs.getD i 0)) ∧
          WrittenTo s t (s.writesAt c.ctx stack c.recv bs ++ done 1)) ∧
    (∀ m d r, lives → c.sent = false → c.bad = false → s.collTagBusy id c = false → s.domOf c.ctx = some (m, d) →
      s.doms.find? m = some d → d.rank ∈ c.members → r ∈ c.members → r ≠ d.rank → r < 64 → c.inputs = [] →
      let k := if c.op = 3 then (if d.rank = c.root then c.count else 0)
        else if c.op = 1 then c.members.length * c.count else c.count
      s.reaches c.ctx stack c.send (size * k) .read →
      ∃ t, ∃ bs : List Byte, exec (.collectiveComplete id) s = .next t ∧ frame t ∧ SameMemory s t ∧ bs.length = size * k ∧
        (∀ i < size * k, s.gives c.ctx stack (c.send + i) (bs.getD i 0)) ∧
        let vals := elemsOf size bs k
        t.colls.find? id = some { c with sent := true, vals := vals } ∧
        SentTo t m r 2 ([c.ctag, c.op, c.redop, c.ty.code.toNat, c.count, c.ranks, c.root] ++ vals)) ∧
    (lives → c.sent = true → c.bad = false → s.collTagBusy id c = false → self ∈ c.members →
      (∀ r ∈ c.members, r = self ∨ c.inputs.has r = true) →
      let out := (collResult c (c.members.idxOf self)
        (c.members.map fun r => if r = self then c.vals else c.inputs.get [] r)).1
      s.reaches c.ctx stack c.recv (out.flatMap (leBytes size)).length .write →
      ∃ t, exec (.collectiveComplete id) s = .next t ∧ frame t ∧ t.colls.find? id = none ∧
        ∃ bs : List Byte, bs.length = (out.flatMap (leBytes size)).length ∧
          (c.clashes = false → bs = out.flatMap (leBytes size)) ∧
          WrittenTo s t (s.writesAt c.ctx stack c.recv bs ++ done 1)) ∧
    (s.reaches c.ctx stack c.recv c.recvLen .write → (∀ k, s.kernels.find? c.kid = some k → k.st.abortable = false) →
      ∃ t, exec (.collectiveAbort id .aborted) s = .next t ∧ frame t ∧ t.colls.find? id = none ∧ ended t 2 ∧
        ∀ m d r, s.domOf c.ctx = some (m, d) → s.doms.find? m = some d → r ∈ c.members → r ≠ d.rank → r < 64 →
          SentTo t m r 3 [c.ctag]) ∧
    (s.reaches c.ctx stack c.recv c.recvLen .write → c.bad = true →
      ∃ t, exec (.collectiveAbort id .disagreed) s = .next t ∧ frame t ∧ t.colls.find? id = none ∧ ended t 2) ∧
    (s.reaches c.ctx stack c.recv c.recvLen .write → (s.domOf c.ctx = none ∨ ∃ m d, s.domOf c.ctx = some (m, d) ∧ d.st = .broken) → c.ranks ≠ 2 ^ self →
      ∃ t, exec (.collectiveAbort id .domainLost) s = .next t ∧ frame t ∧ t.colls.find? id = none ∧ ended t 3)

/-! ## Queue commands -/

/-- R356, R359, R360: no command acts while its queue may not start it; a doorbell of a function that reaches the queue
takes the new producer index unless it overruns the ring, one that does not is refused and counted; a malformed command
is taken with status 2, a RESOLVE or ABORT that is not allowed with status 3. -/
def Obligations.QueueStarts : Prop :=
  (∀ (s : State) (c : Cmd), s.canStart c = false →
    ∀ i ∈ [Instr.launch c, .reply c, .wait c, .signal c, .invalidate c, .migrate c, .resolve c, .abort c],
      exec i s = .next s) ∧
  (∀ (s : State) (fn q : Nat) (producer : W32),
    let x := s.queue q
    let reach : Prop := s.reachQ fn q = true ∧
      (s.fnLive fn = true ∨ (s.vf fn).st = .suspended ∨ (s.vf fn).st = .suspending)
    let fits : Prop := x.entries ≠ 0 ∧ (producer.toNat + 2 ^ 32 - x.cons) % 2 ^ 32 ≤ x.entries
    (s.ready = false → exec (.doorbell fn q producer) s = .next s) ∧
    (s.ready = true → ¬ reach → exec (.doorbell fn q producer) s = .next (s.countErr (s.partOfFn fn) 0)) ∧
    (s.ready = true → reach → ¬ fits → exec (.doorbell fn q producer) s = .next (s.countErr (s.partOfQ q) 1)) ∧
    (s.ready = true → reach → fits → ∃ t, exec (.doorbell fn q producer) s = .next t ∧
      QueueNow s t q (fun x => { x with prod := producer.toNat, fault := 0 }) ∧ t = { s with queues := t.queues })) ∧
  (∀ (s : State) (c : Cmd), s.canStart c = true → c.clean = false →
    ∀ i ∈ [Instr.reply c, .wait c, .signal c, .resolve c, .abort c],
      ∃ t, exec i s = .next t ∧ Answered s t c 2) ∧
  (∀ (s : State) (c : Cmd), s.canStart c = true → c.clean = true → c.rest = true → c.done % 8 = 0 → c.o20 = 0 →
    c.ctx < 4096 → s.notAllowed c = true →
    (c.o10 < 2 ^ 57 → c.o10 % 4096 = 0 → 1 ≤ c.o18 → c.o18 ≤ 2 ^ 45 →
      ∃ t, exec (.resolve c) s = .next t ∧ Answered s t c 3) ∧
    (c.o10 < 2 ^ 57 → c.o10 % 8 = 0 → c.o18 = 6 ∨ c.o18 = 13 →
      ∃ t, exec (.abort c) s = .next t ∧ Answered s t c 3))

/-- R335, R336, R348, R349, R351 to R353, R359, R360: LAUNCH accepts the kernel of a legal record into QUEUED, refuses it
with its detail in the done word after its join step, charging nobody, or waits with cause 7 where it cannot read the record;
a kernel with nothing left completes, then, its accesses performed, performs its join step and writes done;
an aborted one, its stores performed and its collectives ended, gives up its teams, writes its report, its join step
and its done word, and those of the ABORT commands that name it; one past its deadline is aborted. The model's choice: the
last write and the change of state are two steps (log 15). -/
def Obligations.KernelLife : Prop :=
  (∀ (s : State) (c : Cmd), s.canStart c = true → c.o10 % 64 = 0 → c.o10 < 2 ^ 57 →
    let x := s.queue c.q
    (s.headPas x.ctx c.o10 128 = none → ∃ t, exec (.launch c) s = .next t ∧
      QueueNow s t c.q (fun x => { x with fault := 7 }) ∧ Untouched s t ∧ t.kernels = s.kernels) ∧
    (∀ pas, s.headPas x.ctx c.o10 128 = some pas →
      let bs := s.headGot pas
      let k : Kernel := { ctx := x.ctx, queue := c.q, rec_ := launchOf bs, accepted := s.headClock }
      let clean := c.clean && c.ctx == 0 && c.done == 0 && c.o18 == 0 && c.o20 == 0 && c.rest && launchClean bs
      (s.refusal k clean = 0 → ∃ t, exec (.launch c) s = .next t ∧ t.kernels = s.kernels.put s.next k ∧
        QueueNow s t c.q (fun x => { x with
          head := some s.next, running := x.running ++ [.launch s.next], pend := false }) ∧
        Untouched s t ∧ t.next = s.next + 1) ∧
      (s.refusal k clean ≠ 0 → s.abortsOf s.next = [] → Running.launch s.next ∉ x.running →
        ∃ u t, exec (.launch c) s = .next t ∧ (t.kern s.next).st = .done ∧ JoinStepped s.headAcquire u k ∧
        HeadWrote u t x.ctx k.rec_.done 8 (2 + 256 * s.refusal k clean) ∧
        QueueNow s t c.q Queue.taken ∧ t.groups = s.groups ∧
        ((∀ e ∈ s.l2, e.2.dirty = none) → t.ctxs = s.ctxs)))) ∧
  (∀ (s : State) (kid : Nat) (k : Kernel), s.kernels.find? kid = some k → k.st = .running →
    (((∀ x ∈ s.teams, x.2.kid ≠ kid) ∧ k.pool = [] ∧ k.outside = [] ∧ k.joins = []) →
      exec (.kernelComplete kid) s = .next (s.setKern kid { k with st := .completing })) ∧
    (((∃ x ∈ s.teams, x.2.kid = kid) ∨ k.pool ≠ [] ∨ k.outside ≠ [] ∨ k.joins ≠ []) →
      exec (.kernelComplete kid) s = .next s)) ∧
  (∀ (s : State) (kid : Nat) (k : Kernel), (s.queues.map Prod.fst).Pairwise (· < ·) → s.kernels.find? kid = some k →
    k.st = .completing → (∀ x ∈ s.acc, x.2.kid = kid → x.2.left = 0) →
    ∃ u t, exec (.kernelComplete kid) s = .next t ∧ HeadActed s u ∧ JoinStepped s u k ∧ KernelEnded s u t kid k 1) ∧
  (∀ (s : State) (kid : Nat) (k : Kernel) (a : AbortInfo), (s.queues.map Prod.fst).Pairwise (· < ·) →
    s.kernels.find? kid = some k → k.st = .aborting → k.abort = some a → (∀ x ∈ s.acc, x.2.kid = kid → x.2.left = 0) →
    (∀ x ∈ s.colls, x.2.kid ≠ kid) →
    (∀ x ∈ s.queues, ∀ r ∈ x.2.running, ∀ uid i n d, r = .reply uid i n d → (s.team uid).kid ≠ kid) →
    ∃ w u t, exec (.abortCleanup kid) s = .next t ∧
      (∀ pas, k.rec_.report ≠ 0 → s.headWord k.ctx k.rec_.report 64 = some pas →
        WrittenTo s w ((pas.zip (reportBytes a k.total)).map fun x => (x.1.1, x.1.2, x.2))) ∧
      (k.rec_.report = 0 ∨ s.headWord k.ctx k.rec_.report 64 = none → SameMemory s w) ∧
      ((∀ x ∈ s.teams, x.2.kid ≠ kid) → HeadActed s w) ∧
      HeadActed w u ∧ JoinStepped w u k ∧ KernelEnded s u t kid k (a.status + 256 * a.cause) ∧
      ∀ x ∈ t.teams, x.2.kid ≠ kid) ∧
  (∀ (s : State) (kid : Nat) (k : Kernel), s.kernels.find? kid = some k →
    let due : Prop := k.rec_.flags.testBit 3 = true ∧ k.rec_.deadline ≠ 0 ∧ k.accepted + k.rec_.deadline ≤ s.headClock
    (due → k.st.abortable = true → ∃ t, exec (.deadlineExpiry kid) s = .next t ∧ Aborted s t kid { status := 5 }) ∧
    (¬ due → exec (.deadlineExpiry kid) s = .next s))

/-- R160, R162, R356, R358, R359: REPLY gives its words to the requesting lanes that live and lets the slot run on, or with
a nonzero status aborts the kernel; one for an evicted team's group is held and not yet complete; one that answers nothing
has status 4; WAIT holds its queue until the word meets its condition; SIGNAL writes its word, then its done word; a WAIT is
read again 256 Harness head clocks after its last read, and is complete when its condition holds. The model's choice: the
head's own accesses are charged to nobody, and a WAIT whose word cannot be read waits on (log 15). -/
def Obligations.ServiceCommands : Prop :=
  let holds (cond value w : Nat) : Prop := if cond = 0 then value ≤ w else w = value
  (∀ (s : State) (c : Cmd), s.canStart c = true → c.clean = true → c.rest = true → c.done % 8 = 0 →
     let x := s.queue c.q
     (c.o20 = 0 → c.o10 < 2 ^ 32 → c.o18 % 8 = 0 → c.o18 < 2 ^ 57 → c.ctx = 0 ∨ c.ctx = x.ctx →
       (s.replyFor x.ctx c.o10 = none ∨ ∃ uid gidx, s.replyFor x.ctx c.o10 = some (uid, gidx) ∧
         ∃ r ∈ s.replies, r.team = uid ∧ r.idx = gidx ∧ r.seq = c.o10) →
       ∃ t, exec (.reply c) s = .next t ∧ Answered s t c 4 ∧
         t.errs.get 0 (64 * s.partOfCtx x.ctx + 2) = satAdd 0xFFFFFFFF (s.errs.get 0 (64 * s.partOfCtx x.ctx + 2)) 1) ∧
     (∀ uid gidx pas, c.o20 = 0 → c.o10 < 2 ^ 32 → c.o18 % 8 = 0 → c.ctx = 0 ∨ c.ctx = x.ctx →
       s.replyFor x.ctx c.o10 = some (uid, gidx) →
       (∀ r ∈ s.replies, ¬ (r.team = uid ∧ r.idx = gidx ∧ r.seq = c.o10)) → s.headPas x.ctx c.o18 136 = some pas →
       let bs := s.headGot pas
       (s.findMember uid gidx = none → ∃ t, exec (.reply c) s = .next t ∧
         t.replies = s.replies ++ [{ q := c.q, team := uid, idx := gidx, seq := c.o10, bytes := bs }] ∧
         QueueNow s t c.q (fun x => { x.taken with running := x.running ++ [.reply uid gidx c.o10 c.done] }) ∧
         Untouched s t) ∧
       (∀ core slot g w, s.findMember uid gidx = some (core, slot) → s.group? core slot = some g → g.svc = some w →
         let team := s.team g.team
         let prot := (s.kern team.kid).rec_.flags.testBit 0
         let m := w.lanes &&& g.liveLanes
         (field bs 0 8 = 0 → (w.trap = false → m ≠ 0 → (g.v.put w.dst []).length ≤ (s.kern team.kid).rec_.regs) →
           ∃ t v', exec (.reply c) s = .next t ∧
             t.group? core slot = some { g.release (· == .reply) with svc := none, v := v' } ∧
             (w.trap = true → v' = g.v) ∧
             (w.trap = false → VecWrite w.dst false m (fun l => field bs (8 + 4 * (if prot then l / 2 else l)) 4) g.v v') ∧
             (∀ k, k ≠ gkey core slot → t.groups.find? k = s.groups.find? k) ∧
             QueueNow s t c.q Queue.taken ∧ HeadWrote s.headAcquire t x.ctx c.done 8 1) ∧
         (∀ k, field bs 0 8 ≠ 0 → s.kernels.find? team.kid = some k → k.st.abortable = true →
           ∃ u t, exec (.reply c) s = .next t ∧ Aborted s u team.kid
             { status := 8, core := core, slot := slot, pcSlot := if g.slot0.held = .reply then 0 else 1, team := team.idx
               pc := w.pc, value := field bs 0 4 } ∧
             HeadWrote u t x.ctx c.done 8 1 ∧ t.groups = u.groups ∧ t.kernels = u.kernels))) ∧
     (c.ctx = 0 → c.o10 % 8 = 0 → c.o10 < 2 ^ 57 → c.o20 ≤ 1 →
       let word (n : Nat) : Prop := ∃ pas, s.headPas x.ctx c.o10 8 = some pas ∧ n = leNat (s.headGot pas)
       (∀ n, word n → holds c.o20 c.o18 n → ∃ t, exec (.wait c) s = .next t ∧ QueueNow s t c.q Queue.taken ∧
         HeadWrote s.headAcquire t x.ctx c.done 8 1 ∧ t.groups = s.groups ∧ t.kernels = s.kernels) ∧
       ((∀ n, word n → ¬ holds c.o20 c.o18 n) → ∃ t, exec (.wait c) s = .next t ∧
         QueueNow s t c.q (fun x => { x.taken with
           running := x.running ++ [.wait c.o10 c.o18 c.o20 c.done s.headClock] }) ∧
         Untouched s t ∧ t.kernels = s.kernels)) ∧
     (c.ctx = 0 → c.o10 % 8 = 0 → c.o10 < 2 ^ 57 → c.o20 = 0 →
       ∃ u t, exec (.signal c) s = .next t ∧ HeadActed s u ∧ HeadWrote s u x.ctx c.o10 8 c.o18 ∧
         HeadWrote u t x.ctx c.done 8 1 ∧
         QueueNow s t c.q Queue.taken ∧ t.groups = s.groups ∧ t.kernels = s.kernels)) ∧
  (∀ (s : State) (q a v cond d p : Nat) (pre rest : List Running), (s.queue q).running = pre ++ .wait a v cond d p :: rest →
     (∀ r ∈ pre ++ rest, ∀ a v c d p, r ≠ .wait a v c d p) →
     (s.headClock < p + 256 → exec (.waitPoll q) s = .next s) ∧
     (p + 256 ≤ s.headClock →
       let word (n : Nat) : Prop := ∃ pas, s.headPas (s.queue q).ctx a 8 = some pas ∧ n = leNat (s.headGot pas)
       (∀ n, word n → holds cond v n → ∃ t, exec (.waitPoll q) s = .next t ∧
         QueueNow s t q (fun x => { x with running := pre ++ rest }) ∧
         HeadWrote s.headAcquire t (s.queue q).ctx d 8 1 ∧ t.groups = s.groups) ∧
       ((∀ n, word n → ¬ holds cond v n) → ∃ t, exec (.waitPoll q) s = .next t ∧
         QueueNow s t q (fun x => { x with running := pre ++ rest ++ [.wait a v cond d s.headClock] }) ∧ Untouched s t)))

/-- R217 to R219, R221, R362, R369: RESOLVE lets every access of the context whose fault lies in the range go on;
ABORT aborts the kernel that its done word names, unless it completes; INVALIDATE drops the range's translations and
L1 lines, and its end, once the matrix operations that use the range have ended, its L2 lines; MIGRATE copies its
pages under their key, or what precedes a sector that fails its check; Q_STATUS.urgent shows whether slack lies below
the threshold. The model's choice: a migration that ends at a bad sector has copied what precedes it (log 18). -/
def Obligations.PrivilegedCommands : Prop :=
  (∀ (s : State) (c : Cmd), s.canStart c = true → c.clean = true → c.rest = true → c.done % 8 = 0 → c.o20 = 0 →
    c.ctx < 4096 → c.o10 < 2 ^ 57 → s.notAllowed c = false →
    let hit (ctx : Nat) (f : Option PageFault) : Prop :=
      ctx = c.ctx ∧ ∃ x, f = some x ∧ c.o10 ≤ x.va ∧ x.va < c.o10 + 4096 * c.o18
    (c.o10 % 4096 = 0 → 1 ≤ c.o18 → c.o18 ≤ 2 ^ 45 → (s.ctx c.ctx).st ≠ .teardown → (s.ctx c.ctx).st ≠ .dead →
      ∃ t, exec (.resolve c) s = .next t ∧
        (∀ x, x ∈ t.acc ↔ (x ∈ s.acc ∧ ¬ hit x.2.ctx x.2.fault) ∨
          ∃ a, (x.1, a) ∈ s.acc ∧ hit a.ctx a.fault ∧ a.op ≠ .fetch ∧ x.2 = { s.sentAgain a with fault := none }) ∧
        (∀ e ∈ s.acc, hit e.2.ctx e.2.fault → e.2.op = .fetch → ∀ g, t.group? e.2.core e.2.slot = some g →
          g.holds (· == .fetch e.1) = false) ∧
        (∀ x, x ∈ t.copies ↔ (x ∈ s.copies ∧ ¬ hit x.2.ctx x.2.fault) ∨
          ∃ a, (x.1, a) ∈ s.copies ∧ hit a.ctx a.fault ∧ x.2 = { a with fault := none }) ∧
        (∀ x, x ∈ t.mats ↔ (x ∈ s.mats ∧ ¬ hit x.2.ctx x.2.fault) ∨
          ∃ a, (x.1, a) ∈ s.mats ∧ hit a.ctx a.fault ∧ x.2 = { a with fault := none }) ∧
        SameRegisters s t ∧ QueueNow s t c.q Queue.taken ∧ HeadWrote s t (s.queue c.q).ctx c.done 8 1) ∧
    (∀ kid k, c.o10 % 8 = 0 → c.o18 = 6 ∨ c.o18 = 13 →
      List.find? (fun e => e.2.ctx == c.ctx && e.2.rec_.done == c.o10 && e.2.st != .done) s.kernels = some (kid, k) →
      s.kernels.find? kid = some k → k.st.abortable = true →
      ∃ t, exec (.abort c) s = .next t ∧ Aborted s t kid { status := c.o18 } ∧
        QueueNow s t c.q (fun x => { x.taken with running := x.running ++ [.abort kid c.done] })) ∧
    (c.o10 % 8 = 0 → c.o18 = 6 ∨ c.o18 = 13 →
      List.find? (fun e => e.2.ctx == c.ctx && e.2.rec_.done == c.o10 && e.2.st != .done) s.kernels = none →
      ∃ t, exec (.abort c) s = .next t ∧ Answered s t c 4) ∧
    (∀ kid k, c.o10 % 8 = 0 → c.o18 = 6 ∨ c.o18 = 13 →
      List.find? (fun e => e.2.ctx == c.ctx && e.2.rec_.done == c.o10 && e.2.st != .done) s.kernels = some (kid, k) →
      s.kernels.find? kid = some k → k.st = .completing →
      ∃ t, exec (.abort c) s = .next t ∧ Answered s t c 4)) ∧
  (∀ (s : State) (c : Cmd) (pas : List (Nat × Nat)), s.canStart c = true → c.clean = true → c.rest = true → c.done = 0 →
    c.ctx < 4096 → c.o18 = 0 → c.o20 = 0 → s.notAllowed c = false → s.headPas (s.queue c.q).ctx c.o10 32 = some pas →
    let bs := s.headGot pas
    (let start := field bs 0 8
     let pages := field bs 8 8
     let ctx := field bs 0x10 2
     let lo := if pages = 0 then 0 else start
     let hi := if pages = 0 then 2 ^ 57 else start + 4096 * pages
     start % 4096 = 0 → start + 4096 * pages ≤ 2 ^ 57 → field bs 0x12 1 ≤ 1 → field bs 0x13 1 ≤ 1 → field bs 0x14 4 = 0 →
      ctx < 4096 → s.partOfCtx ctx = s.partOfQ c.q →
      ∃ t v, exec (.invalidate c) s = .next t ∧
        (∀ x, x ∈ t.tlb ↔ x ∈ s.tlb ∧ ¬ (x.ctx = ctx ∧ (field bs 0x12 1 = 1 ∨ pteLeaf x.pte = true) ∧
          x.vnum * pageSize x.level < hi ∧ lo < (x.vnum + 1) * pageSize x.level)) ∧
        (∀ x, x ∈ t.l1 ↔ x ∈ s.l1 ∧ ¬ (x.ctx = ctx ∧ lo ≤ x.vline * 128 ∧ x.vline * 128 < hi)) ∧
        t.invals.find? s.next = some v ∧ v.q = c.q ∧ v.phys = false ∧
        (∀ m ∈ s.mats, m.2.fetched = true → m.2.ctx = ctx → (∃ u ∈ m.2.pages, lo ≤ u.1 * 4096 ∧ u.1 * 4096 < hi) → m.1 ∈ v.mats) ∧ v.wb = (field bs 0x13 1).testBit 0 ∧
        v.doneW = field bs 0x18 8 ∧
        QueueNow s t c.q (fun x => { x.taken with running := x.running ++ [.inval s.next] }) ∧ Untouched s t) ∧
    (let src := field bs 0 8
     let dst := field bs 8 8
     let pages := field bs 0x10 4
     let n := 4096 * pages
     let ctx := field bs 0x14 2
     src % 4096 = 0 → dst % 4096 = 0 → 1 ≤ pages → pages ≤ 2 ^ 18 → field bs 0x17 1 = 0 →
      (∀ a, a = src ∨ a = dst → (tierOfPa a).isSome = true ∧ tierOfPa a = tierOfPa (a + n - 1)) →
      (dst + n ≤ src ∨ src + n ≤ dst) → ctx < 4096 → s.partOfCtx ctx = s.partOfQ c.q →
      ∃ t, exec (.migrate c) s = .next t ∧ t.migrs.find? s.next = some
          { q := c.q, src := src, dst := dst, pages := pages, ctx := ctx, key := field bs 0x16 1, doneW := field bs 0x18 8 } ∧
        QueueNow s t c.q (fun x => { x.taken with running := x.running ++ [.migr s.next] }) ∧ Untouched s t)) ∧
  (∀ (s : State) (id : Nat) (v : Inval), s.invals.find? id = some v → v.doneW % 8 = 0 → (tierOfPa v.doneW).isSome = true →
    ((∃ m ∈ v.mats, ∃ x, s.mats.find? m = some x ∧ x.fetched = true) → exec (.invalidationDone id) s = .next s) ∧
    ((∀ m ∈ v.mats, ∀ x, s.mats.find? m = some x → x.fetched = false) → ∃ t, exec (.invalidationDone id) s = .next t ∧
      t.invals.find? id = none ∧ (v.wb = true → ∀ l ∈ v.lines, t.l2.find? l = none) ∧
      WrittenTo s t (keyed 0 v.doneW (leBytes 8 1)) ∧ t.groups = s.groups ∧
      QueueNow s t v.q (fun x => { x with running := x.running.filter (· != .inval id) }))) ∧
  (∀ (s : State) (id : Nat) (m : Migr), s.migrs.find? id = some m → m.doneW % 8 = 0 → (tierOfPa m.doneW).isSome = true →
    m.src % 32 = 0 →
    let k := s.keyNo m.key
    let copied (n v : Nat) : List (Nat × Nat × Byte) :=
      ((List.range n).map fun i => (k, m.dst + i, s.headAcquire.keyByte k (m.src + i))) ++ keyed 0 m.doneW (leBytes 8 v)
    let bad : Option Nat := s.poison.find? fun p => m.src / 32 ≤ p && p < (m.src + 4096 * m.pages) / 32
    (m.key = 0 ∨ bad = none → ∃ t, exec (.migrationDone id) s = .next t ∧ t.migrs.find? id = none ∧
      WrittenTo s t (copied (4096 * m.pages) 1) ∧
      t.groups = s.groups ∧ QueueNow s t m.q (fun x => { x with running := x.running.filter (· != .migr id) })) ∧
    (∀ p, m.key ≠ 0 → bad = some p → ∃ t, exec (.migrationDone id) s = .next t ∧ t.migrs.find? id = none ∧
      WrittenTo s t (copied (p * 32 - m.src) 3) ∧
      ((s.ctx m.ctx).world = 0 → (s.ctx m.ctx).st = .active → (t.ctx m.ctx).st = .faulted))) ∧
  (∀ (s : State) (q : Nat), exec (.queueUrgent q) s = .next (s.setQueue q { s.queue q with urgent := s.slackLow q }))

/-! ## Placement, images, energy -/

/-- R26, R27, R319, R338, R339, R342, R349, R360, R367, R368: a selection hands the set of the queue selected to the next die
with a place for it, with its provisional charge; the first set of its kernel is placed as fresh teams whose groups start at
their record's code with every lane live, its records then leave the pool, and a kernel wholly placed is RUNNING with its
LAUNCH taken; an empty stack takes its pool's class. The model's
choice: the slot of a group is any free one (log 4), and the first rotation starts as log 5 says, and a placement on a
stack in retention waits (log 15). -/
def Obligations.SelectionAndPlacement : Prop :=
  (∀ (s : State) (die dest p q : Nat) (pl : Plan) (b : List Nat × List Nat),
    (∀ x ∈ s.sets, x.die ≠ die) → p < 64 → (∃ i < 16, (s.part p).ownsStack (16 * die + i) = true) →
    s.competing p = [(q, pl)] →
    (∀ r < 64, r ≠ p → (∀ i < 16, (s.part r).ownsStack (16 * die + i) = false) ∨ s.competing r = []) →
    s.nextDie (s.planPlaces pl) = some dest → s.bestPlace dest (s.planPlaces pl) = some b →
    let x := s.queue q
    let k := s.kern pl.kid
    x.band < 4 → s.urgentNow q = false → 0 < x.deficit →
    let recs := if s.planKind pl = .plain then pl.recs.take (s.tiersIn (b.1.getD 0 0)).length else pl.recs
    let spawned : Bool := recs.any fun r => r.spawned
    ∃ t, exec (.queueSelection die) s = .next t ∧
      t.sets = s.sets ++ [{ q := q, kid := pl.kid, die := dest, prov := x.quantum / 16, recs := recs, restore := pl.restore }] ∧
      (t.queue q).deficit = max (-(2 ^ 63)) (x.deficit - ((recs.length + pl.restore.length) * (x.quantum / 16) : Nat)) ∧
      t.lastDie = dest ∧ t.rot.get 1024 (4 * p + x.band) = q + 1 ∧
      t.kern pl.kid = { k with
        nextTeam := if spawned then k.nextTeam else k.nextTeam + recs.length
        st := if k.st = .queued ∧ recs ≠ [] then .dispatching else k.st
        noted := k.noted || k.rec_.flags.testBit 2 } ∧ Untouched s t) ∧
  (∀ (s : State) (die : Nat), (∃ x ∈ s.sets, x.die = die) → exec (.queueSelection die) s = .next s) ∧
  (∀ (s : State) (die : Nat) (x : PlaceSet) (b : List Nat × List Nat), s.headSet die = some x → x.recs ≠ [] →
    s.firstOf x.kid = some x →
    let pl : Plan := { kid := x.kid, recs := x.recs, restore := [] }
    let k := s.kern x.kid
    let grid := (x.recs.filter fun r => !r.spawned).length
    s.bestPlace die (s.places k (s.planKind pl) true (s.planNeed pl)) = some b → b.2.length = x.recs.length →
    s.kernels.find? x.kid = some k → (∀ c ∈ b.2, (s.stackSt (stackOfCore c)).retention = false) →
    ∃ t, exec (.setPlacement die) s = .next t ∧ t.sets = s.sets.erase x ∧ SameMemory s t ∧
      (∀ j g, s.groups.find? j = some g → t.groups.find? j = some g) ∧
      (∀ (j : Nat) (r : Rec) (core : Nat), x.recs[j]? = some r → b.2[j]? = some core → ∃ uid u, t.teams.find? uid = some u ∧
        u.kid = x.kid ∧ u.ctx = k.ctx ∧ u.idx = r.idx ∧ u.core = core ∧ u.frame = r.frame ∧ u.join = r.join ∧
        u.live = List.range k.rec_.team ∧ u.slots.length = k.rec_.team ∧ u.scratchLen = k.rec_.scratch ∧
        ∀ (g slot : Nat), u.slots[g]? = some slot → slot / 256 = g % 4 ∧ ∃ grp, t.group? core slot = some grp ∧ grp.team = uid ∧
          grp.idx = g ∧ grp.slot0.pc = r.code ∧ grp.slot0.mask = BitVec.allOnes 32 ∧ grp.slot1 = {} ∧ grp.v = [] ∧
          grp.sreg = [] ∧ grp.preds = [] ∧ grp.depth = 0 ∧
          grp.srseed = srSeedFor k.rec_.srSeed (r.idx * k.rec_.team + g)) ∧
      t.kern x.kid = { k with
        placed := k.placed + grid
        pool := k.pool.filter fun r => !x.recs.contains r
        st := if k.st = .dispatching ∧ k.placed + grid = k.rec_.gridTeams then .running else k.st } ∧
      (k.st = .dispatching → k.placed + grid = k.rec_.gridTeams → (s.queue x.q).head = some x.kid →
        QueueNow s t x.q fun y => { y with head := none, cons := (y.cons + 1) % 2 ^ 32 })) ∧
  (∀ (s : State) (stk : Nat), let st := s.stackSt stk
    (st.pool ≠ st.cls → s.stackEmpty stk = true → s.leasing stk = false → st.retention = false →
      (s.ownerOf 0 stk).isSome = true → exec (.classChange stk) s = .next (s.setStack stk { st with cls := st.pool })) ∧
    ((st.pool = st.cls ∨ s.stackEmpty stk = false ∨ s.leasing stk = true ∨ st.retention = true ∨ s.ownerOf 0 stk = none) →
      exec (.classChange stk) s = .next s))

/-- R82, R381 to R385, R388: a team to be evicted first stops issuing; settled, it is saved into its context's save
area whole and its slots are empty; without room it stays. A team with a good image is restored whole, its registers,
scratchpad and tiles as they were, under fresh tags; a bad image faults its context. The model's choice: the bytes of
an image's body are those of log 10, its seal is as log 11 says, and a restore on a stack in retention waits (log 15).
-/
def Obligations.TeamMoves : Prop :=
  (∀ (s : State) (uid : Nat) (u : Team), s.teams.find? uid = some u → u.image = none → u.live ≠ [] →
    s.evictAsked u = true →
    (u.evict = false → ∃ t, exec (.teamEviction uid) s = .next t ∧ (t.team uid).evict = true ∧
      (∀ v ∈ (s.clusterOf uid).map Prod.fst, (t.team v).evict = true) ∧ t = { s with teams := t.teams }) ∧
    (∀ n, u.evict = true → s.evictSizes uid = [(uid, n)] → s.settled uid = true → s.saveRange u.ctx n [] = none →
      exec (.teamEviction uid) s = .next (s.setTeam uid { u with evict := false })) ∧
    (∀ n a, u.evict = true → s.evictSizes uid = [(uid, n)] → s.settled uid = true → s.saveRange u.ctx n [] = some a →
      ∃ t im, exec (.teamEviction uid) s = .next t ∧ (t.team uid).image = some im ∧ (t.team uid).slots = [] ∧
        im.addr = a ∧ im.len = n ∧ im.counter = (s.ctx u.ctx).saves + 1 ∧ (t.ctx u.ctx).saves = (s.ctx u.ctx).saves + 1 ∧
        (∀ slot ∈ u.slots, t.group? u.core slot = none) ∧
        (∀ k, (∀ slot ∈ u.slots, k ≠ gkey u.core slot) → t.groups.find? k = s.groups.find? k) ∧
        (∀ e ∈ s.groups, e.2.team = uid → ∃ g, (e.2.idx, g) ∈ im.groups ∧ g.v = e.2.v ∧ g.sreg = e.2.sreg ∧
          g.preds = e.2.preds ∧ g.slot0.mask = e.2.slot0.mask ∧ g.slot1.mask = e.2.slot1.mask ∧ g.dead = e.2.dead ∧
          g.fflags = e.2.fflags ∧ g.srseed = e.2.srseed ∧ g.depth = e.2.depth) ∧
        (∃ bs : List Byte, bs.length = n ∧ bs.take 8 = leBytes 8 im.counter ∧ WrittenTo s t (keyed 0 a bs)) ∧
        t.sram = s.sram ∧ t.tile = s.tile)) ∧
  (∀ (s : State) (uid core : Nat) (x : PlaceSet) (b : List Nat) (u : Team) (im : Image),
    s.sets.find? (fun x => x.restore.contains uid) = some x → s.headSet x.die = some x → x.restore = [uid] →
    let pl : Plan := { kid := x.kid, recs := [], restore := [uid] }
    let k := s.kern x.kid
    s.bestPlace x.die (s.places k (s.planKind pl) true (s.planNeed pl)) = some (b, [core]) →
    s.teams.find? uid = some u → u.image = some im → im.mats = [] → im.copies = [] →
    (∀ r ∈ s.replies, r.team ≠ uid) → uid ∉ s.dbarHeld →
    ((s.stackSt (stackOfCore core)).retention = true → exec (.teamRestore uid) s = .next s) ∧
    ((s.stackSt (stackOfCore core)).retention = false →
    (s.imageGood u im = true → ∃ t v, exec (.teamRestore uid) s = .next t ∧ t.teams.find? uid = some v ∧ v.image = none ∧
      v.core = core ∧ v.live = u.live ∧ v.slots.length = im.groups.length ∧
      (∀ (j : Nat) (g : Nat × Group) (slot : Nat), im.groups[j]? = some g → v.slots[j]? = some slot → ∃ tag,
        t.group? core slot = some { g.2 with tag := tag }) ∧
      (∀ j g, s.groups.find? j = some g → t.groups.find? j = some g) ∧
      (∀ i < roundUp u.scratchLen 32, Tbl.get 0 t.sram (sramKey core (v.scratchAt + i)) =
        lastWrite (fun _ => 0) im.scratch i) ∧
      (∀ i < 2 ^ 14 * u.tiles, Tbl.get 0 t.tile (tileKey core v.tileAt i) = lastWrite (fun _ => 0) im.tiles i) ∧
      t.sets = s.sets.erase x ∧ SameMemory s t) ∧
    (s.imageGood u im = false → (s.ctx k.ctx).st = .evicted ∨ (s.ctx k.ctx).st = .active →
      ∃ t, exec (.teamRestore uid) s = .next t ∧ (t.ctx k.ctx).st = .faulted ∧ SameMemory s t ∧ t.sram = s.sram)))

/-- R378, R379, R347: a footprint sample adds what each context holds on the stack; a reconciliation window bills what
the sensor counted beyond the charges and clears its counts; a refill tick raises each level to its cap at most; a
core with little allowance takes a grant from a positive level, or its context is parked; a paced die waits with both
(R30), and the contexts of a partition that is paced go without both (R445). The model's choice: what the sensors
report is free (log 8), and weights but those of class 2 are free (log 7); what paces a die or a partition is free,
and a paced refill comes later (log 17). -/
def Obligations.EnergyEvents : Prop :=
  (∀ (s : State) (stk : Nat), let st := s.stackSt stk
    (st.clock / 1024 ≤ st.sampled → exec (.footprintSample stk) s = .next s) ∧
    (st.sampled < st.clock / 1024 → ∃ t, exec (.footprintSample stk) s = .next t ∧
      (t.stackSt stk).sampled = st.sampled + 1 ∧
      (∀ c, (t.stackSt stk).samples.get 0 c = st.samples.get 0 c + s.bytesHeld stk (fun u => u.ctx) c) ∧
      (∀ c, (t.stackSt stk).kernB.get 0 c = st.kernB.get 0 c + s.bytesHeld stk (fun u => u.kid) c) ∧
      t = { s with stks := t.stks } ∧ ∀ k, k ≠ stk → t.stackSt k = s.stackSt k)) ∧
  (∀ (s : State) (stk : Nat), let st := s.stackSt stk
    (st.clock / 2 ^ 16 ≤ st.reconciled → exec (.reconciliationWindow stk) s = .next s) ∧
    (∀ c n, st.reconciled < st.clock / 2 ^ 16 → st.charges = [(c, n)] → 0 < n → st.samples = [] →
      (∀ e ∈ s.kernels, e.2.rec_.limit = 0) → ∃ t m, exec (.reconciliationWindow stk) s = .next t ∧ m < 2 ^ 63 ∧
        let rem : Int := (m : Int) - n - st.fillerE
        let x := s.ctx c
        t.ctx c = Ctx.unparked { x with
          correction := sxt 96 (wrapN 96 (x.correction + rem)), filler := (x.filler + st.fillerE) % 2 ^ 96
          level := if x.unmetered then x.level else clampLevel (x.level - (rem + st.fillerE)) } ∧
        (∀ d, d ≠ c → t.ctx d = s.ctx d) ∧
        t.stackSt stk = { st with reconciled := st.reconciled + 1, charges := [], samples := [], kernC := [], kernB := []
                                  fillerE := 0 } ∧ Untouched s t)) ∧
  (∀ (s : State) (die : Nat), let d := s.dieSt die
    (d.ref / 1024 ≤ d.refills ∨ d.paced = true → exec (.refillTick die) s = .next s) ∧
    (d.refills < d.ref / 1024 → d.paced = false → (s.ctxs.map Prod.fst).Nodup → (∀ e ∈ s.teams, e.2.image = none) →
      ∃ t, exec (.refillTick die) s = .next t ∧ (t.dieSt die).refills = d.refills + 1 ∧
        (∀ c x, s.ctxs.find? c = some x →
          let full : Int := (x.cap : Int) * 2 ^ 30
          let y : Ctx := { x with level := if x.unmetered then full else min (x.level + (x.rate : Int) * 2 ^ 20) full }
          t.ctx c = if s.tickDie (s.partOfCtx c) = die then (if s.heldBack die c = true then x else y).unparked else x) ∧
        t = { s with ctxs := t.ctxs, dies := t.dies })) ∧
  (∀ (s : State) (core c : Nat),
    let x := s.ctx c
    let have_ := s.allow.get 0 (4096 * core + c)
    let here : Prop := ∃ e ∈ s.groupsOn core, (s.team e.2.team).ctx = c
    let asks : Prop := x.unmetered = false ∧ here ∧ have_ < 2 ^ 31 ∧ x.st = .active ∧ s.heldBack (dieOfCore core) c = false
    (¬ asks → exec (.grantRequest core c) s = .next s) ∧
    (asks → 0 < x.level → let g := min (2 ^ 32) x.level.toNat
      exec (.grantRequest core c) s = .next (State.setCtx
        { s with allow := s.allow.set 0 (4096 * core + c) (have_ + g) } c { x with level := x.level - g })) ∧
    (asks → x.level ≤ 0 → exec (.grantRequest core c) s = .next (s.setCtx c { x with st := .parked })))

/-! ## Contexts, worlds, integrity -/

/-- R375, R388, R389, R390: what each command of a context does in each of its states; a refused window's commands
change nothing but a count; teardown disables the context's queues, aborts its kernels, drops its lines and
translations, frees its key and changes its dies to world 0, and ends DEAD with them; a failed sweep faults every
context of the world. The model's choice: the key slot taken is any free one (log 4); the outcome of a sweep is free
(log 11); steps 3 to 5 of a teardown are made when its kernels have ended (log 15). -/
def Obligations.ContextLife : Prop :=
  (∀ (s : State) (fn c : Nat), ∀ i ∈ [Instr.create fn c, .free fn c, .evict fn c, .resume fn c, .teardown fn c],
    (s.ready = false → exec i s = .next s) ∧
    (s.ready = true → s.fnLive fn = false ∨ s.reachC fn c = false → exec i s = .next (s.refuseWrite fn))) ∧
  (∀ (s : State) (fn c : Nat), s.takesFor fn c →
    let x := s.ctx c
    let result (r : Nat) : Host.Outcome State Fault Refusal := .next (s.setCtx c { x with result := r })
    let allowed := (s.part (s.partOfFn fn)).worlds.testBit x.world
    let usable (k : Nat) : Prop := 1 ≤ k ∧ k < 256 ∧ s.keys.has k = false
    (x.st ≠ .free → exec (.create fn c) s = result 2) ∧
    (x.st = .free → x.world ≠ 0 → allowed = false → exec (.create fn c) s = result 4) ∧
    (x.st = .free → x.world ≠ 0 → allowed = true → (∀ k, ¬ usable k) → exec (.create fn c) s = result 3) ∧
    (x.st = .free → x.world = 0 → exec (.create fn c) s = .next (s.setCtx c (x.created fn 0))) ∧
    (x.st = .free → x.world ≠ 0 → allowed = true → (∃ k, usable k) → ∃ k, usable k ∧ exec (.create fn c) s =
      .next (State.setCtx { s with keys := s.keys.put k x.world, keyIds := s.keyIds.put k (s.next + 2), next := s.next + 1
                                   free := s.free + 1 } c (x.created fn k))) ∧
    (x.st ≠ .dead → exec (.free fn c) s = result 2) ∧
    (x.st = .dead → exec (.free fn c) s = .next (s.setCtx c x.freed)) ∧
    (x.st ≠ .active → x.st ≠ .parked → exec (.evict fn c) s = result 2) ∧
    (x.st = .active ∨ x.st = .parked → ∃ t, exec (.evict fn c) s = .next t ∧
      t = { s with ctxs := t.ctxs, teams := t.teams } ∧ (∀ d, d ≠ c → t.ctx d = s.ctx d) ∧
      t.ctx c = { x with held := true, cmd := 4, cmdTeams := 0 } ∧
      ((s.teams.map Prod.fst).Nodup → ∀ u v, s.teams.find? u = some v → t.teams.find? u = some
        (if v.ctx = c ∧ v.image = none ∧ v.retired = false then { v with evict := true } else v))) ∧
    (x.st ≠ .evicted ∨ x.held = false → exec (.resume fn c) s = result 2) ∧
    (x.st = .evicted → x.held = true → exec (.resume fn c) s = .next (s.setCtx c { x with held := false, result := 1 })) ∧
    (x.st = .free ∨ x.st = .dead → exec (.teardown fn c) s = result 2) ∧
    (x.st = .teardown → exec (.teardown fn c) s = .next s) ∧
    (x.st ≠ .free → x.st ≠ .dead → x.st ≠ .teardown → ∃ t, exec (.teardown fn c) s = .next t ∧
      (t.ctx c).st = .teardown ∧
      (∀ q y, s.queues.find? q = some y → y.ctx = c → (t.queue q).enable = false ∧ (t.queue q).cons = y.prod ∧
        (t.queue q).head = none) ∧
      (∀ k y, s.kernels.find? k = some y → y.ctx = c → y.st.abortable = true → (t.kern k).st = .aborting ∧
        (t.kern k).abort.map (·.status) = some 0x0B) ∧
      (∀ m d, s.doms.find? m = some d → d.ctx = c → d.st ≠ .idle → (t.dom m).st = .idle ∧ (t.dom m).secret = false) ∧
      t.keys = s.keys ∧
      ((∀ e ∈ s.doms, e.2.ctx = c → e.2.st = .idle) → SameMemory s t))) ∧
  (∀ (s : State) (c : Nat),
    let x := s.ctx c
    let ended : Prop := x.st = .teardown ∧ ∀ e ∈ s.kernels, e.2.ctx = c → e.2.st = .done
    let scrubbing : Prop := ∃ d < 4, (s.dieSt d).scrubFor = some c
    let last : Prop := x.world ≠ 0 ∧
      (∀ e ∈ s.ctxs, e.1 ≠ c → e.2.world = x.world → e.2.st = .free ∨ e.2.st = .dead) ∧ ∃ d < 4, (s.dieSt d).latched = x.world
    (ended → x.stage = 0 → ∃ t, exec (.teardownComplete c) s = .next t ∧ SameMemory s t ∧ t.groups = s.groups ∧
      (∀ l ∈ t.l1, l.ctx ≠ c) ∧ (∀ l ∈ t.tlb, l.ctx ≠ c) ∧ (x.world ≠ 0 → t.keys.has x.keySlot = false) ∧
      (¬ last → (t.ctx c).st = .dead ∧ (t.ctx c).result = 1) ∧
      (last → (t.ctx c).st = .teardown ∧ (t.ctx c).stage = 1) ∧
      (last → ∀ d < 4, (s.dieSt d).latched = x.world → t.dieSt d =
        { s.dieSt d with target := 0, changing := true, scrubFor := some c, account := (t.dieSt d).account }) ∧
      ∀ d, ¬ (last ∧ d < 4 ∧ (s.dieSt d).latched = x.world) →
        t.dieSt d = { s.dieSt d with account := (t.dieSt d).account }) ∧
    (ended → x.stage ≠ 0 → scrubbing → exec (.teardownComplete c) s = .next s) ∧
    (ended → x.stage ≠ 0 → ¬ scrubbing → exec (.teardownComplete c) s = .next (s.setCtx c { x with st := .dead, result := 1 })) ∧
    (¬ ended → exec (.teardownComplete c) s = .next s)) ∧
  (∀ (s : State) (w : Nat),
    let n := s.sweeps.get 0 w
    (w = 0 ∨ s.headClock / 2 ^ 30 ≤ n → exec (.integritySweep w) s = .next s) ∧
    (w ≠ 0 → n < s.headClock / 2 ^ 30 → ∃ t, exec (.integritySweep w) s = .next t ∧ t.sweeps.get 0 w = n + 1 ∧
      SameMemory s t ∧ (∀ e ∈ t.touched, e ∈ s.touched ∧ ∀ k ∈ s.worldKeys w, k.2 ≠ e.2) ∧
      (∀ e ∈ s.touched, (∀ k ∈ s.worldKeys w, k.2 ≠ e.2) → e ∈ t.touched) ∧
      (((∀ c, (t.ctx c).st = (s.ctx c).st) ∧ t.groups = s.groups) ∨
        ∀ c, (s.ctx c).world = w → (s.ctx c).st = .ready ∨ (s.ctx c).st = .active ∨ (s.ctx c).st = .parked ∨
          (s.ctx c).st = .evicted → (t.ctx c).st = .faulted)))

/-- R386, R387, R458: a request for a die's world is taken from the physical function alone, and only with every
owner's leave; the change waits for the last team of the latched world, and scrubs a die of a nonzero world, which
zeroes its scratchpads and tiles, drops its lines and latches the target. The model's choice: the energy a scrub
charges is free (log 4). -/
def Obligations.WorldsAndScrubs : Prop :=
  (∀ (s : State) (fn die : Nat) (target : BitVec 4),
    let d := s.dieSt die
    let w := target.toNat
    let leave : Prop := ∀ p < 64, (∃ i < 16, (s.part p).ownsStack (16 * die + i) = true) → (s.part p).worlds.testBit w = true
    let refused : Prop := fn ≠ 0 ∨ d.changing = true ∨ w ≠ 0 ∧ ¬ leave
    (s.ready = false ∨ 4 ≤ die → exec (.dieWorldRequest fn die target) s = .next s) ∧
    (s.ready = true → die < 4 → refused → exec (.dieWorldRequest fn die target) s = .next (s.refuseWrite fn)) ∧
    (s.ready = true → die < 4 → ¬ refused → exec (.dieWorldRequest fn die target) s =
      .next (s.setDie die { d with target := w, changing := d.changing || w != d.latched }))) ∧
  (∀ (s : State) (die : Nat),
    let d := s.dieSt die
    let waits : Prop := d.changing = false ∨ d.busy = true ∨ ∃ e ∈ s.teams, e.2.image = none ∧ dieOfCore e.2.core = die ∧
      (s.ctx e.2.ctx).world = d.latched ∧ (e.2.live ≠ [] ∨ e.2.scratchLen ≠ 0)
    (waits → exec (.dieWorldChange die) s = .next s) ∧
    (¬ waits → d.latched = 0 →
      exec (.dieWorldChange die) s = .next (s.setDie die { d with latched := d.target, changing := false })) ∧
    (¬ waits → d.latched ≠ 0 →
      exec (.dieWorldChange die) s = .next (s.setDie die { d with busy := true, scrubDone := false, cores := 0 }))) ∧
  (∀ (s : State) (die : Nat),
    let d := s.dieSt die
    let here (c : Nat) : Bool := decide (64 * die ≤ c) && decide (c < 64 * die + 64)
    let testing : Prop := ∃ c, here c = true ∧ (s.coreSt c).st = .test
    (d.busy = false ∨ testing → exec (.scrubComplete die) s = .next s) ∧
    (d.busy = true → ¬ testing → ∃ t n, exec (.scrubComplete die) s = .next t ∧ ZeroedCores s t here ∧
      (∀ x ∈ t.l1, here x.core = false) ∧ SameMemory s t ∧ t.groups = s.groups ∧
      t.dieSt die = { d with
        busy := false, scrubDone := true, cores := 64, scrubFor := none, changing := false
        latched := if d.changing then d.target else d.latched
        account := if d.scrubFor = none then d.account + (n : Nat) else d.account } ∧
      (∀ k, k ≠ die → t.dieSt k = s.dieSt k) ∧
      t.rndPhase = if s.rndPhase == 2 && (List.range 4).all fun k => k == die || !(s.dieSt k).busy then 3 else s.rndPhase))

/-! ## Cores and stacks -/

/-- R391 to R396, R399, R400: an interval's units begin their leases where they may and are deferred where not; a
grace window that ends orders the eviction of what is left; a drained core is under test, or retired; periods halve
scores. The model's choice: the length of a channel lease is free (log 4), and when a lease is overdue and a marked
core retires is read as log 15 says. -/
def Obligations.Leases : Prop :=
  (∀ (s : State) (die : Nat), (s.dieSt die).late = [] →
    let d := s.dieSt die
    let i := d.interval
    let due : Prop := die < 4 ∧ i < 64 ∧ d.boundary + i * (2 ^ d.period / 64) ≤ d.awl
    let core := 64 * die + i
    let links := if i % 16 = 0 then [4 * die + i / 16] else []
    let chans := (64 * die + i) :: (if die = 0 ∧ i < 48 then [256 + i] else [])
    let coreWaits : Bool := (s.coreSt core).st != .retired && !s.coreLeasable core
    let linkWaits (k : Nat) : Bool := (s.link k).st == .up && !s.linkLeasable k
    let chanWaits (c : Nat) : Bool := !(s.scoreOf (272 + c)).retired && !s.chanLeasable c
    let late := (if coreWaits then [core] else []) ++ (links.filter linkWaits).map (256 + ·) ++
      (chans.filter chanWaits).map (272 + ·)
    let before := s.coreSt (64 * die + (i + 63) % 64)
    let slow := if before.st = .drain ∧ before.retiring = false then 1 else 0
    let deferred := (links.filter linkWaits).length
    (¬ due → exec (.leaseStart die) s = .next (s.setDie die d)) ∧
    (due → ∃ t, exec (.leaseStart die) s = .next t ∧ t.groups = s.groups ∧
      t.dieSt die = { d with interval := i + 1, late := late, overdue := satAdd 0xFFFF d.overdue (deferred + slow) } ∧
      t.coreSt core = (if s.coreLeasable core then
        { s.coreSt core with
          st := .drain, notified := false
          grace := (s.stackSt (stackOfCore core)).clock + 2 ^ (s.dieSt (dieOfCore core)).graceLog }
        else s.coreSt core) ∧
      (∀ c, c ≠ core → t.coreSt c = s.coreSt c) ∧
      (∀ k ∈ links, let l := s.link k
        (s.linkLeasable k = false → t.link k = l) ∧
        (s.linkLeasable k = true → l.unacked ≠ [] → t.link k = { l with leased := true }) ∧
        (s.linkLeasable k = true → l.unacked = [] → t.link k =
          { l with
            st := .loop, inState := 0, leased := false, borrowed := 0, offered := 0, asked := 0
            reclaimAt := if l.lent = 0 then none else some (l.reclaimAt.getD (s.dieSt (k / 4)).ref) })) ∧
      (∀ c ∈ chans, s.chanLeasable c = true → ∃ n, (t.chan c).leaseEnd = some ((s.chan c).clock + n)) ∧
      (∀ c, c ∉ chans ∨ s.chanLeasable c = false → t.chan c = s.chan c) ∧ (s.unregistered → SameMemory s t))) ∧
  (∀ (s : State) (die u : Nat), (s.dieSt die).late = [u] → u < 256 → 64 ≤ (s.dieSt die).interval →
    ∃ t, exec (.leaseStart die) s = .next t ∧ t = { s with cores := t.cores, dies := t.dies } ∧
      (t.dieSt die).late = (if (s.coreSt u).st = .retired ∨ s.coreLeasable u = true then [] else [u]) ∧
      ((s.coreSt u).st ≠ .retired → s.coreLeasable u = true → (t.coreSt u).st = .drain)) ∧
  (∀ (s : State) (core : Nat),
    let c := s.coreSt core
    let clock := (s.stackSt (stackOfCore core)).clock
    let held (x : Team) : Prop := x.core = core ∧ x.image = none ∧ (x.live ≠ [] ∨ x.scratchLen ≠ 0)
    let ended : Prop := c.st = .drain ∧ c.grace ≤ clock ∧ ∃ e ∈ s.teams, held e.2
    (¬ ended → exec (.graceWindowExpiry core) s = .next s) ∧
    (ended → ∃ t, exec (.graceWindowExpiry core) s = .next t ∧ t = { s with cores := t.cores, teams := t.teams } ∧
      t.coreSt core = { c with grace := clock + 2 ^ (s.dieSt (dieOfCore core)).graceLog } ∧
      (∀ k, k ≠ core → t.coreSt k = s.coreSt k) ∧
      ∀ u x, s.teams.find? u = some x →
        t.teams.find? u = some { x with evict := (t.team u).evict } ∧ (held x → (t.team u).evict = true))) ∧
  (∀ (s : State) (core : Nat),
    let c := s.coreSt core
    let stk := stackOfCore core
    let empty : Prop := ∀ e ∈ s.teams, e.2.core = core → e.2.image = none → e.2.live = [] ∧ e.2.scratchLen = 0
    (c.st ≠ .drain ∨ ¬ empty → exec (.coreDrained core) s = .next s) ∧
    (c.st = .drain → empty → c.retiring = false → ∃ t, exec (.coreDrained core) s = .next t ∧
      t.coreSt core = { c with st := .test, notified := true, grace := 0 } ∧ (∀ k, k ≠ core → t.coreSt k = s.coreSt k) ∧
      ((s.kernels.map Prod.fst).Nodup → Noted s t 1 core fun k => (s.poolOf k).contains stk) ∧
      (s.unregistered → t = { s with cores := t.cores, kernels := t.kernels })) ∧
    (c.st = .drain → empty → c.retiring = true → 4096 ≤ (s.scoreOf core).score →
      (∀ k ∈ stackCores stk, k ≠ core → (s.coreSt k).st ≠ .retired) → core < 256 →
      ∃ t, exec (.coreDrained core) s = .next t ∧ (t.coreSt core).st = .retired ∧ (t.scoreOf core).retired = true ∧
        (t.stackSt stk).shunt = (s.stackSt stk).shunt ||| 2 ^ tierOfCore core ∧ (t.stackSt stk).retired = (s.stackSt stk).retired ∧
        t.log ++ t.logHeld = (if s.log.length ≤ Config.logRoom then s.log ++ [s.retirementOf core 1 2 core] ++ s.logHeld
          else s.log ++ (s.logHeld ++ [s.retirementOf core 1 2 core])) ∧
        ((s.kernels.map Prod.fst).Nodup → Noted s t 3 core fun k => (s.poolOf k).contains stk))) ∧
  (∀ (s : State) (die : Nat),
    let d := s.dieSt die
    (4 ≤ die ∨ d.awl < d.boundary + 2 ^ d.period → exec (.periodBoundary die) s = .next s) ∧
    (die < 4 → d.boundary + 2 ^ d.period ≤ d.awl → ∃ t, exec (.periodBoundary die) s = .next t ∧
      t = { s with scores := t.scores, dies := t.dies } ∧
      t.dieSt die = { d with boundary := d.boundary + 2 ^ d.period, period := d.periodNew, interval := 0 } ∧
      ∀ k, t.scoreOf k = if scoreDie k = die then { s.scoreOf k with score := (s.scoreOf k).score / 2 } else s.scoreOf k))

/-- R395, R398, R401, R404: a test that passes zeroes the core and gives it back; one that fails adds 1024, and at
4096 the core retires with its record; a channel's lease ends at its time, and the physical function confirms its
retirement. The model's choice: the outcome of a test and the room of the log are given from outside (log 14). -/
def Obligations.TestsAndChannels : Prop :=
  (∀ (s : State) (core : Nat), (s.coreSt core).st ≠ .test →
    exec (.testPass core) s = .next s ∧ ∀ pattern, exec (.testFail core pattern) s = .next s) ∧
  (∀ (s : State) (core : Nat), (s.coreSt core).st = .test → core < 256 →
    let stk := stackOfCore core
    ∃ t n, exec (.testPass core) s = .next t ∧ ZeroedCores s t (fun k => k == core) ∧
      (∀ x ∈ t.l1, x.core ≠ core) ∧ t.groups = s.groups ∧
      t.dieSt (dieOfCore core) =
        { s.dieSt (dieOfCore core) with account := (s.dieSt (dieOfCore core)).account + (n : Nat) } ∧
      (t.coreSt core).notified = false ∧ (t.coreSt core).forced = false ∧ (s.unregistered → SameMemory s t) ∧
      ((s.coreSt core).retiring = false → (t.coreSt core).st = .service) ∧
      ((s.stackSt stk).heldOut = false → (∀ k ∈ stackCores stk, (s.coreSt k).retiring = false) →
        t.coreSt core = { s.coreSt core with st := .service, notified := false, forced := false } ∧
        (∀ k, k ≠ core → t.coreSt k = s.coreSt k) ∧
        ((s.kernels.map Prod.fst).Nodup → Noted s t 2 core fun k => (s.poolOf k).contains stk)) ∧
      ((s.stackSt stk).heldOut = true → (∀ k ∈ stackCores stk, k ≠ core → (s.coreSt k).st ≠ .drain ∧ (s.coreSt k).st ≠ .test) →
        ((∃ k ∈ stackCores stk, k ≠ core ∧ (s.coreSt k).forced = true ∧ (s.coreSt k).st = .service) →
          ∃ k ∈ stackCores stk, k ≠ core ∧ (s.coreSt k).forced = true ∧ (t.coreSt k).st = .drain) ∧
        ((∀ k ∈ stackCores stk, k ≠ core → (s.coreSt k).forced = false ∨ (s.coreSt k).st ≠ .service) →
          (t.stackSt stk).heldOut = false))) ∧
  (∀ (s : State) (core pattern : Nat), (s.coreSt core).st = .test → core < 256 →
    let stk := stackOfCore core
    let x := s.scoreOf core
    ∃ t, exec (.testFail core pattern) s = .next t ∧ (t.scoreOf core).score = satAdd 0xFFFF x.score 1024 ∧
      (t.scoreOf core).lastFail = pattern ∧ t.groups = s.groups ∧
      (x.score < 3072 → t = { s with scores := t.scores, dies := t.dies, free := t.free }) ∧
      (3072 ≤ x.score → ZeroedCores s t (fun k => k == core) ∧ (t.coreSt core).st = .retired ∧ (t.scoreOf core).retired = true ∧
        ((∀ k ∈ stackCores stk, k ≠ core → (s.coreSt k).st ≠ .retired) → ∃ r ∈ t.log ++ t.logHeld, r.seq = s.logSeq ∧
          r.kind = 1 ∧ r.cause = (if (s.coreSt core).forced then 4 else 1) ∧ r.unit = core ∧ r.pattern = pattern ∧
          r.score = satAdd 0xFFFF x.score 1024))) ∧
  (∀ (s : State) (u : Unit') (c : Nat), u = .hbm c ∧ c < 256 ∨ (∃ k < 48, u = .lpddr k ∧ c = 256 + k) →
    (∀ n, (s.chan c).leaseEnd = some n → n ≤ (s.chan c).clock → ∃ t, exec (.channelLeaseEnd u) s = .next t ∧
      t.chan c = { s.chan c with leaseEnd := none } ∧ (∀ k, k ≠ c → t.chan k = s.chan k) ∧ t.groups = s.groups ∧
      ((s.kernels.map Prod.fst).Nodup → Noted s t (if c < 256 then 8 else 11) (if c < 256 then c else c - 256) fun k =>
        (s.part (s.partOfCtx k.ctx)).ownsChan c) ∧
      (s.unregistered → SameMemory s t)) ∧
    (((s.chan c).leaseEnd = none ∨ ∃ n, (s.chan c).leaseEnd = some n ∧ (s.chan c).clock < n) →
      exec (.channelLeaseEnd u) s = .next s)) ∧
  (∀ (s : State) (fn k : Nat),
    let x := s.scoreOf k
    let c := k - 272
    let unit := if c < 256 then c else c - 256
    (s.ready = false → exec (.confirmChannelRetirement fn k) s = .next s) ∧
    (s.ready = true → fn ≠ 0 → exec (.confirmChannelRetirement fn k) s = .next (s.refuseWrite fn)) ∧
    (s.ready = true → x.pending = false ∨ k < 272 ∨ 576 ≤ k → exec (.confirmChannelRetirement 0 k) s = .next s) ∧
    (s.ready = true → x.pending = true → 272 ≤ k → k < 576 → ∃ t, exec (.confirmChannelRetirement 0 k) s = .next t ∧
      t.scoreOf k = { x with pending := false, retired := true } ∧ t.logSeq = s.logSeq + 1 ∧
      (∃ r ∈ t.log ++ t.logHeld, r = s.retirementOf k (if c < 256 then 3 else 4) 2 unit) ∧ t.groups = s.groups ∧
      ((s.kernels.map Prod.fst).Nodup → Noted s t (if c < 256 then 9 else 12) unit fun k =>
        (s.part (s.partOfCtx k.ctx)).ownsChan c))) ∧
  (∀ s : State, exec .retirementLogExport s = .next { s with logHeld := [] })

/-- R305, R407 to R409, R412, R413: each refresh shows readings whose fill is the least that balances, or throttles;
each 256 clocks the matrix budget starts again; an idle stack enters retention and leaves it when it is needed, with
its lost tiers scored, its cores under forced leases and its kernels aborted. The model's choice: the readings of the
tier currents are free (log 8). -/
def Obligations.StackHealth : Prop :=
  (∀ (s : State) (stk : Nat),
    let st := s.stackSt stk
    (st.clock / 1024 ≤ st.refreshed → exec (.imbalRefresh stk) s = .next s) ∧
    (st.refreshed < st.clock / 1024 → ∃ t, exec (.imbalRefresh stk) s = .next t ∧
      t = { s with stks := t.stks, free := t.free } ∧ (∀ k, k ≠ stk → t.stackSt k = s.stackSt k) ∧
      ∃ r : List Int, r.length = 4 ∧ (∀ i < 4, st.shunt.testBit i = true → r.getD i 0 = 0) ∧
        let rs := ((List.range 4).filter fun i => !st.shunt.testBit i).map fun i => r.getD i 0
        let starved := (rs.filter fun x => x < 0).length
        let y := t.stackSt stk
        let throttle := if ∃ x, x ≤ 1200 ∧ balanced rs x = true then st.throttle else min (st.throttle + 1) 3
        let calm := if ∃ x, x ≤ 1200 ∧ balanced rs x = true then st.calm + 1 else 0
        y = { st with
          refreshed := st.refreshed + 1, imbal := r, mean := y.mean, fill := y.fill
          throttle := if 0 < throttle ∧ 16 ≤ calm then throttle - 1 else throttle
          calm := if 0 < throttle ∧ 16 ≤ calm then 0 else calm
          throttled := if 0 < y.throttle then satAdd 0xFFFFFFFF st.throttled 1 else st.throttled
          fillerE := st.fillerE + y.fill * starved * Config.weight st.cls 25 } ∧
        y.fill ≤ 1200 ∧ (∀ x < y.fill, balanced rs x = false) ∧ (balanced rs y.fill = true ∨ y.fill = 1200))) ∧
  (∀ (s : State) (core : Nat),
    let c := s.coreSt core
    let n := (s.stackSt (stackOfCore core)).clock / 256
    (n ≤ c.budWin → exec (.matbudgetWindow core) s = .next s) ∧
    (c.budWin < n → exec (.matbudgetWindow core) s =
      .next (s.setCore core { c with budWin := c.budWin + 1, issues := 0, spent := false }))) ∧
  (∀ (s : State) (stk : Nat),
    let st := s.stackSt stk
    let enters : Prop := 2 ^ 16 ≤ st.idle ∧ st.retention = false ∧ s.stackBusy stk = false
    (enters → exec (.retentionEntry stk) s = .next (s.setStack stk { st with retention := true })) ∧
    (¬ enters → exec (.retentionEntry stk) s = .next s)) ∧
  (∀ (s : State) (stk : Nat) (lost : BitVec 4),
    let st := s.stackSt stk
    let leaves : Prop := st.retention = true ∧ s.stackNeeded stk = true
    (¬ leaves → exec (.retentionExit stk lost) s = .next s) ∧
    (leaves → exec (.retentionExit stk 0) s = .next (s.setStack stk { st with retention := false, idle := 0 })) ∧
    (leaves → lost ≠ 0 → ∃ t, exec (.retentionExit stk lost) s = .next t ∧ (t.stackSt stk).retention = false ∧
      (t.stackSt stk).idle = 0 ∧
      (∀ e ∈ s.teams, e.2.image = none → stackOfCore e.2.core = stk → (s.kern e.2.kid).st.abortable = true →
        s.kernels.has e.2.kid = true → (t.kern e.2.kid).st = .aborting ∧
          (t.kern e.2.kid).abort.map (·.status) = some 0x0A) ∧
      (∀ i < 4, stk < 64 → (s.scoreOf (coreOf stk i)).retired = false → (t.scoreOf (coreOf stk i)).score =
        if lost.getLsbD i then satAdd 0xFFFF (s.scoreOf (coreOf stk i)).score 512 else (s.scoreOf (coreOf stk i)).score) ∧
      (∀ c ∈ stackCores stk, (s.coreSt c).st ≠ .retired → (t.coreSt c).forced = true)))

/-! ## Links -/

/-- R399, R414, R415, R417, R418: how each event moves a link between its states; a link that leaves UP gives its loan
back and keeps its flits; the counters start again under new keys. The model's choice: the numbers of the message
kinds are the model's (log 1), and a new key waits for the old one's acknowledgements (log 15). -/
def Obligations.LinkStates : Prop :=
  (∀ (s : State) (fn k : Nat) (value : W64),
    let l := s.link k
    let miss := value.toNat / 2 ^ 16 % 256
    let lg := value.toNat / 2 ^ 8 % 256
    let on := value.getLsbD 0
    let l' : LinkSt := { l with enable := on, hbMiss := miss, hbLog := lg }
    let bad : Prop := fn ≠ 0 ∨ miss < 2 ∨ lg < 12 ∨ 28 < lg
    let ok : Prop := s.ready = true ∧ k < 16 ∧ ¬ bad
    (s.ready = false ∨ 16 ≤ k → exec (.linkEnable fn k value) s = .next s) ∧
    (s.ready = true → k < 16 → bad → exec (.linkEnable fn k value) s = .next (s.refuseWrite fn)) ∧
    (ok → l.st = .up → l.enable = true → on = false → ∃ t, exec (.linkEnable fn k value) s = .next t ∧ LeftUp s t k l' .down) ∧
    (ok → (l.st ≠ .up ∨ l.enable = false ∨ on = true) → ∃ t, exec (.linkEnable fn k value) s = .next t ∧ LinkNow s t k
      (if l.st = .retired then l' else if l.enable = true ∧ on = false then l'.entering .down
       else if l.enable = false ∧ on = true ∧ l.st = .down then l'.entering .train else l'))) ∧
  (∀ (s : State) (k : Nat), let l := s.link k
    (l.st ≠ .train → exec (.lanesTrained k) s = .next s) ∧
    (l.st = .train → exec (.lanesTrained k) s = .next
      (State.send (s.setLink k (l.entering .secure)) { kind := 21, dst := l.peer, src := Config.fabricId }))) ∧
  (∀ (s : State) (k : Nat) (peer : BitVec 16), let l := s.link k
    (l.st ≠ .secure → exec (.linkKeysInstalled k peer) s = .next s) ∧
    (l.st = .secure → ∃ t, exec (.linkKeysInstalled k peer) s = .next t ∧
      LinkNow { s with heldFlits := l.unacked ++ s.heldFlits } t k { l.entering .up with
        peer := peer.toNat, sendCtr := 0, lastAcc := 0, inOrder := 0, lastAck := 0, unacked := [], sinceFlit := 0, badRun := 0,
        badCtr := 0, hbAt := l.clock })) ∧
  (∀ (s : State) (k : Nat), let l := s.link k
    (l.st = .train ∨ l.st = .secure →
      ∃ t, exec (.linkTrainTimeout k) s = .next t ∧ LinkNow s t k (l.entering .failed)) ∧
    (l.st ≠ .train → l.st ≠ .secure → exec (.linkTrainTimeout k) s = .next s)) ∧
  (∀ (s : State) (k : Nat), k < 16 → let l := s.link k
    (l.st = .up → l.hbMiss * 2 ^ l.hbLog ≤ l.sinceFlit →
      ∃ t, exec (.heartbeatTimeout k) s = .next t ∧ LeftUp s t k l .failed) ∧
    (l.st ≠ .up ∨ l.sinceFlit < l.hbMiss * 2 ^ l.hbLog → exec (.heartbeatTimeout k) s = .next s)) ∧
  (∀ (s : State) (k : Nat) (pass : Bool), k < 16 →
    let l := s.link k
    let x := s.scoreOf (256 + k)
    (l.st ≠ .loop → exec (.linkLoopTestEnd k pass) s = .next s) ∧
    (l.st = .loop → ∃ t, exec (.linkLoopTestEnd k true) s = .next t ∧ t.link k = l.entering .secure ∧
      (∀ j, j ≠ k → t.link j = s.link j) ∧ t.groups = s.groups ∧ (s.unregistered → SameMemory s t) ∧
      ((s.kernels.map Prod.fst).Nodup → Noted s t 5 k fun y => (s.part (s.partOfCtx y.ctx)).ownsLink k)) ∧
    (l.st = .loop → x.retired = false → x.score < 3072 → exec (.linkLoopTestEnd k false) s =
      .next (s.setScore (256 + k) { x with score := x.score + 1024 })) ∧
    (l.st = .loop → x.retired = false → 3072 ≤ x.score → ∃ t, exec (.linkLoopTestEnd k false) s = .next t ∧
      (t.link k).st = .retired ∧ (t.scoreOf (256 + k)).retired = true ∧ t.groups = s.groups ∧
      (∃ r ∈ t.log ++ t.logHeld, r.seq = s.logSeq ∧ r.kind = 2 ∧ r.cause = 1 ∧ r.unit = k ∧
        r.score = satAdd 0xFFFF x.score 1024) ∧
      ((s.kernels.map Prod.fst).Nodup → Noted s t 6 k fun y => (s.part (s.partOfCtx y.ctx)).ownsLink k))) ∧
  (∀ (s : State) (k : Nat), let l := s.link k
    (∀ sending, l.st ≠ .up → exec (.keyUpdate k sending) s = .next s) ∧
    (l.st = .up → l.sendCtr < 2 ^ 40 ∨ l.unacked ≠ [] → exec (.keyUpdate k true) s = .next s) ∧
    (l.st = .up → 2 ^ 40 ≤ l.sendCtr → l.unacked = [] →
      exec (.keyUpdate k true) s = .next (s.setLink k { l with sendCtr := 0, lastAck := 0 })) ∧
    (l.st = .up → exec (.keyUpdate k false) s = .next (s.setLink k { l with lastAcc := 0, inOrder := 0 })))

/-- R399, R415, R416, R419, R420, R425, R435, R460: a flit is taken once and in order, acknowledged and acted on; one
that fails its check is dropped, scored and, at the third time, fails the link; with its last acknowledgement a link
under lease goes into loopback; kept flits go by the first route there is; heartbeats leave once an interval for every
rank behind the link. The model's choice: the numbers of the message kinds and the words of a heartbeat are the
model's (log 1), a tag's check is a bit of the flit (log 11), and what an acknowledgement names is read as log 15
says. -/
def Obligations.Flits : Prop :=
  (∀ (s : State) (k : Nat) (f : Flit), (s.link k).st ≠ .up → exec (.flitReceive k f) s = .next s) ∧
  (∀ (s : State) (k : Nat) (f : Flit), k < 16 → (s.link k).st = .up → f.tagOk = false ∨ f.counter < (s.link k).lastAcc →
    let l := s.link k
    let x := s.scoreOf (256 + k)
    let run := if 0 < l.badRun ∧ l.badCtr = f.counter then l.badRun + 1 else 1
    ∃ t, exec (.flitReceive k f) s = .next t ∧ (t.link k).tagFail = satAdd 0xFFFF l.tagFail 1 ∧
      (t.link k).lastAcc = l.lastAcc ∧ (t.link k).inOrder = l.inOrder ∧ (t.link k).badCtr = f.counter ∧ (t.link k).badRun = run ∧
      (x.retired = false → x.score < 3500 →
        (t.scoreOf (256 + k)).score = x.score + (if run < 3 then 1 else 513) ∧ Untouched s t ∧
        (run < 3 → (t.link k).st = .up ∧ ∃ y ∈ t.outbox, y.kind = 18 ∧ y.dst = l.peer ∧ y.words = [l.inOrder]) ∧
        (3 ≤ run → (t.link k).st = .failed ∧ t.outbox = s.outbox))) ∧
  (∀ (s : State) (k : Nat) (f : Flit), (s.link k).st = .up → f.tagOk = true → (s.link k).lastAcc ≤ f.counter →
    f.kind = 4 → f.dst = Config.fabricId → f.payload.headD 0 = 7 →
    let l := s.link k
    let b (i : Nat) : Nat := (f.payload.getD i 0).toNat
    let u := s.setLink k { l with
      lastAcc := f.counter + 1, inOrder := if f.counter = l.inOrder then f.counter + 1 else l.inOrder, sinceFlit := 0, badRun := 0 }
    (∀ r < 64, (s.dom (b 1)).fabricOf r = some f.src → (∀ q < r, (s.dom (b 1)).fabricOf q ≠ some f.src) →
      let h : DomHead := { epoch := b 2, ctl := b 3 != 0, seq := leNat ((f.payload.drop 4).take 8) }
      ∃ v, exec (.domainDataMessage (b 1) { src := r, head := h, body := .heartbeat k }) u = .next v ∧
        exec (.flitReceive k f) s = .next (v.ackFlit k)) ∧
    ((∀ r < 64, (s.dom (b 1)).fabricOf r ≠ some f.src) → exec (.flitReceive k f) s = .next (u.ackFlit k))) ∧
  (∀ (s : State) (k : Nat) (f : Flit), (s.link k).st = .up → f.tagOk = true → (s.link k).lastAcc ≤ f.counter →
    ¬ (f.kind = 4 ∧ f.dst = Config.fabricId ∧ f.payload.headD 0 = 7) →
    let l := s.link k
    -- the last acknowledgement that a lease waits for
    let ends : Prop := f.kind = 2 ∧ l.leased = true ∧ (l.unacked.filter fun m => f.ackTo + 1 < m.counter + m.flits) = []
    (ends → ∃ t, exec (.flitReceive k f) s = .next t ∧ (t.link k).st = .loop ∧ (t.link k).leased = false ∧
      (t.link k).unacked = [] ∧ (t.link k).borrowed = 0 ∧ t.groups = s.groups ∧ (s.unregistered → SameMemory s t)) ∧
    (¬ ends → ∃ t, exec (.flitReceive k f) s = .next t ∧ Untouched s t ∧ (t.link k).st = .up ∧ (t.link k).lastAcc = f.counter + 1 ∧
      (t.link k).inOrder = (if f.counter = l.inOrder then f.counter + 1 else l.inOrder) ∧
      (t.link k).sinceFlit = 0 ∧ (t.link k).badRun = 0 ∧ (∀ y ∈ s.outbox, y ∈ t.outbox) ∧
      (f.kind ≠ 2 → ∃ y ∈ t.outbox, y.kind = 18 ∧ y.dst = l.peer ∧ y.words = [(t.link k).inOrder]) ∧
      (f.kind = 2 →
        let left := l.unacked.filter fun m => f.ackTo + 1 < m.counter + m.flits
        let again : Prop := left = l.unacked ∧ left ≠ [] ∧ l.lastAck = f.ackTo + 1
        (t.link k).unacked = left ∧ (again → t.outbox = s.outbox ++ left ∧
          (t.link k).retries = satAdd 0xFFFF l.retries (left.map Sent.flits).sum) ∧ (¬ again → t.outbox = s.outbox)) ∧
      (f.kind = 1 ∨ f.kind = 4 → f.dst ≠ Config.fabricId → SentOn t
        { kind := 19, hops := f.hops + 1, dst := f.dst, src := f.src, words := f.payload.map (·.toNat) }) ∧
      (f.kind = 5 → f.payload.headD 0 = 11 → (t.link k).asked ≤ max l.asked (leNat ((f.payload.drop 1).take 2))))) ∧
  (∀ (s : State) (k : Nat), let l := s.link k
    (l.st ≠ .up ∨ l.clock < l.hbAt + 2 ^ l.hbLog → exec (.heartbeatSend k) s = .next s) ∧
    (l.st = .up → l.hbAt + 2 ^ l.hbLog ≤ l.clock → ∃ t, exec (.heartbeatSend k) s = .next t ∧ Untouched s t ∧
      (t.link k).hbAt = l.clock ∧ (∃ y ∈ t.outbox, y.kind = 16 ∧ y.dst = l.peer ∧ y.counter = l.sendCtr) ∧
      (l.sendCtr + 64 * s.doms.length + 1 < 2 ^ 40 → ∀ m d, s.doms.find? m = some d → d.member →
        ∀ r ∈ s.ranksVia m k, SentTo t m r 7 [d.epoch, (d.liveRanks.map fun r => 2 ^ r).sum]))) ∧
  (∀ (s : State) (k : Nat), let l := s.link k
    let kept := (if l.st = .up then [] else l.unacked) ++ s.heldFlits
    ∃ t, exec (.flitResend k) s = .next t ∧ Untouched s t ∧ (l.st ≠ .up → (t.link k).unacked = []) ∧
      (∀ x ∈ kept, SentOn t x) ∧
      ((∀ x ∈ kept, s.routeBy (s.linkFor x) x.dst = none) → t.outbox = s.outbox ∧ t.heldFlits = kept) ∧
      (∀ x j h, kept = [x] → x.dom = none → s.routeBy (s.linkFor x) x.dst = some (j, h) →
        t.heldFlits = [] ∧ t.outbox = s.outbox ++ [{ x with counter := (s.link j).sendCtr }]))

/-! ## Domains -/

/-- R421, R422, R424, R429: a slot forms with every other listed chip's Rind, takes its rank and epoch 0 when the
sessions end, and leaves once every other live rank has acknowledged; a member that leaves starts a change of
membership. The model's choice: the numbers of the message kinds are the model's (log 1), a secret is a bit (log 11),
and which keys a control message is under is read as log 15 says. -/
def Obligations.DomainMembership : Prop :=
  (∀ (s : State) (fn m : Nat), ∀ i ∈ [Instr.form fn m, .leave fn m],
    (s.ready = false → exec i s = .next s) ∧
    (s.ready = true → s.reachD fn m = false → exec i s = .next (s.refuseWrite fn))) ∧
  (∀ (s : State) (fn m : Nat), s.takesDom fn m →
    let d := s.dom m
    (d.st ≠ .idle → exec (.form fn m) s = .next (s.setDom m { d with result := 2 })) ∧
    (d.st = .idle → ∃ t, exec (.form fn m) s = .next t ∧ Untouched s t ∧ t.dom m = { d with st := .forming, result := 0 } ∧
      ∀ e ∈ d.group, e.2.valid = true → e.2.fabric ≠ Config.fabricId →
        SentOn t { kind := 10, dst := e.2.fabric, src := Config.fabricId, dom := some m }) ∧
    (¬ d.member ∨ d.leaving ≠ [] → exec (.leave fn m) s = .next (s.setDom m { d with result := 2 })) ∧
    (d.member → d.leaving = [] →
      let others := d.liveRanks.filter (· != d.rank)
      ∃ t, exec (.leave fn m) s = .next t ∧ WaitersAbort s t d.ctx .domainLost ∧
        (others ≠ [] → (t.dom m).st = d.st ∧ (t.dom m).leaving = others ∧ ∀ r ∈ others, SentTo t m r 5 []) ∧
        (others = [] → (t.dom m).st = .idle ∧ (t.dom m).secret = false ∧ (t.dom m).result = 1))) ∧
  (∀ (s : State) (m result : Nat), let d := s.dom m
    (d.st ≠ .forming → exec (.domainFormed m result) s = .next s) ∧
    (∀ j, d.st = .forming → result = 1 → d.selfEntry = some j → ∃ t, exec (.domainFormed m result) s = .next t ∧
      t = { s with doms := t.doms } ∧ (∀ k, k ≠ m → t.dom k = s.dom k) ∧
      t.dom m = { d with
        st := .up, epoch := 0, group := d.group.map fun e => (e.1, { e.2 with live := e.2.valid, self := e.1 == j })
        rank := d.rankOf j, secret := true, result := 1, sendSeq := [], recvSeq := []
        hbLink := (t.dom m).hbLink, hbSince := (t.dom m).hbSince }) ∧
    (d.st = .forming → result ≠ 1 ∨ d.selfEntry = none → ∃ t, exec (.domainFormed m result) s = .next t ∧ Untouched s t ∧
      (t.dom m).st = .idle ∧ (t.dom m).secret = false ∧ (t.dom m).result = if result = 4 then 4 else 3)) ∧
  (∀ (s : State) (m rank : Nat) (h : DomHead), let d := s.dom m
    let i := Instr.leaveAcknowledged m ⟨rank, h⟩
    let left := d.leaving.filter (· != rank)
    (¬ d.hears rank true → exec i s = .next s) ∧
    (d.hears rank true → d.nextFrom rank h → d.early = [] →
      (rank ∉ d.leaving → ∃ t, exec i s = .next t ∧ t = { s with doms := t.doms } ∧ Counted d (t.dom m) rank h ∧
        (t.dom m).st = d.st ∧ (t.dom m).leaving = d.leaving) ∧
      (rank ∈ d.leaving → left ≠ [] → ∃ t, exec i s = .next t ∧ t = { s with doms := t.doms } ∧ Counted d (t.dom m) rank h ∧
        (t.dom m).st = d.st ∧ (t.dom m).leaving = left) ∧
      (rank ∈ d.leaving → left = [] → ∃ t, exec i s = .next t ∧ WaitersAbort s t d.ctx .domainLost ∧
        (t.dom m).st = .idle ∧ (t.dom m).secret = false ∧ (t.dom m).result = 1 ∧ SameMemory s t))) ∧
  (∀ (s : State) (m rank : Nat) (h : DomHead), let d := s.dom m
    let i := Instr.leaveMessage m ⟨rank, h⟩
    (¬ d.hears rank true → exec i s = .next s) ∧
    (d.hears rank true → d.nextFrom rank h → d.early = [] → rank ∉ d.liveRanks → ∃ t, exec i s = .next t ∧
      t = { s with doms := t.doms } ∧ Counted d (t.dom m) rank h ∧ (t.dom m).st = d.st) ∧
    (∀ j, d.hears rank true → d.nextFrom rank h → d.early = [] → rank ∈ d.liveRanks → d.entryOf rank = some j →
      ∃ t, exec i s = .next t ∧ Untouched s t ∧
      ((t.dom m).group.get {} j).live = false ∧ SentTo t m rank 8 [] ∧
      (d.st = .broken → (t.dom m).st = .broken) ∧
      (d.st ≠ .broken →
        let rest := (t.dom m).liveRanks
        (t.dom m).st = .rekey ∧ (t.dom m).rekeyPending = true ∧
        (rest.head? = some d.rank → (t.dom m).newSecret = true ∧ ∀ r ∈ rest, r ≠ d.rank → SentTo t m r 9 [64, 64]) ∧
        (rest.head? ≠ some d.rank → (t.dom m).newSecret = (d.newSecret && d.st != .rekey))))) ∧
  (∀ (s : State) (m failed spare : Nat), let d := s.dom m
    (¬ d.member → exec (.newMasterSecret m failed spare) s = .next s) ∧
    (d.member → 64 ≤ spare → exec (.newMasterSecret m failed spare) s =
      .next (if d.st = .broken then s else (s.setDom m { d with newSecret := true }).drainDom m d.early.length)) ∧
    (d.member → spare < 64 → d.entryOf failed = none ∨ (d.group.get {} spare).spare = false →
      exec (.newMasterSecret m failed spare) s = .next s) ∧
    (∀ j, d.member → spare < 64 → d.entryOf failed = some j → (d.group.get {} spare).spare = true → j ≠ spare →
      d.early = [] → ∃ t, exec (.newMasterSecret m failed spare) s = .next t ∧ t = { s with doms := t.doms } ∧
        (t.dom m).st = .rekey ∧ (t.dom m).rekeyPending = true ∧ (t.dom m).newSecret = true ∧ (t.dom m).ctlSend = [] ∧ (t.dom m).ctlRecv = [] ∧
        ((t.dom m).group.get {} j).fabric = (d.group.get {} spare).fabric ∧ ((t.dom m).group.get {} j).live = true ∧
        ((t.dom m).group.get {} spare).valid = false ∧
        (t.dom m).rank = if (d.group.get {} spare).self then failed else d.rank))

/-- R331, R332, R423, R425, R426, R428, R429, R483: a rank that is not heard, or named by a BREAK, breaks the domain;
a spare takes its place under a new secret; data messages are taken once and in order; the barrier is released when
every live rank has arrived, and a pending re-key then begins the next epoch. R430, R431, R215: another chip's request
inside the exported range is performed as an access of the bound context and answered with status 0 and its data; one
past it is answered with the permission cause. The model's choice: the numbers of the message kinds are the model's
(log 1), a secret is a bit (log 11), and ranks heard by a link under lease do not time out, and which keys a message
is under is read as log 15 says. -/
def Obligations.DomainTraffic : Prop :=
  ((∀ (s : State) (m rank : Nat), let d := s.dom m
     let breaks : Prop := d.member ∧ rank ∈ d.liveRanks
     (¬ breaks → s.breakDomain m rank = s) ∧
     (∀ j, breaks → d.entryOf rank = some j → let t := s.breakDomain m rank
       (t.dom m).st = .broken ∧
       ((t.dom m).group.get {} j).live = false ∧ (t.dom m).failed = d.failed ++ [rank] ∧
       (t.dom m).rekeyPending = false ∧ (t.dom m).early = [] ∧ (t.dom m).inbox = [] ∧
       WaitersAbort s t d.ctx .domainLost ∧ (∀ r ∈ (t.dom m).liveRanks, r ≠ d.rank → SentTo t m r 6 [rank]) ∧
       (s.colls = [] → SameMemory s t))) ∧
   (∀ (s : State) (m src rank : Nat) (h : DomHead), let d := s.dom m
     let i := Instr.breakMsg m ⟨src, rank, h⟩
     (¬ d.hears src true → exec i s = .next s) ∧
     (d.hears src true → d.nextFrom src h → d.early = [] → ∃ e, exec i s = .next ((s.setDom m e).breakDomain m rank) ∧
       Counted d e src h ∧ e = { d with recvSeq := e.recvSeq, ctlRecv := e.ctlRecv })) ∧
   (∀ (s : State) (m rank : Nat), let d := s.dom m
     let l := s.link (d.hbLink.get 0 rank)
     let due : Prop := l.st ≠ .loop ∧ d.hbSince.get 0 rank + l.hbMiss * 2 ^ l.hbLog ≤ l.clock ∧ rank ≠ d.rank
     (¬ due → exec (.rankTimeout m rank) s = .next s) ∧
     (due → exec (.rankTimeout m rank) s = .next (s.breakDomain m rank))) ∧
   (∀ (s : State) (m : Nat) (attested : Bool), let d := s.dom m
     (d.st ≠ .broken ∨ d.failed = [] → exec (.spareTakeover m attested) s = .next s) ∧
     (d.st = .broken → d.failed ≠ [] → d.freeSpare = none →
       exec (.spareTakeover m attested) s = .next (s.setDom m { d with result := 5, failed := [] })) ∧
     (d.st = .broken → d.failed ≠ [] → d.freeSpare ≠ none →
       exec (.spareTakeover m false) s = .next (s.setDom m { d with result := 4, failed := [] })) ∧
     (d.st = .broken → d.failed ≠ [] → d.freeSpare ≠ none → d.liveRanks.head? ≠ some d.rank →
       exec (.spareTakeover m true) s = .next s) ∧
     (∀ r rs j, d.st = .broken → d.failed = r :: rs → d.freeSpare = some j → d.liveRanks.head? = some d.rank → d.early = [] →
       ∃ t, exec (.spareTakeover m true) s = .next t ∧ Untouched s t ∧ (t.dom m).st = .rekey ∧ (t.dom m).newSecret = true ∧
         (t.dom m).rekeyPending = true ∧
         (∀ e, d.entryOf r = some e → e ≠ j → ((t.dom m).group.get {} e).fabric = (d.group.get {} j).fabric ∧
           ((t.dom m).group.get {} e).live = true ∧ ((t.dom m).group.get {} j).valid = false) ∧
         (∀ k ∈ d.liveRanks, k ≠ d.rank → SentTo t m k 9 [r, j]) ∧
         SentOn t { kind := 9, dst := (d.group.get {} j).fabric, src := Config.fabricId, dom := some m, words := [r, j] })) ∧
   (∀ (s : State) (m : Nat) (x : DomMsg), let d := s.dom m
     let h := x.head
     let takes : Prop := d.hears x.src (match x.body with | .leave | .leaveAck | .brk _ | .heartbeat _ => true | _ => false)
     let n := d.expects x.src h
     let bad : Prop := h.tagOk = false ∨ h.seq < n ∨ n + 64 < h.seq
     let held := if d.early.any fun y => y.src == x.src && y.head == h then s else s.setDom m { d with early := d.early ++ [x] }
     (¬ takes → exec (.domainDataMessage m x) s = .next s) ∧
     (takes → d.keyed h → bad → exec (.domainDataMessage m x) s = .next (s.breakDomain m x.src)) ∧
     (takes → d.keyed h → ¬ bad → h.seq ≠ n → exec (.domainDataMessage m x) s = .next held) ∧
     (takes → d.nextFrom x.src h → d.early = [] →
       (∀ a b c e f g r v, x.body = .collective a b c e f g r v ∨ x.body = .collAbort a → ∃ t,
         exec (.domainDataMessage m x) s = .next t ∧ t = { s with doms := t.doms } ∧ Counted d (t.dom m) x.src h ∧
         (t.dom m).inbox = d.inbox ++ [x]) ∧
       (∀ k, x.body = .other ∨ x.body = .heartbeat k → ∃ t, exec (.domainDataMessage m x) s = .next t ∧
         t = { s with doms := t.doms } ∧ Counted d (t.dom m) x.src h ∧ (t.dom m).inbox = d.inbox ∧
         (x.body = .heartbeat k → (t.dom m).hbLink.get 0 x.src = k ∧ (t.dom m).hbSince.get 0 x.src = (s.link k).clock)) ∧
       (∀ v early, x.body = .arrival v early → v < 2 ^ 32 → exec (.domainDataMessage m x) s =
         exec (.dbarArrivalMessage m ⟨x.src, h⟩ (BitVec.ofNat 32 v) early) s) ∧
       (x.body = .leave → exec (.domainDataMessage m x) s = exec (.leaveMessage m ⟨x.src, h⟩) s) ∧
       (x.body = .leaveAck → exec (.domainDataMessage m x) s = exec (.leaveAcknowledged m ⟨x.src, h⟩) s) ∧
       (∀ r, x.body = .brk r → exec (.domainDataMessage m x) s = exec (.breakMsg m ⟨x.src, r, h⟩) s)) ∧
     -- the answer to a window request: the lanes that it was sent for have performed
     (∀ k done dead flags vals id a, takes → d.nextFrom x.src h → d.early = [] →
       x.body = .window k 0 done dead flags vals → (id, a) ∈ s.acc → s.acc.find? id = some a → a.ctx = d.ctx →
       a.req.find? x.src = some k →
       (∀ y ∈ s.acc, y.2.ctx = d.ctx → y.2.req.find? x.src = some k → y = (id, a)) →
       (∀ g, s.group? a.core a.slot = some g → g.arrival = none) →
       let asked := a.lanesAt a.sent x.src
       asked ≠ [] → ∃ t, exec (.domainDataMessage m x) s = .next t ∧ SameMemory s t ∧ t.sram = s.sram ∧
         Counted d (t.dom m) x.src h ∧ (t.dom m).inbox = d.inbox ∧
         ∀ b, t.acc.find? id = some b → b.left = a.left &&& ~~~maskFrom asked ∧
           (a.dst ≠ none → ∀ l ∈ asked, dead.getLsbD l = false →
             b.got.get [] l = (List.range a.count).map fun i => (vals.getD l []).getD i 0 % 2 ^ a.ty.width)) ∧
     (takes → ¬ d.keyed h → d.oldKeys h → exec (.domainDataMessage m x) s = .next (s.countErrCtx d.ctx 12)) ∧
     (takes → ¬ d.keyed h → ¬ d.oldKeys h → d.nextKeys h → exec (.domainDataMessage m x) s = .next held) ∧
     (takes → ¬ d.keyed h → ¬ d.oldKeys h → ¬ d.nextKeys h →
       exec (.domainDataMessage m x) s = .next (s.breakDomain m x.src))) ∧
   (∀ (s : State) (m rank : Nat) (h : DomHead) (value : W32) (early : Bool), let d := s.dom m
     let i := Instr.dbarArrivalMessage m ⟨rank, h⟩ value early
     let counted : Prop := early = true ∧ rank ∈ d.barRanks
     (¬ d.hears rank false → exec i s = .next s) ∧
     (d.hears rank false → d.nextFrom rank h → d.early = [] → ∃ t, exec i s = .next t ∧ SameMemory s t ∧
       (counted → t = { s with doms := t.doms } ∧ (t.dom m).barEarly.get 0 rank = value.toNat ∧
         (t.dom m).barVal = d.barVal ∧ (t.dom m).barRanks = d.barRanks) ∧
       (¬ counted → (∃ v, d.barVal = some v ∧ v ≠ value.toNat) → WaitersAbort s t d.ctx .barrierMismatch ∧
         (t.dom m).barVal = none) ∧
       (¬ counted → d.barVal = none ∨ d.barVal = some value.toNat →
         let arrived := if d.barVal = none then [rank] else setIns d.barRanks rank
         ((∃ r ∈ d.liveRanks, r ∉ arrived) ∨ d.rekeyPending = true → t = { s with doms := t.doms } ∧
           (t.dom m).barVal = some value.toNat ∧ (t.dom m).barRanks = arrived) ∧
         ((∀ r ∈ d.liveRanks, r ∈ arrived) → d.rekeyPending = false →
           (∀ k g, t.groups.find? k = some g → (t.team g.team).ctx = d.ctx → g.holds (· == .dbar) = false) ∧
           (d.barEarly = [] → (t.dom m).barVal = none ∧ (t.dom m).barRanks = []) ∧ SameRegisters s t)))) ∧
   (∀ (s : State) (m : Nat), let d := s.dom m
     let goes : Prop := d.st = .rekey ∧ d.rekeyPending = true ∧ d.newSecret = true ∧ d.barVal ≠ none ∧
       (∀ r ∈ d.liveRanks, r ∈ d.barRanks) ∧ s.domQuiet m = true
     (¬ goes → exec (.rekey m) s = .next s) ∧
     (goes → d.early = [] → d.barEarly = [] → ∃ t, exec (.rekey m) s = .next t ∧
       t.dom m = { d with
         epoch := (d.epoch + 1) % 256, sendSeq := [], recvSeq := [], ctlSend := [], ctlRecv := [], st := .up
         rekeyPending := false, newSecret := false, secret := true, rekeyed := true, failed := [], barVal := none, barLocal := false, barRanks := [] } ∧
       (∀ k g, t.groups.find? k = some g → (t.team g.team).ctx = d.ctx → g.holds (· == .dbar) = false) ∧
       SameRegisters s t ∧ SameMemory s t))) ∧
  (∀ (s : State) (m : Nat) (r : WinReq),
     let d := s.dom m
     let takes : Prop := d.hears r.src false ∧ d.nextFrom r.src r.head ∧ d.early = []
     let va := (d.export_ + r.offset) % 2 ^ 57
     let stack := s.headStack d.ctx
     (¬ d.hears r.src false → exec (.windowAccessService m r) s = .next s) ∧
     (takes → r.src < 64 →
       (∀ n, n = (match r.atomic with
           | some (_, ty) => tyBytes ty
           | none => if r.elem = true then 1 else if r.write = true then r.bytes.length else r.len) → d.limit < r.offset + n →
         ∃ t, exec (.windowAccessService m r) s = .next t ∧ Untouched s t ∧
           SentTo t m r.src 17 [r.id, if r.write = true ∨ r.atomic ≠ none then Cause.write.code else Cause.read.code]) ∧
       (r.elem = false → r.atomic = none → r.write = false → r.offset + r.len ≤ d.limit →
         s.reaches d.ctx stack va r.len .read → (∀ i < r.len, s.poisoned (s.paVia d.ctx stack (va + i)) = false) →
         ∃ t, exec (.windowAccessService m r) s = .next t ∧ Untouched s t ∧
           SentTo t m r.src 17 (r.id :: 0 :: 0 :: 0 :: (s.bytesAt d.ctx stack va r.len).map (·.toNat))) ∧
       (r.elem = false → r.atomic = none → r.write = true → r.offset + r.bytes.length ≤ d.limit →
         s.reaches d.ctx stack va r.bytes.length .write → ∃ t, exec (.windowAccessService m r) s = .next t ∧
           t.groups = s.groups ∧ t.sram = s.sram ∧ t.tile = s.tile ∧
           WrittenTo s t (s.writesAt d.ctx stack va r.bytes) ∧ SentTo t m r.src 17 [r.id, 0, 0, 0])))

/-! ## Power loans -/

/-- R434, R435, R445, R446: an offer is of the unused share above the reserve; TAKE and ACK raise what the lender lent
and the borrower borrowed; RECLAIM and RETURN, or 1,000 clocks without an answer, bring both back. The model's choice:
the part of an offer that is taken is free (log 4), the dealings between partitions are as log 15 says. -/
def Obligations.PowerLoans : Prop :=
  ∀ (s : State) (k : Nat), k < 16 + 128 * 65 →
    let l := s.link k
    let x := s.shareOf k
    let open_ : Prop := s.dealing k = true
    (∀ unused, ¬ open_ ∨ s.govClock k / 2 ^ 16 ≤ l.offers → exec (.offer k unused) s = .next s) ∧
    (∀ unused, open_ → l.offers < s.govClock k / 2 ^ 16 →
      let w := min unused (s.lendable k)
      ∃ t, exec (.offer k unused) s = .next t ∧ Untouched s t ∧ (t.link k).offers = l.offers + 1 ∧ (t.link k).offered = w ∧
        t.shareOf k = x ∧ (¬ ofModule k → w ≤ x.share - x.lent - x.reserve) ∧
        (w = 0 → t.outbox = s.outbox ∧ t.agenda = s.agenda) ∧
        (0 < w → k < 16 → PowerSent s t k 11 w (.offer k 0)) ∧
        (0 < w → 16 ≤ k → ∃ n ≤ w, (n = 0 → t.agenda = s.agenda) ∧
          (0 < n → t.agenda = s.agenda ++ [.op (.take k n)] ∧ (t.link (otherEnd k)).asked = n))) ∧
    (∀ watts, ¬ open_ ∨ l.offered < watts ∨ watts = 0 → exec (.take k watts) s = .next s) ∧
    (∀ watts, open_ → watts ≤ l.offered → 0 < watts → ∃ t, exec (.take k watts) s = .next t ∧ Untouched s t ∧
      (t.link k).lent = l.lent + watts ∧ (t.link k).offered = 0 ∧ PowerSent s t k 13 watts (.ack (otherEnd k) watts) ∧
      (¬ ofModule k → t.shareOf k = { x with lent := x.lent + watts }) ∧ (ofModule k → t.shareOf k = x)) ∧
    (∀ watts, ¬ open_ ∨ l.asked < watts → exec (.ack k watts) s = .next s) ∧
    (∀ watts, open_ → watts ≤ l.asked → ∃ t, exec (.ack k watts) s = .next t ∧ Untouched s t ∧
      t.shareOf k = { x with borrowed := x.borrowed + watts } ∧
      t.link k = { l with borrowed := l.borrowed + watts, asked := 0 } ∧ ∀ j, j ≠ k → t.link j = s.link j) ∧
    (¬ open_ ∨ l.lent = 0 ∨ l.reclaimAt ≠ none → exec (.sendReclaim k) s = .next s) ∧
    (open_ → l.lent ≠ 0 → l.reclaimAt = none → ∃ t, exec (.sendReclaim k) s = .next t ∧ Untouched s t ∧
      (t.link k).reclaimAt = some (s.govClock k) ∧ (t.link k).lent = l.lent ∧ PowerSent s t k 14 0 (.reclaim (otherEnd k))) ∧
    (¬ open_ → exec (.reclaim k) s = .next s) ∧
    (open_ → ∃ t, exec (.reclaim k) s = .next t ∧ Untouched s t ∧ (t.link k).borrowed = 0 ∧
      t.shareOf k = { x with borrowed := x.borrowed - l.borrowed } ∧ PowerSent s t k 15 0 (.returnMsg (otherEnd k))) ∧
    (∀ i ∈ [Instr.returnMsg k, .reclaimTimeout k],
      (l.reclaimAt = none → exec i s = .next s) ∧
      ∀ n, l.reclaimAt = some n → (i = .returnMsg k → open_) → (i = .reclaimTimeout k → n + 1000 ≤ s.govClock k) →
        ∃ t, exec i s = .next t ∧ Untouched s t ∧ t.link k = { l with lent := 0, reclaimAt := none } ∧
          (¬ ofModule k → t.shareOf k = { x with lent := x.lent - l.lent }) ∧ (ofModule k → t.shareOf k = x)) ∧
    (¬ open_ → exec (.returnMsg k) s = .next s) ∧
    (∀ n, l.reclaimAt = some n → s.govClock k < n + 1000 → exec (.reclaimTimeout k) s = .next s)

/-! ## Partitions, functions, fair queueing -/

/-- R436 to R440, R447: the rail steps toward the highest vote, down only once its voter has left; an ownership word
is written whole or refused; a channel serves the burst of the least start tag. R442 to R444: a virtual function's
life: its commands come from the physical function, an activation that a rule bars says why, a suspend holds its
contexts and writes its progress, a resume takes both back, a disable needs it empty. The model's choice: the progress
word is kept and read back as log 15 says, the function's saved state has free bytes (log 10), each die's share of the
cap and its demand are free (log 8, log 17). -/
def Obligations.PartitionsAndFunctions : Prop :=
  ((∀ (s : State) (die : Nat), let d := s.dieSt die
     (4 ≤ die ∨ d.ref / 1024 ≤ d.railSteps → exec (.railStep die) s = .next s) ∧
     (∀ p v, s.highVote die = some (p, v) → v = (s.part p).railVote ∧ p ∈ s.voters die ∧
       ∀ q ∈ s.voters die, (s.part q).railVote < v ∨ (s.part q).railVote = v ∧ p ≤ q) ∧
     (die < 4 → d.railSteps < d.ref / 1024 → ∃ t, exec (.railStep die) s = .next t ∧
       t = { s with dies := t.dies, free := t.free } ∧ (∀ k, k ≠ die → t.dieSt k = s.dieSt k) ∧
       let others := ((List.range 4).map fun k => if k = die then 0 else (s.dieSt k).capShare).sum
       let aim := (t.dieSt die).railTo
       t.dieSt die = { d with
         railSteps := d.railSteps + 1, cap := s.packageCap, railTo := aim, railBy := (t.dieSt die).railBy
         capShare := (t.dieSt die).capShare, paced := (t.dieSt die).paced, pacedParts := (t.dieSt die).pacedParts
         rail := if d.rail < aim then d.rail + 1 else if aim < d.rail then d.rail - 1 else d.rail } ∧
       (others ≤ s.packageCap → others + (t.dieSt die).capShare ≤ s.packageCap) ∧
       (s.highVote die = none → aim = d.railTo) ∧
       (∀ p v, s.highVote die = some (p, v) →
         (d.railTo ≤ v → aim = v) ∧ (v < d.railTo → aim = if s.voterGone d.railBy die then v else d.railTo)))) ∧
   (∀ (s : State) (fn p w : Nat) (value : W64),
     let x := s.part p
     let old := x.own.get 0 w
     let new := value.toNat &&& ownAll w
     let takes : Prop := ∀ b < 64, new.testBit b = true → old.testBit b = false → ∀ o < 64, o ≠ p →
       (s.part o).owns w b = false
     let gives : Prop := ∀ b < 64, new.testBit b = false → old.testBit b = true →
       (w = 0 → s.stackNamed p b = false) ∧ (11 ≤ w → s.qQuiet (64 * (w - 11) + b) = true) ∧
         (w = 10 → b < 16 → s.domainUses p b = false)
     let ok : Prop := fn = 0 ∧ p < 64 ∧ w < 27 ∧ takes ∧ gives
     (s.ready = false → exec (.parOwnWrite fn p w value) s = .next s) ∧
     (s.ready = true → ¬ ok → exec (.parOwnWrite fn p w value) s = .next (s.refuseWrite fn)) ∧
     (s.ready = true → ok → exec (.parOwnWrite fn p w value) s = .next (s.setPart p { x with own := x.own.put w new }))) ∧
   (∀ (s : State) (ch p id : Nat), let c := s.chan ch
     (304 ≤ ch ∨ 64 ≤ p → exec (.burstArrival ch p id) s = .next s) ∧
     (ch < 304 → p < 64 → ∃ t, exec (.burstArrival ch p id) s = .next t ∧ t = { s with chans := t.chans } ∧
       let start := max c.v (c.f.get 0 p)
       t.chan ch = { c with f := (t.chan ch).f, held := c.held ++ [{ p := p, id := id, start := start }] } ∧
       (t.chan ch).f.get 0 p = start + 64 * (sfqUnit / s.sfqWeight ch p) ∧
       ∀ q, q ≠ p → (t.chan ch).f.get 0 q = c.f.get 0 q)) ∧
   (∀ (s : State) (ch : Nat), let c := s.chan ch
     (c.leaseEnd ≠ none ∨ c.held = [] → exec (.burstServe ch) s = .next s) ∧
     (c.leaseEnd = none → c.held ≠ [] → ∃ b ∈ c.held, (∀ o ∈ c.held, b.start < o.start ∨ b.start = o.start ∧ b.p ≤ o.p) ∧
       ∃ t, exec (.burstServe ch) s = .next t ∧ t = { s with chans := t.chans } ∧
         t.chan ch = { c with v := b.start, held := c.held.erase b }))) ∧
  ((∀ (s : State) (fn f : Nat), ∀ i ∈ [Instr.activate fn f, .suspend fn f, .vfResume fn f, .disable fn f],
     (s.ready = false → exec i s = .next s) ∧
     (s.ready = true → fn ≠ 0 ∨ f = 0 ∨ 64 ≤ f → exec i s = .next (s.refuseWrite fn))) ∧
   (∀ (s : State) (fn f : Nat), s.takesVf fn f →
     let x := s.vf f
     let result (r : Nat) : Host.Outcome State Fault Refusal := .next (s.setVf f { x with result := r })
     (x.st ≠ .off → exec (.activate fn f) s = result 2) ∧
     (∀ r, x.st = .off → s.barOf f r → exec (.activate fn f) s = result r) ∧
     (x.st = .off → (∀ r, ¬ s.barsVf f r) →
       exec (.activate fn f) s = .next (s.setVf f { x with st := .active, result := 1 })) ∧
     (x.st ≠ .active → exec (.suspend fn f) s = result 2) ∧
     (x.st = .active → (s.ctxs.map Prod.fst).Nodup → (s.teams.map Prod.fst).Nodup →
       ∃ t w, exec (.suspend fn f) s = .next t ∧ t.groups = s.groups ∧ w = s.progressOf f ∧
         WrittenTo s t ((List.range 8).map fun i => (0, x.save * 4096 + i, (leBytes 8 w).getD i 0)) ∧
         (t.vf f).st = .suspending ∧ (t.vf f).result = 1 ∧
         (∀ c y, s.ctxs.find? c = some y → t.ctx c =
           (if y.fn = f ∧ y.st ≠ .free ∧ y.st ≠ .teardown ∧ y.st ≠ .dead then { y with held := true, cmd := 0 } else y) ∧
           (y.fn = f → y.st ≠ .free → (c ∈ (t.vf f).wasHeld ↔ y.held = true))) ∧
         (∀ u v, s.teams.find? u = some v → t.teams.find? u = some
           (if (s.ctx v.ctx).fn = f ∧ v.image = none ∧ v.retired = false then { v with evict := true } else v))) ∧
     (x.st ≠ .suspended → exec (.vfResume fn f) s = result 2) ∧
     (∀ r, x.st = .suspended → s.barOf f r → exec (.vfResume fn f) s = result r) ∧
     (x.st = .suspended → (∀ r, ¬ s.barsVf f r) → (s.ctxs.map Prod.fst).Nodup → ∃ t, exec (.vfResume fn f) s = .next t ∧
       Untouched s t ∧ t.vf f = { x with st := .active, result := 1, progress := 0, wasHeld := [] } ∧
       (s.readMem (x.save * 4096) 8 = 0 → ∀ c y, s.ctxs.find? c = some y → t.ctx c =
         if y.fn = f ∧ y.st ≠ .free then { y with held := x.wasHeld.contains c } else y)) ∧
     ((x.st ≠ .active ∧ x.st ≠ .suspended) ∨ (∃ e ∈ s.ctxs, e.2.fn = f ∧ e.2.st ≠ .free) →
       exec (.disable fn f) s = result 2) ∧
     (x.st = .active ∨ x.st = .suspended → (∀ e ∈ s.ctxs, e.2.fn = f → e.2.st = .free) → exec (.disable fn f) s =
       .next (s.setVf f { x with st := .off, result := 1, progress := 0, wasHeld := [] }))) ∧
   (∀ (s : State) (f : Nat), let x := s.vf f
     let left : Prop := ∃ e ∈ s.teams, (s.ctx e.2.ctx).fn = f ∧ (s.ctx e.2.ctx).st ≠ .teardown ∧ e.2.image = none ∧
       (e.2.live ≠ [] ∨ e.2.scratchLen ≠ 0)
     (x.st ≠ .suspending ∨ left → exec (.vfSuspended f) s = .next s) ∧
     (x.st = .suspending → ¬ left → ∃ (t : State) (bs : List Byte), exec (.vfSuspended f) s = .next t ∧ bs.length = 4088 ∧ t.groups = s.groups ∧
       WrittenTo s t ((List.range 4088).map fun i => (0, x.save * 4096 + 8 + i, bs.getD i 0)) ∧
       t.vf f = { x with st := .suspended })))

/-! ## Registers, snapshots, resets -/

/-- R8, R355, R442, R448 to R451, R494: a register read that reaches shows the value, and clears what it clears; one
that does not shows zero; a snapshot latches every block's counts; an export writes its record or says why not; a
write is refused and counted where it does not reach or breaks a limit, and a command with a step of its own is the
next one. The model's choice: a signature is free bytes (log 11), and what a read answers is put among the messages
sent (log 1). -/
def Obligations.RegisterAccess : Prop :=
  (∀ (s : State) (fn : Nat) (r : Reg), ∃ t, exec (.counterReadClear fn r) s = .next t ∧ Untouched s t ∧
    (s.reachR fn r = false → (r ≠ .snpReadData ∨ s.ready = false) → t = s.send { kind := 20, dst := fn, words := [0] }) ∧
    (s.reachR fn r = false → r = .snpReadData → s.ready = true →
      t = (s.refuseWrite fn).send { kind := 20, dst := fn, words := [0] }) ∧
    (s.reachR fn r = true → r ≠ .snpReadData →
      t.outbox = s.outbox ++ [{ kind := 20, dst := fn, words := [s.regVal fn r % 2 ^ 64] }]) ∧
    (∀ p e, r = .errCount p e → s.reachR fn r = true → t.errs.get 0 (64 * p + e) = 0 ∧
      ∀ k, k ≠ 64 * p + e → t.errs.get 0 k = s.errs.get 0 k) ∧
    (∀ k, r = .lnkStatus k → s.reachR fn r = true → t.link k = { s.link k with tagFail := 0, retries := 0 }) ∧
    (∀ k, r = .stkState k → s.reachR fn r = true → t.stackSt k = { s.stackSt k with throttled := 0 }) ∧
    (∀ d, r = .awlCtl d → s.reachR fn r = true → t.dieSt d = { s.dieSt d with overdue := 0 })) ∧
  (∀ (s : State) (fn : Nat) (addr : W64),
    (s.ready = false → exec (.snpRead fn addr) s = .next s ∧ exec (.snpTrigger fn) s = .next s) ∧
    (s.ready = true → fn ≠ 0 → exec (.snpRead fn addr) s = .next (s.refuseWrite fn) ∧
      exec (.snpTrigger fn) s = .next (s.refuseWrite fn)) ∧
    (s.ready = true → exec (.snpTrigger 0) s = .next
      { s with
        snpSeq := (s.snpSeq + 1) % 2 ^ 32
        snap := some {
          seq := (s.snpSeq + 1) % 2 ^ 32, headClock := s.headClock, errs := s.errs, regEvents := s.regEvents
          matStall := s.matStall, stks := s.stks, dies := s.dies, links := s.links, ctxs := s.ctxs, cores := s.cores
          queues := s.queues, chans := s.chans, scores := s.scores, doms := s.doms } }) ∧
    (s.ready = true → ∃ t v, exec (.snpRead 0 addr) s = .next t ∧ Untouched s t ∧ t.snpAddr = addr.toNat ∧
      t.outbox = s.outbox ++ [{ kind := 20, words := [v] }] ∧
      ∀ r, addr.getLsbD 47 = false → r ≠ .snpReadAddr → regAt (addr.toNat / 2 ^ 48) (addr.toNat % 2 ^ 47) = some r →
        v = s.regVal 0 r)) ∧
  (∀ (s : State) (fn c : Nat), ∀ i ∈ [Instr.exportContext fn c, .exportPartition fn c],
    let x := s.vf fn
    let va := x.expDst * 4096
    let reached : Prop := s.reachC fn c = true ∧ (s.ctx c).st ≠ .free
    let ended (t : State) (n : Nat) : Prop := exec i s = .next t ∧ t.groups = s.groups ∧ (t.vf fn).expStatus = n ∧
      (t.vf fn).expCtx = c ∧ t.irqs = s.irqs ++ [(fn, 1)]
    (s.ready = false → exec i s = .next s) ∧
    (s.ready = true → s.fnLive fn = false → exec i s = .next (s.refuseWrite fn)) ∧
    (s.ready = true → s.fnLive fn = true → ¬ reached → ∃ t, ended t 2 ∧ SameMemory s t) ∧
    (s.ready = true → s.fnLive fn = true → reached →
      (s.headLeaf c va .write = none ∨ va / 2 ^ 56 ≠ 0 ∨ ∃ e, s.headLeaf c va .write = some e ∧ pteWorld e.2 ≠ 0) →
      ∃ t, ended t 3 ∧ SameMemory s t ∧ t.snpSeq = (s.snpSeq + 1) % 2 ^ 32) ∧
    (∀ e pas, s.ready = true → s.fnLive fn = true → reached → va / 2 ^ 56 = 0 → s.headLeaf c va .write = some e →
      pteWorld e.2 = 0 → s.headBytes c va 1408 .write = some pas →
      let of_ := if i = .exportContext fn c then [s.ctx c]
        else (s.ctxs.filter fun e => e.2.st != .free && s.partOfCtx e.1 == s.partOfCtx c).map Prod.snd
      ∃ t sig, ended t 1 ∧ t.expSeq = s.expSeq + 1 ∧ t.snpSeq = (s.snpSeq + 1) % 2 ^ 32 ∧ sig.length = 1280 ∧
        WrittenTo s t ((pas.zip (leBytes 8 s.expSeq ++ leBytes 1 (if i = .exportContext fn c then 1 else 2) ++
          leBytes 1 (s.partOfCtx c) ++ leBytes 2 (if i = .exportContext fn c then c else 0xFFFF) ++
          leBytes 4 ((s.snpSeq + 1) % 2 ^ 32) ++ leBytes 16 (of_.map Ctx.charged).sum ++
          leBytes 16 ((of_.map Ctx.correction).sum % 2 ^ 128).toNat ++ leBytes 16 (of_.map Ctx.footprint).sum ++
          leBytes 16 (of_.map Ctx.filler).sum ++ leBytes 16 Config.moduleSerial ++ leBytes 32 0 ++ sig)).map
          fun x => (x.1.1, x.1.2, x.2)))) ∧
  (∀ (s : State) (fn : Nat) (r : Reg) (v : W64), ∃ t, exec (.registerWrite fn r v) s = .next t ∧ Untouched s t ∧
    (s.ready = false → t = s) ∧ (s.ready = true → s.takesWrite fn r = false → t = s.refuseWrite fn) ∧
    (s.ready = true → s.takesWrite fn r = true →
      (∀ q, r = .qQuantum q → t = if v.toNat = 0 ∨ 2 ^ 62 ≤ v.toNat then s.refuseWrite fn
        else s.setQueue q { s.queue q with quantum := v.toNat }) ∧
      (∀ c, r = .ctxPtRoot c → t = if s.kernels.any fun e => e.2.ctx == c && e.2.st != .done then s.refuseWrite fn
        else s.setCtx c { s.ctx c with root := v.toNat / 2 ^ 13 % 2 ^ 39, enable := v.getLsbD 0 }) ∧
      (∀ c, r = .ctxIrq c → t = if v.toNat % 64 < 3 then s.refuseWrite fn
        else s.setCtx c { s.ctx c with irqEnable := v.getLsbD 8, irqVector := v.toNat % 64 }) ∧
      (∀ f, r = .pgFaultRing f → t = if (s.ring f).cons ≠ (s.ring f).prod then s.refuseWrite fn
        else s.setRing f { s.ring f with base := v.toNat / 4096 * 4096, log2 := v.toNat % 32 }) ∧
      (r = .govCap → t = { s with cap := max 1000 (min 3000 (v.toNat % 4096)) }) ∧
      (∀ k, r = .stkClass k → t = s.setStack k { s.stackSt k with pool := v.toNat % 4 }) ∧
      (∀ d, r = .awlCtl d → t =
        if v.toNat / 2 ^ 8 % 256 < 16 ∨ 30 < v.toNat / 2 ^ 8 % 256 ∨ v.toNat % 256 < 36 ∨ 44 < v.toNat % 256 then s.refuseWrite fn
        else s.setDie d { s.dieSt d with graceLog := v.toNat / 2 ^ 8 % 256, periodNew := v.toNat % 256 }) ∧
      (∀ c, r = .ctxCtl c → v.toNat / 2 ^ 44 % 16 = (s.ctx c).world → v.toNat / 2 ^ 4 % 16 = 1 →
        t.agenda = .op (.create fn c) :: s.agenda) ∧
      (∀ c, r = .ctxCtl c → v.toNat / 2 ^ 44 % 16 ≠ (s.ctx c).world → (s.ctx c).st ≠ .free → t = s.refuseWrite fn) ∧
      (∀ p w, r = .parOwn p w → t.agenda = .op (.parOwnWrite fn p w v) :: s.agenda) ∧
      (∀ k, r = .lnkCtl k → t.agenda = .op (.linkEnable fn k v) :: s.agenda)))

/-- R387, R454, R456 to R459: a fundamental reset leaves every register at its reset value, memory, log and
retirements aside, and its dies under their scrubs, or phase 7 after a record that fails; bring-up ends in READY; a
function-level reset waits for READY, restarts a scrub, tears the function's contexts down and turns it off. The
model's choice: what the records and flash keep is as log 14 says, and a stack with two tiers in the repair map comes
up retired (log 15). -/
def Obligations.Resets : Prop :=
  (∀ (s : State) (bad : Nat), ∃ t, exec (.fundamentalReset bad) s = .next t ∧ Booted s t ∧
    (1 ≤ bad → bad ≤ 6 → t.rndKind = bad ∧ t.rndPhase = 7 ∧ t.dies = []) ∧
    (bad = 0 ∨ 6 < bad → t.rndKind = 0 ∧ t.rndPhase = 2 ∧
      ∀ d < 4, t.dieSt d = { busy := true, scrubDone := false, cores := 0 })) ∧
  (∀ s : State, (s.rndPhase ≠ 3 → exec .bringupReady s = .next s) ∧
    (s.rndPhase = 3 → s.resets = [] → exec .bringupReady s = .next { s with rndPhase := 4, irqs := s.irqs ++ [(0, 2)] }) ∧
    (s.rndPhase = 3 → ∃ t, exec .bringupReady s = .next t ∧ t.rndPhase = 4 ∧ t.resets = [] ∧
      ∀ f ∈ s.resets, (∀ g ∈ s.resets, g ≠ 0) → (t.vf f).st = .off)) ∧
  (∀ (s : State) (f : Nat),
    (f = 0 ∨ 64 ≤ f → exec (.vfReset f) s = .next s) ∧
    (f ≠ 0 → f < 64 → s.ready = false → exec (.vfReset f) s = .next { s with resets := s.resets ++ [f] }) ∧
    (f ≠ 0 → f < 64 → s.ready = true → ∃ t, exec (.vfReset f) s = .next t ∧
      (t.vf f).st = .off ∧ (t.vf f).progress = 0 ∧ (t.vf f).qcount = (s.vf f).qcount ∧
      (∀ d < 4, (s.dieSt d).busy = true → (t.dieSt d).cores = 0 ∧ (t.dieSt d).scrubDone = false ∧ (t.dieSt d).busy = true) ∧
      (∀ c x, s.ctxs.find? c = some x → x.fn = f → x.st ≠ .free → x.st ≠ .dead → (t.ctx c).st = .teardown))) ∧
  (∀ s : State,
    (s.ready = false → exec .pfReset s = .next { s with resets := s.resets ++ [0] }) ∧
    (s.ready = true → ∃ t, exec .pfReset s = .next t ∧ t.parts = [] ∧ (∀ k, t.part k = State.reset.part k) ∧
      (∀ f x, s.vfs.find? f = some x → (t.vf f).st = .off ∧ (t.vf f).qcount = 0 ∧ (t.vf f).qbase = 0 ∧ (t.vf f).part = 0) ∧
      (∀ d < 4, (s.dieSt d).busy = true → (t.dieSt d).cores = 0 ∧ (t.dieSt d).scrubDone = false) ∧
      (∀ c x, s.ctxs.find? c = some x → x.st ≠ .free → x.st ≠ .dead → (t.ctx c).st = .teardown))) ∧
  (∀ (s : State) (f : Nat) (secure : Bool),
    (64 ≤ f → exec (.ideStreamKeyed f secure) s = .next s) ∧
    (f < 64 → exec (.ideStreamKeyed f secure) s = .next (s.setVf f { s.vf f with secure := secure })))

/-! ## Encodings, steps, reset, invariant -/

/-- R106, R112, R117, R118, R122, R124, R125: words that the spec writes out decode to the instructions that it says they
encode; the spec's example line holds FFMA and SADD as a pair, then EXIT. -/
def Obligations.SpecWordsDecode : Prop :=
  decodeTableWord 96 0xA20080060A00000B00000000 =
    some (.vred { last := 0b100, dst := 3, a := .v 10, ty := .f32 }) ∧
  decodeTableWord 96 0xEB0000010C00000000000005 = some (.barn { a := .s 12, low := 5 }) ∧
  decodeTableWord 96 0x2A0052000010000300000000 =
    some (.vmax { last := 0b010, pred := 0b1001, a := .v 0, b := .v 32, ty := .i32 }) ∧
  decodeTableWord 96 0xA03000400080801200000000 =
    some (.shfl .xor { dst := 0x20, a := .v 0, b := .s 1, ty := .b64 }) ∧
  decodeTableWord 96 0xB000000245A4001100000080 =
    some (.lds { dst := 1, a := .v 69, b := .imm, ty := .b32, low := 0x80 }) ∧
  decodeTableWord 96 0x600800380A07000B00000001 =
    some (.fadd { sm := true, dst := 0x1C, a := .v 10, b := .v 14, ty := .f32, low := 1 }) ∧
  decodeTableWord 96 0xD10000010481C21000140000 =
    some (.mma { a := .s 4, b := .s 3, c := .s 8, ty := .q4, low := 0x140000 }) ∧
  decodeTableWord 96 0xD10000010483420A00140003 =
    some (.mma { a := .s 4, b := .s 6, c := .s 8, ty := .bf16, low := 0x140003 }) ∧
  decodeTableWord 96 0xD40000010584800B00160002 =
    some (.mst { a := .s 5, b := .s 9, ty := .f32, low := 0x160002 }) ∧
  decodeTableWord 96 0xD00000010C00001200000000 = some (.gang { a := .s 12, ty := .b64 }) ∧
  decodeTableWord 96 0xB410000C02A4800B00000001 =
    some (.ldgElem { dst := 6, a := .v 2, b := .const 0, ty := .f32, low := 1 }) ∧
  decodeTableWord 96 0xB40000390FA4801206800000 =
    some (.ldgRaw { dst := 0x1C, a := .s 15, b := .const 0, ty := .b64, low := 0x6800000 }) ∧
  decodeTableWord 96 0x6300803418A4068C3E000000 =
    some (.ffma { last := 0b100, dst := 0x1A, a := .v 24, b := .imm, c := .v 26, ty := .f64, low := 0x3E000000 }) ∧
  (let words : List Nat := [0x00000000, 0x0000810B, 0x63004008, 0x00000000, 0x02A50004, 0x01000005, 0, 0, 0x19000000,
     0, 0, 0x1B000000, 0, 0, 0x1B000000, 0x15088000]
   let line := words.foldr (fun w n => w + 2 ^ 32 * n) 0
   lineCheck line = none ∧ lineTarget line 0 = true ∧ linePair line 0 = true ∧
     slotInstr (lineSlot line 0) none =
       .ffma { last := 0b010, dst := 4, a := .v 0, b := .v 1, c := .v 4, ty := .f32 } ∧
     slotInstr (lineSlot line 1) none = .sadd { dst := 2, a := .s 2, b := .const 1, ty := .i64 } ∧
     slotInstr (lineSlot line 2) none = .exit {})

/-- R112, R117, R125, R357, R358: every well-formed Turle instruction is read back from its words, every slot that decodes to one is
the slot it encodes to, and every command is read back from its 64 bytes. -/
def Obligations.DecodeAndEncodeAgree : Prop :=
  (∀ (i : Instr) (o : Fields), i.fields = some o → i.WellFormed →
    ∃ raw, encode i = some (raw, o.wide) ∧ decode raw o.wide = .ok i) ∧
  (∀ (raw : BitVec 96) (x : Option W64) (i : Instr) (o : Fields), decode raw x = .ok i → i.fields = some o →
    encode i = some (raw, x)) ∧
  (∀ (i : Instr) (o : Fields) (n : Nat), i.fields = some o → i.WellFormed → encodeNat i = some n →
    decodeTableWord (if o.wide = none then 96 else 192) n = some i) ∧
  (∀ (c : Cmd), c.ctx < 2 ^ 16 → c.done < 2 ^ 64 → c.o10 < 2 ^ 64 → c.o18 < 2 ^ 64 → c.o20 < 2 ^ 64 → c.clean = true →
    c.rest = true →
    ∀ i ∈ [Instr.launch c, .reply c, .wait c, .signal c, .invalidate c, .migrate c, .resolve c, .abort c],
      ∃ bs, encodeCommand i = some bs ∧ bs.length = 64 ∧ decodeCommand c.q bs = some i)

/-- R67, R106 to R113, R127, R356, R360, R372: a step makes the next move. A quarter's move, where one group is there
with one live slot, runs the instruction to which the slot's bytes decode; the Harness head's runs the command to
which the head entry's bytes decode; a move of a named step runs that step. The state made for a word runs that word.
The model's choice: the agenda of moves is the model's (log 1), and withFetchWord stands for a program's load (log 2).
-/
def Obligations.StepRunsDecoded : Prop :=
  (∀ (s : State) (i : Instr) (r : List Move), s.agenda = .op i :: r → step s = exec i { s with agenda := r }) ∧
  (∀ (s : State) (r : List Move) (core slot n l e : Nat) (g : Group) (i : Instr) (env : Env),
    s.agenda = .quarter core (slot / 256) :: r → s.groups = [(gkey core slot, g)] → slot < 1024 → s.pair = none →
    let u : State := { s with agenda := r }
    let x := 1 - g.lastPcs
    let p := g.slotAt x
    let me : Issuer := { core := core, slot := slot, pcs := x }
    let stack := stackOfCore core
    let ctx := (u.team g.team).ctx
    let line := leNat ((List.range 64).map fun j => u.keyByte (u.keyNo (pteKey e)) (paOf l e (p.pc / 64 * 64) + j))
    -- the quarter may issue, and the group
    (u.stackSt stack).retention = false → (u.coreSt core).busy.getD (slot / 256) 0 = 0 →
    u.throttleOk core (slot / 256) = true → g.yielded = false → g.svc = none → (u.team g.team).evict = false →
    u.hasAllowance core ctx = true → g.lastPcs ≤ 1 →
    -- one live slot, whose line is there
    p.mask ≠ 0 → p.held = .no → (g.slotAt (1 - x)).mask = 0 → (g.slotAt (1 - x)).held = .no → p.ahead = [] →
    (u.coreSt core).flip = false → p.pc / 64 * 64 / 2 ^ 56 ≠ 1 →
    u.cached ctx stack (p.pc / 64 * 64) false = some (l, e) → u.permit ctx e .exec = none → pteFormat e = 0 →
    slotIndex p.pc = some n → lineCheck line = none → (p.entered = true → lineTarget line n = true) →
    linePair line n = false →
    -- its bytes decode, and nothing waits
    decode (lineSlot line n) (lineImm line n) = .ok i → u.envAt me (instrFields i) = some env →
    u.ringWait i env = false → (isMatrixIssue i = true → u.budgetSpent core = false) → u.waits i env = false →
    step s = exec i { u.selected core slot with cur := me }) ∧
  (∀ (s : State) (r : List Move) (q : Nat) (pas : List (Nat × Nat)) (i : Instr), s.agenda = .head q :: r → s.mayStart q = true →
    let x := s.queue q
    s.headPas x.ctx (x.base + 64 * (x.cons % x.entries)) 64 = some pas →
    let bs := s.headGot pas
    ((field bs 1 1).testBit 0 = true → x.running = []) → decodeCommand q bs = some i →
    ∃ u, step s = exec i u ∧ u.queues = s.queues ∧ SameMemory s u ∧ u.groups = s.groups ∧ u.agenda = r) ∧
  (∀ (nbits w : Nat) (i : Instr) (env : Env), nbits = 96 ∧ w < 2 ^ 96 ∨ nbits = 192 ∧ w < 2 ^ 192 →
    decodeTableWord nbits w = some i →
    let s := State.reset.withFetchWord nbits w
    s.envAt {} (instrFields i) = some env → s.ringWait i env = false → s.waits i env = false →
    step s = exec i { State.selected { s with agenda := [] } 0 0 with cur := {} })

/-- R19, R27, R31, R305, R386, R387, R394, R402, R407, R410, R414, R434, R436, R441, R445, R447, R457, R460: what registers read
after reset, by their tables' Reset columns. -/
def Obligations.ResetValues : Prop :=
  let s := State.reset
  (∀ c < 256, s.regVal 0 (.coreSram c) = 8 ∧ s.regVal 0 (.coreMatstall c) = 0) ∧
  (∀ k < 64, s.regVal 0 (.stkClass k) = 0x22 ∧ s.regVal 0 (.stkImbal k) = 0 ∧ s.regVal 0 (.stkState k) = 0) ∧
  s.regVal 0 .govCap = 2800 ∧ s.regVal 0 .govShare = 100 * 2 ^ 16 + 2800 ∧
  (∀ d < 4, s.regVal 0 (.govMatbudget d) = 0x20 ∧ s.regVal 0 (.govRail d) = 110 * 2 ^ 8 + 110 ∧
    s.regVal 0 (.rndDieworld d) = 0 ∧ s.regVal 0 (.scrubProgress d) = 2 ^ 32 + 64 ∧
    s.regVal 0 (.awlCtl d) = 24 * 2 ^ 8 + 40) ∧
  (∀ k < 576, s.regVal 0 (.awlScore k) = 0) ∧
  (∀ k < 16, s.regVal 0 (.lnkCtl k) = 4 * 2 ^ 16 + 20 * 2 ^ 8 ∧ s.regVal 0 (.lnkStatus k) = 0 ∧
    s.regVal 0 (.domCtl k) = 0) ∧
  (∀ e < 256, s.regVal 0 (.lnkRoute e) = 0x100) ∧
  (∀ w < 27, s.regVal 0 (.parOwn 0 w) = if w = 9 then 2 ^ 48 - 1 else if w = 10 then 2 ^ 20 - 1 else 2 ^ 64 - 1) ∧
  (∀ p < 64, s.regVal 0 (.parCtl p) = 16 * 2 ^ 48 + 110 * 2 ^ 40 + 2 ^ 24 ∧
    s.regVal 0 (.parPower p) = (if p = 0 then 100 * 2 ^ 16 + 2800 else 0) ∧
    (p ≠ 0 → ∀ w < 27, s.regVal 0 (.parOwn p w) = 0)) ∧
  (∀ c < 4096, s.regVal 0 (.ctxCtl c) = 0 ∧ s.regVal 0 (.ctxBucket c) = 0) ∧
  (∀ q < 1024, s.regVal 0 (.qCtl q) = 4 ∧ s.regVal 0 (.qRing q) = 0 ∧ s.regVal 0 (.qIdx q) = 0) ∧
  s.regVal 0 .rndStatus = 0 ∧ s.regVal 0 .hrnClock = 0 ∧ s.groups = [] ∧ s.kernels = []

/-- After reset the invariant holds: nothing is listed in memory, the scratchpads and the tiles. The model's choice:
the list form of memory is the model's, and what it does not list reads as zero (log 3). -/
def Obligations.ResetMeetsInvariant : Prop := State.reset.Inv

/-- Every step keeps memory, the scratchpads and the tiles in canonical form, from every state in which they are; so
no two equal memories are different data. The model's choice: the list form of memory is the model's, and what it does
not list reads as zero (log 3). -/
def Obligations.StepKeepsInvariant : Prop := ∀ s t : State, s.Inv → step s = .next t → t.Inv

/-- R36, R91, R96, R104, R118, R119, R123, R136, R169: what a source delivers to lane `l` at a type: a vector name's word or aligned
pair, zero where unmapped; a scalar register's low bits in every lane; a constant's value; the immediate, widened by the
type; p0 reads all ones. -/
def Obligations.SourcesDeliver : Prop :=
  ∀ (e : Env) (t : Ty) (l : Nat), l < 32 → (∀ c, t ≠ .reserved c) → t ≠ .none → t ≠ .pred →
    let w := t.width
    (∀ n : BitVec 8, w ≤ 32 → e.src (.v n) t l = (laneOf (e.g.v.get [] n.toNat) l).toNat % 2 ^ w) ∧
    (∀ n : BitVec 8, w = 64 → e.src (.v n) t l =
      (laneOf (e.g.v.get [] n.toNat) l).toNat + 2 ^ 32 * (laneOf (e.g.v.get [] (n.toNat + 1)) l).toNat) ∧
    (∀ n : BitVec 8, e.g.v.find? n.toNat = none → e.g.v.find? (n.toNat + 1) = none → e.src (.v n) t l = 0) ∧
    (∀ n : BitVec 6, e.src (.s n) t l = (e.g.sreg.get 0 n.toNat).toNat % 2 ^ w) ∧
    (∀ (n : Fin 3) en, e.g.latchAt n.val = some en → e.src (.latch n) t l = (en.vals.getD l 0).toNat % 2 ^ w) ∧
    (∀ x, e.o.wide = some x → e.src .imm t l = x.toNat % 2 ^ w) ∧
    (e.o.wide = none → w ≤ 32 → e.src .imm t l = e.o.low.toNat % 2 ^ w) ∧
    (e.o.wide = none → t = .i64 → e.src .imm t l = (e.o.low.signExtend 64).toNat) ∧
    (e.o.wide = none → t = .n64 ∨ t = .b64 → e.src .imm t l = e.o.low.toNat) ∧
    e.src (.const 0) t l = 0 ∧
    (t.isFloat = false → 8 ≤ w → e.src (.const 1) t l = 1 ∧ e.src (.const 2) t l = 2 ∧
      e.src (.const 3) t l = 2 ^ w - 1 ∧ e.src (.const 5) t l = 2 ^ w - 1 ∧
      e.src (.const 6) t l = if e.prot then l / 2 else l) ∧
    (t = .f32 → e.src (.const 1) t l = 0x3F800000 ∧ e.src (.const 2) t l = 0x40000000 ∧
      e.src (.const 3) t l = 0xBF800000 ∧ e.src (.const 4) t l = 0x3F000000) ∧
    (t = .f64 → e.src (.const 1) t l = 0x3FF0000000000000 ∧ e.src (.const 2) t l = 0x4000000000000000 ∧
      e.src (.const 3) t l = 0xBFF0000000000000 ∧ e.src (.const 4) t l = 0x3FE0000000000000) ∧
    e.g.predReg 0 = 0xFFFFFFFF

/-- R32, R204, R252, R280, R296, R387: what the outside does: a clock raises its counter and puts what falls due on
the agenda; a host write changes the bytes it names and no others; an uncorrectable error poisons its sector; a line
or entry that is replaced leaves memory as it reads; a scrub's count of cores rises. The model's choice: the agenda of
moves and what puts steps on it are the model's (log 1). -/
def Obligations.OutsideMoves : Prop :=
  (∀ (s : State) (r : List Move) (k : Nat), s.agenda = .tick (.stack k) :: r → k < 64 → (s.stackSt k).retention = false →
    ∃ t, step s = .next t ∧ (t.stackSt k).clock = (s.stackSt k).clock + 1 ∧ Untouched s t ∧
      ((t.stackSt k).clock % 2 ^ 16 = 0 → Move.op (.reconciliationWindow k) ∈ t.agenda) ∧
      ((t.stackSt k).clock % 1024 = 0 → Move.op (.footprintSample k) ∈ t.agenda ∧ Move.op (.imbalRefresh k) ∈ t.agenda)) ∧
  (∀ (s : State) (r : List Move) (k : Nat), s.agenda = .tick (.stack k) :: r → (s.stackSt k).retention = true →
    step s = .next { s with agenda := r }) ∧
  (∀ (s : State) (r : List Move) (d : Nat), s.agenda = .tick (.ref d) :: r → d < 4 →
    ∃ t, step s = .next t ∧ (t.dieSt d).ref = (s.dieSt d).ref + 1 ∧ Untouched s t ∧
      ((t.dieSt d).ref % 1024 = 0 → Move.op (.refillTick d) ∈ t.agenda ∧ Move.op (.railStep d) ∈ t.agenda)) ∧
  (∀ (s : State) (r : List Move), s.agenda = .tick .head :: r →
    ∃ t, step s = .next t ∧ t.headClock = s.headClock + 1 ∧ Untouched s t ∧
      (t.headClock % 2 ^ 30 = 0 → ∀ w, 1 ≤ w → w < 16 → Move.op (.integritySweep w) ∈ t.agenda)) ∧
  (∀ (s : State) (r : List Move) (pa : Nat) (bs : List Byte), s.agenda = .hostWrite pa bs :: r → bs ≠ [] →
    ((tierOfPa pa).isSome = true → tierOfPa pa = tierOfPa (pa + (bs.length - 1)) →
      ∃ t, step s = .next t ∧ WrittenTo s t ((List.range bs.length).map fun i => (0, pa + i, bs.getD i 0)) ∧
        t.groups = s.groups ∧ t.sram = s.sram) ∧
    (tierOfPa pa = none ∨ tierOfPa pa ≠ tierOfPa (pa + (bs.length - 1)) → step s = .fault .noSuchAddress)) ∧
  (∀ (s : State) (r : List Move) (pa : Nat) (bad : Bool), s.agenda = .ecc (.memory pa) bad :: r →
    ∃ t, step s = .next t ∧ Untouched s t ∧ (bad = true → pa / 32 ∈ t.poison) ∧ (bad = false → t.poison = s.poison)) ∧
  (∀ (s : State) (r : List Move) (m : Move), s.agenda = m :: r →
    (∃ a b, m = .l1Evict a b) ∨ (∃ a b, m = .tlbEvict a b) ∨ (∃ a, m = .l2Evict a) →
    ∃ t, step s = .next t ∧ Untouched s t ∧
      ∀ k pa, tierOfPa pa ≠ some 2 → t.keyByte k pa = s.keyByte k pa) ∧
  (∀ (s : State) (r : List Move) (die : Nat), s.agenda = .scrubCore die :: r → let d := s.dieSt die
    let u : State := { s with agenda := r }
    step s = .next (if d.busy = true ∧ d.cores < 64 then u.setDie die { d with cores := d.cores + 1 } else u)) ∧
  (∀ (s : State) (r : List Move) (core slot x half : Nat), s.agenda = .fetchAhead core slot x half :: r →
    ∃ t, step s = .next t ∧ SameRegisters s t ∧ SameMemory s t ∧ t.sram = s.sram ∧ t.tile = s.tile)
end

