-- ==== Sys2Proof/Laws/Dispatch.lean ====
section
/-! SUPPORT. The meaning that each constructor's arm calls. -/

namespace Sys2Proof.Laws

open Sys2Proof Sys2Proof.Machine

@[simp] theorem exec_sadd (o : Fields) (s : State) : exec (.sadd o) s = execSadd o s := rfl
@[simp] theorem exec_ssub (o : Fields) (s : State) : exec (.ssub o) s = execSsub o s := rfl
@[simp] theorem exec_smin (o : Fields) (s : State) : exec (.smin o) s = execSmin o s := rfl
@[simp] theorem exec_smax (o : Fields) (s : State) : exec (.smax o) s = execSmax o s := rfl
@[simp] theorem exec_smul (o : Fields) (s : State) : exec (.smul o) s = execSmul o s := rfl
@[simp] theorem exec_smulh (o : Fields) (s : State) : exec (.smulh o) s = execSmulh o s := rfl
@[simp] theorem exec_smad (o : Fields) (s : State) : exec (.smad o) s = execSmad o s := rfl
@[simp] theorem exec_sand (o : Fields) (s : State) : exec (.sand o) s = execSand o s := rfl
@[simp] theorem exec_sor (o : Fields) (s : State) : exec (.sor o) s = execSor o s := rfl
@[simp] theorem exec_sxor (o : Fields) (s : State) : exec (.sxor o) s = execSxor o s := rfl
@[simp] theorem exec_sandn (o : Fields) (s : State) : exec (.sandn o) s = execSandn o s := rfl
@[simp] theorem exec_sshl (o : Fields) (s : State) : exec (.sshl o) s = execSshl o s := rfl
@[simp] theorem exec_sshr (o : Fields) (s : State) : exec (.sshr o) s = execSshr o s := rfl
@[simp] theorem exec_ssra (o : Fields) (s : State) : exec (.ssra o) s = execSsra o s := rfl
@[simp] theorem exec_spopc (o : Fields) (s : State) : exec (.spopc o) s = execSpopc o s := rfl
@[simp] theorem exec_sclz (o : Fields) (s : State) : exec (.sclz o) s = execSclz o s := rfl
@[simp] theorem exec_sbfe (o : Fields) (s : State) : exec (.sbfe o) s = execSbfe o s := rfl
@[simp] theorem exec_sbfi (o : Fields) (s : State) : exec (.sbfi o) s = execSbfi o s := rfl
@[simp] theorem exec_scmp (o : Fields) (s : State) : exec (.scmp o) s = execScmp o s := rfl
@[simp] theorem exec_ssel (o : Fields) (s : State) : exec (.ssel o) s = execSsel o s := rfl
@[simp] theorem exec_smov (o : Fields) (s : State) : exec (.smov o) s = execSmov o s := rfl
@[simp] theorem exec_slea (o : Fields) (s : State) : exec (.slea o) s = execSlea o s := rfl
@[simp] theorem exec_smovi (o : Fields) (s : State) : exec (.smovi o) s = execSmovi o s := rfl
@[simp] theorem exec_bra (o : Fields) (s : State) : exec (.bra o) s = execBra o s := rfl
@[simp] theorem exec_brx (o : Fields) (s : State) : exec (.brx o) s = execBrx o s := rfl
@[simp] theorem exec_call (o : Fields) (s : State) : exec (.call o) s = execCall o s := rfl
@[simp] theorem exec_callx (o : Fields) (s : State) : exec (.callx o) s = execCallx o s := rfl
@[simp] theorem exec_ret (o : Fields) (s : State) : exec (.ret o) s = execRet o s := rfl
@[simp] theorem exec_bru (all : Bool) (o : Fields) (s : State) : exec (.bru all o) s = execBru all o s := rfl
@[simp] theorem exec_dbr (o : Fields) (s : State) : exec (.dbr o) s = execDbr o s := rfl
@[simp] theorem exec_rcv (o : Fields) (s : State) : exec (.rcv o) s = execRcv o s := rfl
@[simp] theorem exec_loop (o : Fields) (s : State) : exec (.loop o) s = execLoop o s := rfl
@[simp] theorem exec_exit (o : Fields) (s : State) : exec (.exit o) s = execExit o s := rfl
@[simp] theorem exec_yield (o : Fields) (s : State) : exec (.yield o) s = execYield o s := rfl
@[simp] theorem exec_nop (o : Fields) (s : State) : exec (.nop o) s = execNop o s := rfl
@[simp] theorem exec_vadd (o : Fields) (s : State) : exec (.vadd o) s = execVadd o s := rfl
@[simp] theorem exec_vsub (o : Fields) (s : State) : exec (.vsub o) s = execVsub o s := rfl
@[simp] theorem exec_vmul (o : Fields) (s : State) : exec (.vmul o) s = execVmul o s := rfl
@[simp] theorem exec_vmulh (o : Fields) (s : State) : exec (.vmulh o) s = execVmulh o s := rfl
@[simp] theorem exec_vmad (o : Fields) (s : State) : exec (.vmad o) s = execVmad o s := rfl
@[simp] theorem exec_vmadw (o : Fields) (s : State) : exec (.vmadw o) s = execVmadw o s := rfl
@[simp] theorem exec_vdot4 (o : Fields) (s : State) : exec (.vdot4 o) s = execVdot4 o s := rfl
@[simp] theorem exec_vabs (o : Fields) (s : State) : exec (.vabs o) s = execVabs o s := rfl
@[simp] theorem exec_vneg (o : Fields) (s : State) : exec (.vneg o) s = execVneg o s := rfl
@[simp] theorem exec_vmin (o : Fields) (s : State) : exec (.vmin o) s = execVmin o s := rfl
@[simp] theorem exec_vmax (o : Fields) (s : State) : exec (.vmax o) s = execVmax o s := rfl
@[simp] theorem exec_vand (o : Fields) (s : State) : exec (.vand o) s = execVand o s := rfl
@[simp] theorem exec_vor (o : Fields) (s : State) : exec (.vor o) s = execVor o s := rfl
@[simp] theorem exec_vxor (o : Fields) (s : State) : exec (.vxor o) s = execVxor o s := rfl
@[simp] theorem exec_vnot (o : Fields) (s : State) : exec (.vnot o) s = execVnot o s := rfl
@[simp] theorem exec_vshl (o : Fields) (s : State) : exec (.vshl o) s = execVshl o s := rfl
@[simp] theorem exec_vshr (o : Fields) (s : State) : exec (.vshr o) s = execVshr o s := rfl
@[simp] theorem exec_vsra (o : Fields) (s : State) : exec (.vsra o) s = execVsra o s := rfl
@[simp] theorem exec_vrot (o : Fields) (s : State) : exec (.vrot o) s = execVrot o s := rfl
@[simp] theorem exec_vpopc (o : Fields) (s : State) : exec (.vpopc o) s = execVpopc o s := rfl
@[simp] theorem exec_vclz (o : Fields) (s : State) : exec (.vclz o) s = execVclz o s := rfl
@[simp] theorem exec_vbrev (o : Fields) (s : State) : exec (.vbrev o) s = execVbrev o s := rfl
@[simp] theorem exec_vbfe (o : Fields) (s : State) : exec (.vbfe o) s = execVbfe o s := rfl
@[simp] theorem exec_vbfi (o : Fields) (s : State) : exec (.vbfi o) s = execVbfi o s := rfl
@[simp] theorem exec_vsel (o : Fields) (s : State) : exec (.vsel o) s = execVsel o s := rfl
@[simp] theorem exec_vmov (o : Fields) (s : State) : exec (.vmov o) s = execVmov o s := rfl
@[simp] theorem exec_vmovs (o : Fields) (s : State) : exec (.vmovs o) s = execVmovs o s := rfl
@[simp] theorem exec_vcmp (o : Fields) (s : State) : exec (.vcmp o) s = execVcmp o s := rfl
@[simp] theorem exec_pand (o : Fields) (s : State) : exec (.pand o) s = execPand o s := rfl
@[simp] theorem exec_por (o : Fields) (s : State) : exec (.por o) s = execPor o s := rfl
@[simp] theorem exec_pxor (o : Fields) (s : State) : exec (.pxor o) s = execPxor o s := rfl
@[simp] theorem exec_pnot (o : Fields) (s : State) : exec (.pnot o) s = execPnot o s := rfl
@[simp] theorem exec_pmov (o : Fields) (s : State) : exec (.pmov o) s = execPmov o s := rfl
@[simp] theorem exec_pcnt (o : Fields) (s : State) : exec (.pcnt o) s = execPcnt o s := rfl
@[simp] theorem exec_pffs (o : Fields) (s : State) : exec (.pffs o) s = execPffs o s := rfl
@[simp] theorem exec_fadd (o : Fields) (s : State) : exec (.fadd o) s = execFadd o s := rfl
@[simp] theorem exec_fsub (o : Fields) (s : State) : exec (.fsub o) s = execFsub o s := rfl
@[simp] theorem exec_fmul (o : Fields) (s : State) : exec (.fmul o) s = execFmul o s := rfl
@[simp] theorem exec_ffma (o : Fields) (s : State) : exec (.ffma o) s = execFfma o s := rfl
@[simp] theorem exec_fmin (o : Fields) (s : State) : exec (.fmin o) s = execFmin o s := rfl
@[simp] theorem exec_fmax (o : Fields) (s : State) : exec (.fmax o) s = execFmax o s := rfl
@[simp] theorem exec_fminNan (o : Fields) (s : State) : exec (.fminNan o) s = execFminNan o s := rfl
@[simp] theorem exec_fmaxNan (o : Fields) (s : State) : exec (.fmaxNan o) s = execFmaxNan o s := rfl
@[simp] theorem exec_fcmp (o : Fields) (s : State) : exec (.fcmp o) s = execFcmp o s := rfl
@[simp] theorem exec_fclass (o : Fields) (s : State) : exec (.fclass o) s = execFclass o s := rfl
@[simp] theorem exec_fscale (o : Fields) (s : State) : exec (.fscale o) s = execFscale o s := rfl
@[simp] theorem exec_frnd (o : Fields) (s : State) : exec (.frnd o) s = execFrnd o s := rfl
@[simp] theorem exec_fdiv (o : Fields) (s : State) : exec (.fdiv o) s = execFdiv o s := rfl
@[simp] theorem exec_fsqrt (o : Fields) (s : State) : exec (.fsqrt o) s = execFsqrt o s := rfl
@[simp] theorem exec_frcp (o : Fields) (s : State) : exec (.frcp o) s = execFrcp o s := rfl
@[simp] theorem exec_frsq (o : Fields) (s : State) : exec (.frsq o) s = execFrsq o s := rfl
@[simp] theorem exec_fexp2 (o : Fields) (s : State) : exec (.fexp2 o) s = execFexp2 o s := rfl
@[simp] theorem exec_flog2 (o : Fields) (s : State) : exec (.flog2 o) s = execFlog2 o s := rfl
@[simp] theorem exec_fsinpi (o : Fields) (s : State) : exec (.fsinpi o) s = execFsinpi o s := rfl
@[simp] theorem exec_fcospi (o : Fields) (s : State) : exec (.fcospi o) s = execFcospi o s := rfl
@[simp] theorem exec_cvt (o : Fields) (s : State) : exec (.cvt o) s = execCvt o s := rfl
@[simp] theorem exec_qcvt (o : Fields) (s : State) : exec (.qcvt o) s = execQcvt o s := rfl
@[simp] theorem exec_shfl (mode : ShflMode) (o : Fields) (s : State) : exec (.shfl mode o) s = execShfl mode o s := rfl
@[simp] theorem exec_vote (mode : VoteMode) (o : Fields) (s : State) : exec (.vote mode o) s = execVote mode o s := rfl
@[simp] theorem exec_vred (o : Fields) (s : State) : exec (.vred o) s = execVred o s := rfl
@[simp] theorem exec_vscan (o : Fields) (s : State) : exec (.vscan o) s = execVscan o s := rfl
@[simp] theorem exec_vfirst (o : Fields) (s : State) : exec (.vfirst o) s = execVfirst o s := rfl
@[simp] theorem exec_lds (o : Fields) (s : State) : exec (.lds o) s = execLds o s := rfl
@[simp] theorem exec_sts (o : Fields) (s : State) : exec (.sts o) s = execSts o s := rfl
@[simp] theorem exec_ldsc (o : Fields) (s : State) : exec (.ldsc o) s = execLdsc o s := rfl
@[simp] theorem exec_stsc (o : Fields) (s : State) : exec (.stsc o) s = execStsc o s := rfl
@[simp] theorem exec_ldgRaw (o : Fields) (s : State) : exec (.ldgRaw o) s = execLdgRaw o s := rfl
@[simp] theorem exec_ldgElem (o : Fields) (s : State) : exec (.ldgElem o) s = execLdgElem o s := rfl
@[simp] theorem exec_stgRaw (o : Fields) (s : State) : exec (.stgRaw o) s = execStgRaw o s := rfl
@[simp] theorem exec_stgElem (o : Fields) (s : State) : exec (.stgElem o) s = execStgElem o s := rfl
@[simp] theorem exec_atoms (o : Fields) (s : State) : exec (.atoms o) s = execAtoms o s := rfl
@[simp] theorem exec_atomg (o : Fields) (s : State) : exec (.atomg o) s = execAtomg o s := rfl
@[simp] theorem exec_red (o : Fields) (s : State) : exec (.red o) s = execRed o s := rfl
@[simp] theorem exec_fence (o : Fields) (s : State) : exec (.fence o) s = execFence o s := rfl
@[simp] theorem exec_waitc (o : Fields) (s : State) : exec (.waitc o) s = execWaitc o s := rfl
@[simp] theorem exec_pref (o : Fields) (s : State) : exec (.pref o) s = execPref o s := rfl
@[simp] theorem exec_cinv (o : Fields) (s : State) : exec (.cinv o) s = execCinv o s := rfl
@[simp] theorem exec_gang (o : Fields) (s : State) : exec (.gang o) s = execGang o s := rfl
@[simp] theorem exec_mma (o : Fields) (s : State) : exec (.mma o) s = execMma o s := rfl
@[simp] theorem exec_mzero (o : Fields) (s : State) : exec (.mzero o) s = execMzero o s := rfl
@[simp] theorem exec_mld (o : Fields) (s : State) : exec (.mld o) s = execMld o s := rfl
@[simp] theorem exec_mst (o : Fields) (s : State) : exec (.mst o) s = execMst o s := rfl
@[simp] theorem exec_mmov (o : Fields) (s : State) : exec (.mmov o) s = execMmov o s := rfl
@[simp] theorem exec_mfence (o : Fields) (s : State) : exec (.mfence o) s = execMfence o s := rfl
@[simp] theorem exec_mwait (o : Fields) (s : State) : exec (.mwait o) s = execMwait o s := rfl
@[simp] theorem exec_cpy (o : Fields) (s : State) : exec (.cpy o) s = execCpy o s := rfl
@[simp] theorem exec_tcpy (o : Fields) (s : State) : exec (.tcpy o) s = execTcpy o s := rfl
@[simp] theorem exec_coll (o : Fields) (s : State) : exec (.coll o) s = execColl o s := rfl
@[simp] theorem exec_spawn (o : Fields) (s : State) : exec (.spawn o) s = execSpawn o s := rfl
@[simp] theorem exec_jdec (o : Fields) (s : State) : exec (.jdec o) s = execJdec o s := rfl
@[simp] theorem exec_bar (o : Fields) (s : State) : exec (.bar o) s = execBar o s := rfl
@[simp] theorem exec_bara (o : Fields) (s : State) : exec (.bara o) s = execBara o s := rfl
@[simp] theorem exec_barw (o : Fields) (s : State) : exec (.barw o) s = execBarw o s := rfl
@[simp] theorem exec_barn (o : Fields) (s : State) : exec (.barn o) s = execBarn o s := rfl
@[simp] theorem exec_cbar (o : Fields) (s : State) : exec (.cbar o) s = execCbar o s := rfl
@[simp] theorem exec_dbar (o : Fields) (s : State) : exec (.dbar o) s = execDbar o s := rfl
@[simp] theorem exec_srd (o : Fields) (s : State) : exec (.srd o) s = execSrd o s := rfl
@[simp] theorem exec_swr (o : Fields) (s : State) : exec (.swr o) s = execSwr o s := rfl
@[simp] theorem exec_trap (o : Fields) (s : State) : exec (.trap o) s = execTrap o s := rfl
@[simp] theorem exec_svc (o : Fields) (s : State) : exec (.svc o) s = execSvc o s := rfl
@[simp] theorem exec_enrd (form : EnrdForm) (o : Fields) (s : State) : exec (.enrd form o) s = execEnrd form o s := rfl
@[simp] theorem exec_caprd (o : Fields) (s : State) : exec (.caprd o) s = execCaprd o s := rfl
@[simp] theorem exec_deferredReturn (id : Nat) (s : State) : exec (.deferredReturn id) s = execDeferredReturn id s := rfl
@[simp] theorem exec_globalAccessPerformed (id : Nat) (s : State) : exec (.globalAccessPerformed id) s = execGlobalAccessPerformed id s := rfl
@[simp] theorem exec_pageWalkComplete (id : Nat) (s : State) : exec (.pageWalkComplete id) s = execPageWalkComplete id s := rfl
@[simp] theorem exec_faultRecordWrite (id : Nat) (s : State) : exec (.faultRecordWrite id) s = execFaultRecordWrite id s := rfl
@[simp] theorem exec_divergenceStackPopReturn (core : Nat) (slot : Nat) (s : State) : exec (.divergenceStackPopReturn core slot) s = execDivergenceStackPopReturn core slot s := rfl
@[simp] theorem exec_cinchRelease (core : Nat) (slot : Nat) (s : State) : exec (.cinchRelease core slot) s = execCinchRelease core slot s := rfl
@[simp] theorem exec_matrixFetchComplete (id : Nat) (s : State) : exec (.matrixFetchComplete id) s = execMatrixFetchComplete id s := rfl
@[simp] theorem exec_matrixComputeComplete (id : Nat) (s : State) : exec (.matrixComputeComplete id) s = execMatrixComputeComplete id s := rfl
@[simp] theorem exec_copyComplete (id : Nat) (s : State) : exec (.copyComplete id) s = execCopyComplete id s := rfl
@[simp] theorem exec_collectiveComplete (id : Nat) (s : State) : exec (.collectiveComplete id) s = execCollectiveComplete id s := rfl
@[simp] theorem exec_collectiveAbort (id : Nat) (why : CollEnd) (s : State) : exec (.collectiveAbort id why) s = execCollectiveAbort id why s := rfl
@[simp] theorem exec_teamRetirementStep (kid : Nat) (s : State) : exec (.teamRetirementStep kid) s = execTeamRetirementStep kid s := rfl
@[simp] theorem exec_poolRecordEntry (kid : Nat) (s : State) : exec (.poolRecordEntry kid) s = execPoolRecordEntry kid s := rfl
@[simp] theorem exec_doorbell (fn : Nat) (q : Nat) (producer : W32) (s : State) : exec (.doorbell fn q producer) s = execDoorbell fn q producer s := rfl
@[simp] theorem exec_launch (c : Cmd) (s : State) : exec (.launch c) s = execLaunch c s := rfl
@[simp] theorem exec_reply (c : Cmd) (s : State) : exec (.reply c) s = execReply c s := rfl
@[simp] theorem exec_wait (c : Cmd) (s : State) : exec (.wait c) s = execWait c s := rfl
@[simp] theorem exec_waitPoll (q : Nat) (s : State) : exec (.waitPoll q) s = execWaitPoll q s := rfl
@[simp] theorem exec_signal (c : Cmd) (s : State) : exec (.signal c) s = execSignal c s := rfl
@[simp] theorem exec_invalidate (c : Cmd) (s : State) : exec (.invalidate c) s = execInvalidate c s := rfl
@[simp] theorem exec_invalidationDone (id : Nat) (s : State) : exec (.invalidationDone id) s = execInvalidationDone id s := rfl
@[simp] theorem exec_migrate (c : Cmd) (s : State) : exec (.migrate c) s = execMigrate c s := rfl
@[simp] theorem exec_migrationDone (id : Nat) (s : State) : exec (.migrationDone id) s = execMigrationDone id s := rfl
@[simp] theorem exec_resolve (c : Cmd) (s : State) : exec (.resolve c) s = execResolve c s := rfl
@[simp] theorem exec_abort (c : Cmd) (s : State) : exec (.abort c) s = execAbort c s := rfl
@[simp] theorem exec_queueSelection (die : Nat) (s : State) : exec (.queueSelection die) s = execQueueSelection die s := rfl
@[simp] theorem exec_setPlacement (die : Nat) (s : State) : exec (.setPlacement die) s = execSetPlacement die s := rfl
@[simp] theorem exec_classChange (stk : Nat) (s : State) : exec (.classChange stk) s = execClassChange stk s := rfl
@[simp] theorem exec_teamEviction (uid : Nat) (s : State) : exec (.teamEviction uid) s = execTeamEviction uid s := rfl
@[simp] theorem exec_teamRestore (uid : Nat) (s : State) : exec (.teamRestore uid) s = execTeamRestore uid s := rfl
@[simp] theorem exec_kernelComplete (kid : Nat) (s : State) : exec (.kernelComplete kid) s = execKernelComplete kid s := rfl
@[simp] theorem exec_abortCleanup (kid : Nat) (s : State) : exec (.abortCleanup kid) s = execAbortCleanup kid s := rfl
@[simp] theorem exec_deadlineExpiry (kid : Nat) (s : State) : exec (.deadlineExpiry kid) s = execDeadlineExpiry kid s := rfl
@[simp] theorem exec_reconciliationWindow (stk : Nat) (s : State) : exec (.reconciliationWindow stk) s = execReconciliationWindow stk s := rfl
@[simp] theorem exec_footprintSample (stk : Nat) (s : State) : exec (.footprintSample stk) s = execFootprintSample stk s := rfl
@[simp] theorem exec_refillTick (die : Nat) (s : State) : exec (.refillTick die) s = execRefillTick die s := rfl
@[simp] theorem exec_grantRequest (core : Nat) (ctx : Nat) (s : State) : exec (.grantRequest core ctx) s = execGrantRequest core ctx s := rfl
@[simp] theorem exec_create (fn : Nat) (ctx : Nat) (s : State) : exec (.create fn ctx) s = execCreate fn ctx s := rfl
@[simp] theorem exec_teardown (fn : Nat) (ctx : Nat) (s : State) : exec (.teardown fn ctx) s = execTeardown fn ctx s := rfl
@[simp] theorem exec_teardownComplete (ctx : Nat) (s : State) : exec (.teardownComplete ctx) s = execTeardownComplete ctx s := rfl
@[simp] theorem exec_free (fn : Nat) (ctx : Nat) (s : State) : exec (.free fn ctx) s = execFree fn ctx s := rfl
@[simp] theorem exec_evict (fn : Nat) (ctx : Nat) (s : State) : exec (.evict fn ctx) s = execEvict fn ctx s := rfl
@[simp] theorem exec_resume (fn : Nat) (ctx : Nat) (s : State) : exec (.resume fn ctx) s = execResume fn ctx s := rfl
@[simp] theorem exec_integritySweep (world : Nat) (s : State) : exec (.integritySweep world) s = execIntegritySweep world s := rfl
@[simp] theorem exec_dieWorldRequest (fn : Nat) (die : Nat) (target : BitVec 4) (s : State) : exec (.dieWorldRequest fn die target) s = execDieWorldRequest fn die target s := rfl
@[simp] theorem exec_dieWorldChange (die : Nat) (s : State) : exec (.dieWorldChange die) s = execDieWorldChange die s := rfl
@[simp] theorem exec_scrubComplete (die : Nat) (s : State) : exec (.scrubComplete die) s = execScrubComplete die s := rfl
@[simp] theorem exec_leaseStart (die : Nat) (s : State) : exec (.leaseStart die) s = execLeaseStart die s := rfl
@[simp] theorem exec_graceWindowExpiry (core : Nat) (s : State) : exec (.graceWindowExpiry core) s = execGraceWindowExpiry core s := rfl
@[simp] theorem exec_coreDrained (core : Nat) (s : State) : exec (.coreDrained core) s = execCoreDrained core s := rfl
@[simp] theorem exec_testPass (core : Nat) (s : State) : exec (.testPass core) s = execTestPass core s := rfl
@[simp] theorem exec_testFail (core : Nat) (pattern : Nat) (s : State) : exec (.testFail core pattern) s = execTestFail core pattern s := rfl
@[simp] theorem exec_periodBoundary (die : Nat) (s : State) : exec (.periodBoundary die) s = execPeriodBoundary die s := rfl
@[simp] theorem exec_channelLeaseEnd (u : Unit') (s : State) : exec (.channelLeaseEnd u) s = execChannelLeaseEnd u s := rfl
@[simp] theorem exec_confirmChannelRetirement (fn : Nat) (k : Nat) (s : State) : exec (.confirmChannelRetirement fn k) s = execConfirmChannelRetirement fn k s := rfl
@[simp] theorem exec_imbalRefresh (stk : Nat) (s : State) : exec (.imbalRefresh stk) s = execImbalRefresh stk s := rfl
@[simp] theorem exec_matbudgetWindow (core : Nat) (s : State) : exec (.matbudgetWindow core) s = execMatbudgetWindow core s := rfl
@[simp] theorem exec_retentionEntry (stk : Nat) (s : State) : exec (.retentionEntry stk) s = execRetentionEntry stk s := rfl
@[simp] theorem exec_retentionExit (stk : Nat) (lost : BitVec 4) (s : State) : exec (.retentionExit stk lost) s = execRetentionExit stk lost s := rfl
@[simp] theorem exec_linkEnable (fn : Nat) (k : Nat) (value : W64) (s : State) : exec (.linkEnable fn k value) s = execLinkEnable fn k value s := rfl
@[simp] theorem exec_lanesTrained (k : Nat) (s : State) : exec (.lanesTrained k) s = execLanesTrained k s := rfl
@[simp] theorem exec_linkKeysInstalled (k : Nat) (peer : BitVec 16) (s : State) : exec (.linkKeysInstalled k peer) s = execLinkKeysInstalled k peer s := rfl
@[simp] theorem exec_linkTrainTimeout (k : Nat) (s : State) : exec (.linkTrainTimeout k) s = execLinkTrainTimeout k s := rfl
@[simp] theorem exec_flitReceive (k : Nat) (f : Flit) (s : State) : exec (.flitReceive k f) s = execFlitReceive k f s := rfl
@[simp] theorem exec_keyUpdate (k : Nat) (sending : Bool) (s : State) : exec (.keyUpdate k sending) s = execKeyUpdate k sending s := rfl
@[simp] theorem exec_heartbeatSend (k : Nat) (s : State) : exec (.heartbeatSend k) s = execHeartbeatSend k s := rfl
@[simp] theorem exec_heartbeatTimeout (k : Nat) (s : State) : exec (.heartbeatTimeout k) s = execHeartbeatTimeout k s := rfl
@[simp] theorem exec_linkLoopTestEnd (k : Nat) (pass : Bool) (s : State) : exec (.linkLoopTestEnd k pass) s = execLinkLoopTestEnd k pass s := rfl
@[simp] theorem exec_flitResend (k : Nat) (s : State) : exec (.flitResend k) s = execFlitResend k s := rfl
@[simp] theorem exec_form (fn : Nat) (m : Nat) (s : State) : exec (.form fn m) s = execForm fn m s := rfl
@[simp] theorem exec_domainFormed (m : Nat) (result : Nat) (s : State) : exec (.domainFormed m result) s = execDomainFormed m result s := rfl
@[simp] theorem exec_leave (fn : Nat) (m : Nat) (s : State) : exec (.leave fn m) s = execLeave fn m s := rfl
@[simp] theorem exec_leaveMessage (m : Nat) (x : DomFrom) (s : State) : exec (.leaveMessage m x) s = execLeaveMessage m x s := rfl
@[simp] theorem exec_rankTimeout (m : Nat) (rank : Nat) (s : State) : exec (.rankTimeout m rank) s = execRankTimeout m rank s := rfl
@[simp] theorem exec_breakMsg (m : Nat) (x : DomBreak) (s : State) : exec (.breakMsg m x) s = execBreakMsg m x s := rfl
@[simp] theorem exec_spareTakeover (m : Nat) (attested : Bool) (s : State) : exec (.spareTakeover m attested) s = execSpareTakeover m attested s := rfl
@[simp] theorem exec_dbarArrivalMessage (m : Nat) (x : DomFrom) (value : W32) (early : Bool) (s : State) : exec (.dbarArrivalMessage m x value early) s = execDbarArrivalMessage m x value early s := rfl
@[simp] theorem exec_rekey (m : Nat) (s : State) : exec (.rekey m) s = execRekey m s := rfl
@[simp] theorem exec_domainDataMessage (m : Nat) (msg : DomMsg) (s : State) : exec (.domainDataMessage m msg) s = execDomainDataMessage m msg s := rfl
@[simp] theorem exec_windowAccessService (m : Nat) (req : WinReq) (s : State) : exec (.windowAccessService m req) s = execWindowAccessService m req s := rfl
@[simp] theorem exec_offer (k : Nat) (unused : Nat) (s : State) : exec (.offer k unused) s = execOffer k unused s := rfl
@[simp] theorem exec_take (k : Nat) (watts : Nat) (s : State) : exec (.take k watts) s = execTake k watts s := rfl
@[simp] theorem exec_ack (k : Nat) (watts : Nat) (s : State) : exec (.ack k watts) s = execAck k watts s := rfl
@[simp] theorem exec_reclaim (k : Nat) (s : State) : exec (.reclaim k) s = execReclaim k s := rfl
@[simp] theorem exec_returnMsg (k : Nat) (s : State) : exec (.returnMsg k) s = execReturnMsg k s := rfl
@[simp] theorem exec_reclaimTimeout (k : Nat) (s : State) : exec (.reclaimTimeout k) s = execReclaimTimeout k s := rfl
@[simp] theorem exec_railStep (die : Nat) (s : State) : exec (.railStep die) s = execRailStep die s := rfl
@[simp] theorem exec_parOwnWrite (fn : Nat) (p : Nat) (w : Nat) (value : W64) (s : State) : exec (.parOwnWrite fn p w value) s = execParOwnWrite fn p w value s := rfl
@[simp] theorem exec_activate (fn : Nat) (f : Nat) (s : State) : exec (.activate fn f) s = execActivate fn f s := rfl
@[simp] theorem exec_suspend (fn : Nat) (f : Nat) (s : State) : exec (.suspend fn f) s = execSuspend fn f s := rfl
@[simp] theorem exec_vfSuspended (f : Nat) (s : State) : exec (.vfSuspended f) s = execVfSuspended f s := rfl
@[simp] theorem exec_vfResume (fn : Nat) (f : Nat) (s : State) : exec (.vfResume fn f) s = execVfResume fn f s := rfl
@[simp] theorem exec_disable (fn : Nat) (f : Nat) (s : State) : exec (.disable fn f) s = execDisable fn f s := rfl
@[simp] theorem exec_burstArrival (ch : Nat) (p : Nat) (id : Nat) (s : State) : exec (.burstArrival ch p id) s = execBurstArrival ch p id s := rfl
@[simp] theorem exec_burstServe (ch : Nat) (s : State) : exec (.burstServe ch) s = execBurstServe ch s := rfl
@[simp] theorem exec_snpTrigger (fn : Nat) (s : State) : exec (.snpTrigger fn) s = execSnpTrigger fn s := rfl
@[simp] theorem exec_snpRead (fn : Nat) (addr : W64) (s : State) : exec (.snpRead fn addr) s = execSnpRead fn addr s := rfl
@[simp] theorem exec_exportContext (fn : Nat) (ctx : Nat) (s : State) : exec (.exportContext fn ctx) s = execExportContext fn ctx s := rfl
@[simp] theorem exec_exportPartition (fn : Nat) (ctx : Nat) (s : State) : exec (.exportPartition fn ctx) s = execExportPartition fn ctx s := rfl
@[simp] theorem exec_counterReadClear (fn : Nat) (reg : Reg) (s : State) : exec (.counterReadClear fn reg) s = execCounterReadClear fn reg s := rfl
@[simp] theorem exec_registerWrite (fn : Nat) (reg : Reg) (value : W64) (s : State) : exec (.registerWrite fn reg value) s = execRegisterWrite fn reg value s := rfl
@[simp] theorem exec_fundamentalReset (bad : Nat) (s : State) : exec (.fundamentalReset bad) s = execFundamentalReset bad s := rfl
@[simp] theorem exec_bringupReady (s : State) : exec .bringupReady s = execBringupReady s := rfl
@[simp] theorem exec_vfReset (f : Nat) (s : State) : exec (.vfReset f) s = execVfReset f s := rfl
@[simp] theorem exec_pfReset (s : State) : exec .pfReset s = execPfReset s := rfl
@[simp] theorem exec_unassignedOpcode (raw : BitVec 96) (s : State) : exec (.unassignedOpcode raw) s = execUnassignedOpcode raw s := rfl
@[simp] theorem exec_queueUrgent (q : Nat) (s : State) : exec (.queueUrgent q) s = execQueueUrgent q s := rfl
@[simp] theorem exec_ideStreamKeyed (f : Nat) (secure : Bool) (s : State) : exec (.ideStreamKeyed f secure) s = execIdeStreamKeyed f secure s := rfl
@[simp] theorem exec_retirementLogExport (s : State) : exec .retirementLogExport s = execRetirementLogExport s := rfl
@[simp] theorem exec_leaveAcknowledged (m : Nat) (x : DomFrom) (s : State) : exec (.leaveAcknowledged m x) s = execLeaveAcknowledged m x s := rfl
@[simp] theorem exec_newMasterSecret (m : Nat) (failed : Nat) (spare : Nat) (s : State) : exec (.newMasterSecret m failed spare) s = execNewMasterSecret m failed spare s := rfl
@[simp] theorem exec_sendReclaim (k : Nat) (s : State) : exec (.sendReclaim k) s = execSendReclaim k s := rfl

end Sys2Proof.Laws
end

