-- ==== Sys2Proof/Laws/Tables.lean ====
section
/-! SUPPORT. Laws of the sparse tables: reading after writing, and the canonical form of a byte array. -/

namespace Sys2Proof

open Sys2Proof.Machine

namespace Laws

variable {α : Type}

@[simp] theorem find_put_same (t : Tbl α) (k : Nat) (v : α) : Tbl.find? (Tbl.put t k v) k = some v := by
  induction t with
  | nil => simp [Tbl.put, Tbl.find?]
  | cons e r ih => obtain ⟨j, w⟩ := e; unfold Tbl.put; (repeat' split) <;> simp_all [Tbl.find?]

theorem find_put_ne (t : Tbl α) (k j : Nat) (v : α) (h : j ≠ k) : Tbl.find? (Tbl.put t k v) j = Tbl.find? t j := by
  induction t with
  | nil => simp [Tbl.put, Tbl.find?, h]
  | cons e r ih => obtain ⟨i, w⟩ := e; unfold Tbl.put; (repeat' split) <;> simp_all [Tbl.find?]

@[simp] theorem find_erase_same (t : Tbl α) (k : Nat) : Tbl.find? (Tbl.erase t k) k = none := by
  induction t with
  | nil => rfl
  | cons e r ih => obtain ⟨i, w⟩ := e; unfold Tbl.erase; split <;> simp_all [Tbl.find?]

theorem find_erase_ne (t : Tbl α) (k j : Nat) (h : j ≠ k) : Tbl.find? (Tbl.erase t k) j = Tbl.find? t j := by
  induction t with
  | nil => rfl
  | cons e r ih => obtain ⟨i, w⟩ := e; unfold Tbl.erase; split <;> simp_all [Tbl.find?]

theorem find_put (t : Tbl α) (k j : Nat) (v : α) :
    Tbl.find? (Tbl.put t k v) j = if j = k then some v else Tbl.find? t j := by
  split
  · subst_vars; simp
  · exact find_put_ne _ _ _ _ ‹_›

theorem find_erase (t : Tbl α) (k j : Nat) :
    Tbl.find? (Tbl.erase t k) j = if j = k then none else Tbl.find? t j := by
  split
  · subst_vars; simp
  · exact find_erase_ne _ _ _ ‹_›

@[simp] theorem get_put_same (d : α) (t : Tbl α) (k : Nat) (v : α) : Tbl.get d (Tbl.put t k v) k = v := by
  simp [Tbl.get]

theorem get_put_ne (d : α) (t : Tbl α) (k j : Nat) (v : α) (h : j ≠ k) :
    Tbl.get d (Tbl.put t k v) j = Tbl.get d t j := by
  simp [Tbl.get, find_put_ne, h]

theorem get_put (d : α) (t : Tbl α) (k j : Nat) (v : α) :
    Tbl.get d (Tbl.put t k v) j = if j = k then v else Tbl.get d t j := by
  split <;> simp_all [get_put_ne]

@[simp] theorem get_erase_same (d : α) (t : Tbl α) (k : Nat) : Tbl.get d (Tbl.erase t k) k = d := by
  simp [Tbl.get]

theorem get_erase_ne (d : α) (t : Tbl α) (k j : Nat) (h : j ≠ k) :
    Tbl.get d (Tbl.erase t k) j = Tbl.get d t j := by
  simp [Tbl.get, find_erase_ne, h]

@[simp] theorem get_set_same [DecidableEq α] (d : α) (t : Tbl α) (k : Nat) (v : α) :
    Tbl.get d (Tbl.set d t k v) k = v := by
  unfold Tbl.set; split <;> simp_all

theorem get_set_ne [DecidableEq α] (d : α) (t : Tbl α) (k j : Nat) (v : α) (h : j ≠ k) :
    Tbl.get d (Tbl.set d t k v) j = Tbl.get d t j := by
  unfold Tbl.set; split <;> simp [get_erase_ne, get_put_ne, h]

theorem get_set [DecidableEq α] (d : α) (t : Tbl α) (k j : Nat) (v : α) :
    Tbl.get d (Tbl.set d t k v) j = if j = k then v else Tbl.get d t j := by
  split <;> simp_all [get_set_ne]

@[simp] theorem get_nil (d : α) (k : Nat) : Tbl.get d ([] : Tbl α) k = d := rfl

/-! ## Byte arrays -/

theorem readBytes_length (t : Tbl Byte) (a n : Nat) : (readBytes t a n).length = n := by
  induction n generalizing a with
  | zero => rfl
  | succ n ih => simp [readBytes, ih]

/-- One byte after writing `bs` from `a` (R224). -/
theorem get_writeBytes (t : Tbl Byte) (a k : Nat) (bs : List Byte) :
    Tbl.get 0 (writeBytes t a bs) k = if a ≤ k ∧ k < a + bs.length then bs.getD (k - a) 0 else Tbl.get 0 t k := by
  induction bs generalizing t a with
  | nil => rw [writeBytes, if_neg (by simp only [List.length_nil]; omega)]
  | cons b r ih =>
    rw [writeBytes, ih, get_set]
    by_cases hk : k = a
    · subst hk; rw [if_neg (by omega), if_pos rfl, if_pos (by simp only [List.length_cons]; omega), Nat.sub_self]; rfl
    · by_cases h : a + 1 ≤ k ∧ k < a + 1 + r.length
      · have h2 : a ≤ k ∧ k < a + (b :: r).length := by simp; omega
        rw [if_pos h, if_pos h2]
        obtain ⟨m, rfl⟩ : ∃ m, k = a + 1 + m := ⟨k - (a + 1), by omega⟩
        have e1 : a + 1 + m - (a + 1) = m := by omega
        have e2 : a + 1 + m - a = m + 1 := by omega
        simp [e1, e2]
      · have h2 : ¬ (a ≤ k ∧ k < a + (b :: r).length) := by simp; omega
        rw [if_neg h, if_neg h2, if_neg hk]

theorem readBytes_get (t : Tbl Byte) (a n i : Nat) (h : i < n) : (readBytes t a n).getD i 0 = Tbl.get 0 t (a + i) := by
  induction n generalizing a i with
  | zero => omega
  | succ n ih =>
    cases i with
    | zero => simp [readBytes]
    | succ i =>
      have := ih (a + 1) i (by omega)
      simp [readBytes] at this ⊢
      rw [this]; congr 1; omega

theorem readBytes_congr (t u : Tbl Byte) (a n : Nat) (h : ∀ i < n, Tbl.get 0 t (a + i) = Tbl.get 0 u (a + i)) :
    readBytes t a n = readBytes u a n := by
  induction n generalizing a with
  | zero => rfl
  | succ n ih =>
    have h0 := h 0 (by omega)
    rw [Nat.add_zero] at h0
    rw [readBytes, readBytes, h0, ih (a + 1) fun i hi => by have := h (i + 1) (by omega); rwa [show a + 1 + i = a + (i + 1) by omega]]

/-- A read of just the bytes written gives them (R224). -/
theorem read_after_write (t : Tbl Byte) (a : Nat) (bs : List Byte) : readBytes (writeBytes t a bs) a bs.length = bs := by
  apply List.ext_getElem
  · simp [readBytes_length]
  · intro i h1 h2
    have := readBytes_get (writeBytes t a bs) a bs.length i h2
    simp only [List.getD, readBytes_length, List.getElem?_eq_getElem h1, Option.getD_some] at this
    rw [this, get_writeBytes, if_pos (by omega)]
    simp [h2]

/-! ## The canonical form of a byte array -/

/-- The first key of a table lies above `a`. -/
def Above (a : Nat) : Tbl Byte → Prop
  | [] => True
  | (b, _) :: _ => a < b

theorem sorted_cons (a : Nat) (x : Byte) (t : Tbl Byte) :
    Memory.sorted ((a, x) :: t) = true ↔ Above a t ∧ Memory.sorted t = true := by
  cases t with
  | nil => simp [Memory.sorted, Above]
  | cons e r => obtain ⟨b, y⟩ := e; simp [Memory.sorted, Above]

theorem above_put (a k : Nat) (v : Byte) (t : Tbl Byte) (h : Above a t) (hk : a < k) : Above a (Tbl.put t k v) := by
  cases t with
  | nil => simpa [Tbl.put, Above]
  | cons e r =>
    obtain ⟨b, y⟩ := e
    unfold Tbl.put; (repeat' split) <;> simp_all [Above]

theorem sorted_put (t : Tbl Byte) (k : Nat) (v : Byte) (h : Memory.sorted t = true) :
    Memory.sorted (Tbl.put t k v) = true := by
  induction t with
  | nil => rfl
  | cons e r ih =>
    obtain ⟨b, y⟩ := e
    rw [sorted_cons] at h
    unfold Tbl.put; split
    · rw [sorted_cons, sorted_cons]; exact ⟨by simpa [Above], h⟩
    · split
      · subst_vars; rw [sorted_cons]; exact h
      · rw [sorted_cons]; exact ⟨above_put _ _ _ _ h.1 (by omega), ih h.2⟩

theorem above_of_sorted (a : Nat) (t : Tbl Byte) (h : Above a t) (hs : Memory.sorted t = true) :
    ∀ e ∈ t, a < e.1 := by
  induction t generalizing a with
  | nil => simp
  | cons e r ih =>
    obtain ⟨b, y⟩ := e
    rw [sorted_cons] at hs
    intro e he
    rcases List.mem_cons.1 he with rfl | he
    · exact h
    · have : a < b := h
      have := ih b hs.1 hs.2 e he
      omega

theorem above_of_all (a : Nat) (t : Tbl Byte) (h : ∀ e ∈ t, a < e.1) : Above a t := by
  cases t with
  | nil => trivial
  | cons e r => exact h e (by simp)

/-- Any part of a sorted table is sorted. -/
theorem sorted_sublist {t u : Tbl Byte} (h : List.Sublist u t) (hs : Memory.sorted t = true) : Memory.sorted u = true := by
  induction h with
  | slnil => rfl
  | cons e h ih => obtain ⟨b, y⟩ := e; rw [sorted_cons] at hs; exact ih hs.2
  | cons_cons e h ih =>
    obtain ⟨b, y⟩ := e
    rw [sorted_cons] at hs ⊢
    exact ⟨above_of_all _ _ fun e he => above_of_sorted _ _ hs.1 hs.2 e (h.subset he), ih hs.2⟩

theorem erase_sublist (t : Tbl α) (k : Nat) : List.Sublist (Tbl.erase t k) t := by
  induction t with
  | nil => exact .slnil
  | cons e r ih =>
    obtain ⟨b, y⟩ := e
    unfold Tbl.erase; split
    · exact .cons _ ih
    · exact .cons_cons _ ih

theorem wf_sublist {t u : Tbl Byte} (h : List.Sublist u t) (hs : Memory.wf t = true) : Memory.wf u = true := by
  simp only [Memory.wf, Bool.and_eq_true] at *
  refine ⟨sorted_sublist h hs.1, ?_⟩
  rw [List.all_eq_true] at *
  exact fun e he => hs.2 e (h.subset he)

theorem mem_put (t : Tbl α) (k : Nat) (v : α) (e : Nat × α) (h : e ∈ Tbl.put t k v) : e = (k, v) ∨ e ∈ t := by
  induction t with
  | nil => simpa [Tbl.put] using h
  | cons f r ih =>
    obtain ⟨b, y⟩ := f
    unfold Tbl.put at h
    split at h
    · simpa using h
    · split at h
      · rcases List.mem_cons.1 h with h | h <;> simp [h]
      · rcases List.mem_cons.1 h with h | h
        · simp [h]
        · rcases ih h with h | h <;> simp [h]

/-- Writing one byte keeps the canonical form. -/
theorem wf_set (t : Tbl Byte) (k : Nat) (v : Byte) (h : Memory.wf t = true) : Memory.wf (Tbl.set 0 t k v) = true := by
  unfold Tbl.set; split
  · exact wf_sublist (erase_sublist _ _) h
  · simp only [Memory.wf, Bool.and_eq_true, List.all_eq_true] at *
    refine ⟨sorted_put _ _ _ h.1, fun e he => ?_⟩
    rcases mem_put _ _ _ _ he with rfl | he
    · simpa
    · exact h.2 e he

/-- Writing bytes keeps the canonical form. -/
theorem wf_writeBytes (t : Tbl Byte) (a : Nat) (bs : List Byte) (h : Memory.wf t = true) :
    Memory.wf (writeBytes t a bs) = true := by
  induction bs generalizing t a with
  | nil => exact h
  | cons b r ih => exact ih _ _ (wf_set _ _ _ h)

theorem wf_filter (t : Tbl Byte) (p : Nat × Byte → Bool) (h : Memory.wf t = true) : Memory.wf (t.filter p) = true :=
  wf_sublist List.filter_sublist h

end Laws

end Sys2Proof
end

