-- ==== Sys2Proof/Laws/Issue.lean ====
section
/-! SUPPORT. What a charge, an issue and a register write do, once each. -/

namespace Sys2Proof.Laws

open Sys2Proof Sys2Proof.Machine

/-! ## OnlyCharged is a preorder -/

theorem onlyCharged_refl (s : State) : OnlyCharged s s := by
  refine ⟨rfl, fun _ => rfl, fun u => ?_, fun _ => rfl, fun _ => rfl⟩
  simp only [State.team, Tbl.get]
  cases h : s.teams.find? u <;> simp

theorem onlyCharged_trans {s t u : State} (h1 : OnlyCharged s t) (h2 : OnlyCharged t u) : OnlyCharged s u := by
  refine ⟨h2.beside.trans h1.beside, fun c => ?_, fun k => ?_, fun k => ?_, fun c => ?_⟩
  · rw [h2.ctxs c, h1.ctxs c]
  · rw [h2.teams k, h1.teams k, Option.map_map]; congr 1
  · rw [h2.stks k, h1.stks k]
  · rw [h2.cores c, h1.cores c]

/-! ## Charges (R376, R379) -/

theorem setCtx_charged (s : State) (c : Nat) (x : Ctx) (h : x = { s.ctx c with charged := x.charged, level := x.level }) :
    OnlyCharged s (s.setCtx c x) := by
  refine ⟨rfl, fun c' => ?_, (onlyCharged_refl s).teams, fun _ => rfl, fun _ => rfl⟩
  simp only [State.setCtx, State.ctx, get_set] at *; split
  · subst_vars; exact h
  · rfl

theorem takeAllowance_charged (s : State) (p : Payer) (n : Nat) : OnlyCharged s (s.takeAllowance p n) := by
  unfold State.takeAllowance; split
  · exact ⟨rfl, fun _ => rfl, (onlyCharged_refl s).teams, fun _ => rfl, fun _ => rfl⟩
  · exact onlyCharged_refl s

theorem lowerLevel_charged (s : State) (c n : Nat) : OnlyCharged s (s.lowerLevel c n) := by
  unfold State.lowerLevel; dsimp only; split
  · exact onlyCharged_refl s
  · exact setCtx_charged _ _ _ rfl

theorem debit_charged (s : State) (p : Payer) (n : Nat) : OnlyCharged s (s.debit p n) :=
  onlyCharged_trans (takeAllowance_charged _ _ _) (lowerLevel_charged _ _ _)

theorem addTeamCharge_charged (s : State) (u n : Nat) : OnlyCharged s (s.addTeamCharge u n) := by
  unfold State.addTeamCharge; split
  · rename_i h
    refine ⟨rfl, fun _ => rfl, fun k => ?_, fun _ => rfl, fun _ => rfl⟩
    simp only [State.setTeam, State.team, Tbl.get, find_put]
    obtain ⟨x, hx⟩ := Option.isSome_iff_exists.1 h
    split
    · subst_vars; simp [hx]
    · cases h : s.teams.find? k <;> simp
  · exact onlyCharged_refl s

theorem addWindow_charged (s : State) (k c : Nat) (kid : Option Nat) (n : Nat) : OnlyCharged s (s.addWindow k c kid n) := by
  refine ⟨rfl, fun _ => rfl, (onlyCharged_refl s).teams, fun k' => ?_, fun _ => rfl⟩
  simp only [State.addWindow, State.setStack, State.stackSt, get_set]; split <;> simp_all

theorem setBusy_charged (s : State) (c : Nat) (b : List Nat) :
    OnlyCharged s (s.setCore c { s.coreSt c with busy := b }) := by
  refine ⟨rfl, fun _ => rfl, (onlyCharged_refl s).teams, fun _ => rfl, fun c' => ?_⟩
  simp only [State.setCore, State.coreSt, get_set] at *; split <;> simp_all

/-- A charge changes accounts only. -/
theorem charge_charged (s : State) (p : Payer) (n : Nat) (row : Bool) : OnlyCharged s (s.charge p n row) := by
  have h2 := onlyCharged_trans (debit_charged s p n)
    (setCtx_charged _ p.ctx { (s.debit p n).ctx p.ctx with charged := (((s.debit p n).ctx p.ctx).charged + n) % 2 ^ 96 } rfl)
  unfold State.charge; split
  · exact onlyCharged_refl s
  · cases p.team <;> dsimp only <;> split
    · exact onlyCharged_trans h2 (addWindow_charged _ _ _ _ _)
    · exact h2
    · exact onlyCharged_trans (onlyCharged_trans h2 (addTeamCharge_charged _ _ _)) (addWindow_charged _ _ _ _ _)
    · exact onlyCharged_trans h2 (addTeamCharge_charged _ _ _)

/-- A charge moves no group. -/
@[simp] theorem charge_groups (s : State) (p : Payer) (n : Nat) (row : Bool) : (s.charge p n row).groups = s.groups := by
  have h1 : (s.debit p n).groups = s.groups := by
    unfold State.debit State.takeAllowance State.lowerLevel; dsimp only; split <;> split <;> rfl
  have h2 : ∀ (s : State) u n, (s.addTeamCharge u n).groups = s.groups := by
    intro s u n; unfold State.addTeamCharge; split <;> rfl
  unfold State.charge; split
  · rfl
  · cases p.team <;> dsimp only <;> split <;>
      simp only [State.addWindow, State.setStack, State.addCharged, State.setCtx, h1, h2]

/-! ## The issuing group -/

@[simp] theorem group_modGroup (s : State) (core slot : Nat) (f : Group → Group) :
    (s.modGroup core slot f).group? core slot = (s.group? core slot).map f := by
  unfold State.modGroup; split
  · simp [State.setGroup, State.group?, *] at *; simp [*]
  · simp_all

theorem modGroup_charged (s : State) (core slot : Nat) (f : Group → Group) : OnlyCharged s (s.modGroup core slot f) := by
  unfold State.modGroup; split
  · exact ⟨rfl, fun _ => rfl, (onlyCharged_refl s).teams, fun _ => rfl, fun _ => rfl⟩
  · exact onlyCharged_refl s

theorem modGroup_others (s : State) (core slot : Nat) (f : Group → Group) (k : Nat) (h : k ≠ gkey core slot) :
    (s.modGroup core slot f).groups.find? k = s.groups.find? k := by
  unfold State.modGroup; split
  · simp [State.setGroup, find_put_ne, h]
  · rfl

theorem countRegEv_charged (s : State) (core q c half n : Nat) : OnlyCharged s (s.countRegEv core q c half n) :=
  ⟨rfl, fun _ => rfl, (onlyCharged_refl s).teams, fun _ => rfl, fun _ => rfl⟩

theorem busyFor_charged (s : State) (core slot c : Nat) : OnlyCharged s (s.busyFor core slot c) := setBusy_charged _ _ _

/-- Issue itself: the group as `Env.issued` says, every other group as before, and charges and counts. -/
theorem atIssue_only (s : State) (i : Instr) (e : Env) : IssuedOnly i e s (s.atIssue i e) id := by
  unfold State.atIssue
  extract_lets cost names s1 s2 s3 paired
  have h1 : OnlyCharged s s1 := charge_charged _ _ _ _
  have h2 : OnlyCharged s s2 := onlyCharged_trans h1 (countRegEv_charged _ _ _ _ _ _)
  have h3 : OnlyCharged s s3 := by
    unfold s3; split
    · exact h2
    · exact onlyCharged_trans h2 (busyFor_charged _ _ _ _)
  have g3 : s3.groups = s.groups := by
    unfold s3 s2 s1; split <;> simp [State.countRegEv, State.busyFor, State.setCore]
  have p3 : s3.pair = s.pair := by have := congrArg State.pair h3.beside; exact this
  refine ⟨onlyCharged_trans h3 (modGroup_charged _ _ _ _), fun k hk => ?_, ?_⟩
  · rw [State.onIssuer, modGroup_others _ _ _ _ _ hk, g3]
  · rw [State.onIssuer, group_modGroup, State.group?, g3]
    unfold paired; rw [p3]; rfl

/-- A ready instruction runs its effect on the issued state. -/
theorem issue_ready {i : Instr} {s : State} {e : Env} (h : Ready i s e) (body : Env → State → State) :
    issue i e.o s body = .next (body e (s.atIssue i e)) := by
  have hw : (s.pair.isNone && s.waits i e) = false := by
    cases hp : s.pair with
    | none => simp [h.runs hp]
    | some _ => rfl
  simp [issue, h.issuer, h.legal, hw, h.tiles, h.latch]

/-- A change of the issuing group after issue. -/
theorem issuedOnly_onIssuer {i : Instr} {e : Env} {s t : State} {f : Group → Group} (h : IssuedOnly i e s t f)
    (g : Group → Group) : IssuedOnly i e s (t.onIssuer e.me g) (g ∘ f) := by
  refine ⟨onlyCharged_trans h.charged (modGroup_charged _ _ _ _), fun k hk => ?_, ?_⟩
  · rw [State.onIssuer, modGroup_others _ _ _ _ _ hk, h.others k hk]
  · rw [State.onIssuer, group_modGroup, h.group, Option.map_map]; rfl

/-- A charge after issue. -/
theorem issuedOnly_charge {i : Instr} {e : Env} {s t : State} {f : Group → Group} (h : IssuedOnly i e s t f)
    (p : Payer) (n : Nat) (row : Bool) : IssuedOnly i e s (t.charge p n row) f :=
  ⟨onlyCharged_trans h.charged (charge_charged _ _ _ _), fun k hk => by rw [charge_groups, h.others k hk],
   by rw [State.group?, charge_groups]; exact h.group⟩

/-! ## Writing registers -/

theorem laneOf_lanes32 (f : Nat → W32) (l : Nat) (h : l < 32) : laneOf (lanes32 f) l = f l := by
  simp [laneOf, lanes32, List.getD, h]

theorem put_length (t : Tbl α) (k : Nat) (x y : α) : (t.put k x).length = (t.put k y).length := by
  induction t with
  | nil => rfl
  | cons e r ih => obtain ⟨j, w⟩ := e; unfold Tbl.put; (repeat' split) <;> simp_all

theorem put_grows (t : Tbl α) (k : Nat) (x : α) : t.length ≤ (t.put k x).length := by
  induction t with
  | nil => simp [Tbl.put]
  | cons e r ih => obtain ⟨j, w⟩ := e; unfold Tbl.put; (repeat' split) <;> simp_all

theorem put_length_congr (t u : Tbl α) (k : Nat) (x y : α) (h : t.map Prod.fst = u.map Prod.fst) :
    (t.put k x).length = (u.put k y).length ∧ (t.put k x).map Prod.fst = (u.put k y).map Prod.fst := by
  have : (t.put k x).map Prod.fst = (u.put k y).map Prod.fst := by
    induction t generalizing u with
    | nil => cases u <;> simp_all [Tbl.put]
    | cons e r ih =>
      cases u with
      | nil => simp at h
      | cons f q =>
        obtain ⟨j, w⟩ := e; obtain ⟨i, z⟩ := f
        simp only [List.map_cons, List.cons.injEq] at h
        obtain ⟨rfl, h⟩ := h
        unfold Tbl.put; (repeat' split) <;> simp [h, ih q h]
  exact ⟨by simpa using congrArg List.length this, this⟩

/-- A charge and a change of the issuing group's registers leave the ceiling as it was. -/
theorem issued_ceiling {s t : State} {e : Env} {now : Group} (hc : OnlyCharged s t) (h : s.envAt s.cur e.o = some e)
    (hg : s.group? e.me.core e.me.slot = some now) : (t.kern (t.team now.team).kid).rec_.regs = e.kern.rec_.regs := by
  have hk : t.kernels = s.kernels := by have := congrArg State.kernels hc.beside; exact this
  have hm : e.me = s.cur := by
    unfold State.envAt at h; split at h
    · simp at h
    · simp only [Option.some.injEq] at h; rw [← h]
  have he : e.kern = s.kern (s.team now.team).kid := by
    unfold State.envAt at h; rw [← hm, hg] at h
    simp only [Option.some.injEq] at h; rw [← h]
  have ht : (t.team now.team).kid = (s.team now.team).kid := by
    have := hc.teams now.team
    simp only [State.team, Tbl.get]
    rw [this]; cases s.teams.find? now.team <;> rfl
  rw [ht, State.kern, hk, he]; rfl

/-- Writing one name of the issuing group under the ceiling. -/
theorem issuedOnly_writeName {i : Instr} {s t : State} {e : Env} {f : Group → Group} {now : Group}
    (h : IssuedOnly i e s t f) (hr : s.envAt s.cur e.o = some e) (hg : s.group? e.me.core e.me.slot = some now)
    (ht : (f (e.issued i s.pair.isSome now)).team = now.team) (n : Nat) (m : Mask) (x : Nat → W32)
    (hfit : ((f (e.issued i s.pair.isSome now)).v.put n []).length ≤ e.kern.rec_.regs) :
    IssuedOnly i e s (t.writeName e.me.core e.me.slot e.me.pcs e.pc n m x)
      (fun g => { f g with v := (f g).v.put n (mergeLanes ((f g).vreg n) m x) }) := by
  have hgt : t.group? e.me.core e.me.slot = some (f (e.issued i s.pair.isSome now)) := by rw [h.group, hg]; rfl
  have hceil := issued_ceiling h.charged hr hg
  rw [← ht] at hceil
  unfold State.writeName
  rw [hgt]
  dsimp only
  rw [hceil, put_length _ _ _ []]
  rw [if_neg (by omega)]
  refine ⟨onlyCharged_trans h.charged ⟨rfl, fun _ => rfl, (onlyCharged_refl t).teams, fun _ => rfl, fun _ => rfl⟩,
    fun k hk => ?_, ?_⟩
  · simp only [State.setGroup, find_put_ne _ _ _ _ hk, h.others k hk]
  · show Tbl.find? (Tbl.put _ _ _) _ = _
    rw [hg, find_put, if_pos rfl]; rfl

/-- Writing a vector result of the issuing group under the ceiling. -/
theorem issuedOnly_putV {i : Instr} {s t : State} {e : Env} {f : Group → Group} {now : Group}
    (h : IssuedOnly i e s t f) (hr : s.envAt s.cur e.o = some e) (hg : s.group? e.me.core e.me.slot = some now)
    (ht : (f (e.issued i s.pair.isSome now)).team = now.team) (d : Nat) (wide : Bool) (m : Mask) (val : Nat → Nat)
    (hfit : m ≠ 0 → e.room (f (e.issued i s.pair.isSome now)).v (resultNames d wide)) :
    ∃ v', VecWrite d wide m val (f (e.issued i s.pair.isSome now)).v v' ∧
      IssuedOnly i e s (t.putV e d wide m val) (fun g => { f g with v := v' }) := by
  have fix : ∀ {u : State} {k : Group → Group} {v' : Tbl VReg}, IssuedOnly i e s u k →
      k (e.issued i s.pair.isSome now) = { f (e.issued i s.pair.isSome now) with v := v' } →
      IssuedOnly i e s u (fun g => { f g with v := v' }) := by
    intro u k v' hu hk
    exact ⟨hu.charged, hu.others, by rw [hu.group, hg]; simp [hk]⟩
  unfold State.putV
  by_cases hm : m = 0
  · rw [if_pos hm]
    refine ⟨_, ⟨fun _ => rfl, fun h => absurd hm h, fun h => absurd hm h, fun _ _ => rfl⟩, fix h rfl⟩
  · rw [if_neg hm]
    have hroom := hfit hm
    dsimp only
    have h0 := issuedOnly_charge h e.payer ((if wide then 2 else 1) * t.wt e.payer 4) true
    cases wide with
    | false =>
      have h1 := issuedOnly_writeName h0 hr hg ht d m (fun l => BitVec.ofNat 32 (val l)) (by simpa [Env.room, resultNames] using hroom)
      refine ⟨_, ⟨fun h => absurd h hm, fun _ l hl => ?_, fun _ h => by simp at h, fun n hn => ?_⟩, fix h1 rfl⟩
      · simp [mergeLanes, laneOf_lanes32 _ _ hl, Group.vreg, Tbl.get]
      · simp [resultNames] at hn; exact find_put_ne _ _ _ _ hn
    | true =>
      have hr2 : (((f (e.issued i s.pair.isSome now)).v.put d []).put (d + 1) []).length ≤ e.kern.rec_.regs := by
        simpa [Env.room, resultNames] using hroom
      have h1 := issuedOnly_writeName h0 hr hg ht d m (fun l => BitVec.ofNat 32 (val l))
        (by have := put_grows ((f (e.issued i s.pair.isSome now)).v.put d []) (d + 1) ([] : VReg); omega)
      have h2 := issuedOnly_writeName h1 hr hg (by exact ht) (d + 1) m (fun l => BitVec.ofNat 32 (val l / 2 ^ 32))
        (by
          refine Nat.le_trans (Nat.le_of_eq ?_) hr2
          exact (put_length_congr _ _ _ _ _ (put_length_congr _ _ _ _ _ rfl).2).1)
      refine ⟨_, ⟨fun h => absurd h hm, fun _ l hl => ?_, fun _ _ l hl => ?_, fun n hn => ?_⟩, fix h2 rfl⟩
      · simp [get_put_ne, mergeLanes, laneOf_lanes32 _ _ hl, Group.vreg, Tbl.get, find_put_ne]
      · simp [mergeLanes, laneOf_lanes32 _ _ hl, Group.vreg, Tbl.get, find_put_ne]
      · simp [resultNames] at hn; simp [find_put_ne, hn]

end Sys2Proof.Laws
end

