-- ==== Sys2Proof/Laws/Memory.lean ====
section
/-! SUPPORT. Every operation on a byte array keeps its canonical form, and what each leaves of the other bytes. -/

namespace Sys2Proof.Laws

open Sys2Proof Sys2Proof.Machine

/-! ## Tables as ordered lists -/

/-- The canonical form in terms of the listed pairs. -/
theorem wf_iff (t : Tbl Byte) : Memory.wf t = true ↔ t.Pairwise (fun a b => a.1 < b.1) ∧ ∀ e ∈ t, e.2 ≠ 0 := by
  have hs : Memory.sorted t = true ↔ t.Pairwise fun a b => a.1 < b.1 := by
    induction t with
    | nil => simp [Memory.sorted]
    | cons e r ih =>
      obtain ⟨a, x⟩ := e
      rw [sorted_cons, List.pairwise_cons, ← ih]
      exact ⟨fun h => ⟨above_of_sorted _ _ h.1 h.2, h.2⟩, fun h => ⟨above_of_all _ _ h.1, h.2⟩⟩
  simp only [Memory.wf, Bool.and_eq_true, hs, List.all_eq_true, bne_iff_ne]

theorem mem_nonzero (a : Nat) (bs : List Byte) (e : Nat × Byte)
    (h : e ∈ (List.range bs.length).filterMap fun i => let b := bs.getD i 0; if b = 0 then none else some (a + i, b)) :
    a ≤ e.1 ∧ e.1 < a + bs.length ∧ e.2 ≠ 0 := by
  obtain ⟨i, hi, he⟩ := List.mem_filterMap.1 h
  have := List.mem_range.1 hi
  dsimp only at he; split at he
  · exact nomatch he
  · cases he; exact ⟨by simp, by simpa using this, ‹_›⟩

/-- Replacing a range keeps the canonical form (R286). -/
theorem wf_putRange (t : Tbl Byte) (a : Nat) (bs : List Byte) (h : Memory.wf t = true) :
    Memory.wf (putRange t a bs) = true := by
  rw [wf_iff] at h ⊢
  unfold putRange
  refine ⟨List.pairwise_append.2 ⟨List.pairwise_append.2 ⟨h.1.filter _, ?_, ?_⟩, h.1.filter _, ?_⟩, ?_⟩
  · refine List.Pairwise.filterMap (R := (· < ·)) _ (fun i j hij e he f hf => ?_) List.pairwise_lt_range
    dsimp only at he hf; split at he <;> split at hf <;> cases he <;> cases hf; simpa using hij
  · intro e he f hf
    have := mem_nonzero _ _ _ hf
    have := (List.mem_filter.1 he).2
    simp only [decide_eq_true_eq] at this; omega
  · intro e he f hf
    have hf := (List.mem_filter.1 hf).2
    simp only [ge_iff_le, decide_eq_true_eq] at hf
    rcases List.mem_append.1 he with he | he
    · have := (List.mem_filter.1 he).2
      simp only [decide_eq_true_eq] at this; omega
    · have := mem_nonzero _ _ _ he; omega
  · intro e he
    rcases List.mem_append.1 he with he | he
    · rcases List.mem_append.1 he with he | he
      · exact h.2 e (List.mem_filter.1 he).1
      · exact (mem_nonzero _ _ _ he).2.2
    · exact h.2 e (List.mem_filter.1 he).1

/-- Laying an image's bytes over a range keeps the canonical form (R385). -/
theorem wf_shiftIn (t : Tbl Byte) (lo n : Nat) (l : List (Nat × Byte)) (h : Memory.wf t = true) :
    Memory.wf (shiftIn t lo n l) = true := by
  unfold shiftIn
  have := wf_filter t (fun e => decide (e.1 < lo) || decide (lo + n ≤ e.1)) h
  generalize t.filter _ = u at *
  induction l generalizing u with
  | nil => exact this
  | cons e r ih => exact ih _ (wf_set _ _ _ this)

/-- The machine after reset holds no byte (log 3). -/
theorem reset_wf : Memory.wf State.reset.mem = true ∧ Memory.wf State.reset.sram = true ∧ Memory.wf State.reset.tile = true :=
  ⟨rfl, rfl, rfl⟩

/-! ## Charges and the caches leave every byte array -/

@[simp] theorem charge_mem (s : State) (p : Payer) (n : Nat) (row : Bool) : (s.charge p n row).mem = s.mem :=
  (congrArg State.mem (charge_charged s p n row).beside :)

@[simp] theorem charge_l2 (s : State) (p : Payer) (n : Nat) (row : Bool) : (s.charge p n row).l2 = s.l2 :=
  (congrArg State.l2 (charge_charged s p n row).beside :)

@[simp] theorem dropL2_mem (s : State) (x : Nat) : (s.dropL2 x).mem = s.mem := by
  unfold State.dropL2; split
  · rfl
  · dsimp only; split <;> simp

@[simp] theorem l2Room_mem (s : State) (p : Payer) (pa : Nat) : (s.l2Room p pa).2.mem = s.mem := by
  unfold State.l2Room State.draw; dsimp only; (repeat' split) <;> first | rfl | exact dropL2_mem _ _

@[simp] theorem touchL2_mem (s : State) (p : Payer) (pa : Nat) (m : L2Mode) :
    (s.touchL2 p pa m).mem = s.mem := by
  unfold State.touchL2; dsimp only; (repeat' split) <;> simp

@[simp] theorem charge_sealKey (s : State) (p : Payer) (n : Nat) (row : Bool) : (s.charge p n row).sealKey = s.sealKey :=
  (congrArg State.sealKey (charge_charged s p n row).beside :)

@[simp] theorem dropL2_sealKey (s : State) (x : Nat) : (s.dropL2 x).sealKey = s.sealKey := by
  unfold State.dropL2; split
  · rfl
  · dsimp only; split <;> simp

@[simp] theorem l2Room_sealKey (s : State) (p : Payer) (pa : Nat) : (s.l2Room p pa).2.sealKey = s.sealKey := by
  unfold State.l2Room State.draw; dsimp only; (repeat' split) <;> first | rfl | exact dropL2_sealKey _ _

@[simp] theorem touchL2_sealKey (s : State) (p : Payer) (pa : Nat) (m : L2Mode) :
    (s.touchL2 p pa m).sealKey = s.sealKey := by
  unfold State.touchL2; dsimp only; (repeat' split) <;> simp

/-! ## Bytes under keys (R207, R281) -/

theorem putClear_mem (s : State) (pa : Nat) (b : Byte) : (s.putClear pa b).mem = Tbl.set 0 s.mem pa b := by
  unfold State.putClear; dsimp only; (repeat' split) <;> rfl

@[simp] theorem putClear_sealKey (s : State) (pa : Nat) (b : Byte) : (s.putClear pa b).sealKey = s.sealKey := by
  unfold State.putClear; dsimp only; (repeat' split) <;> rfl

/-- A sector that takes a key is held under it. -/
theorem rekey_sealKey (s : State) (k x y : Nat) :
    Tbl.get 0 (s.rekey k x).sealKey y = if y = x then k else Tbl.get 0 s.sealKey y := by
  unfold State.rekey; dsimp only
  by_cases h : Tbl.get 0 s.sealKey x = k
  · rw [if_pos h]; split
    · subst_vars; rfl
    · rfl
  · rw [if_neg h]; exact get_set _ _ _ _ _

/-- What a sector that takes a key holds is what that key read of it; no other byte changes. -/
theorem rekey_mem (s : State) (k x a : Nat) :
    Tbl.get 0 (s.rekey k x).mem a = if a / 32 = x then s.under k a else Tbl.get 0 s.mem a := by
  unfold State.rekey State.under; dsimp only
  by_cases h : Tbl.get 0 s.sealKey x = k
  · rw [if_pos h]; split
    · subst_vars; rw [if_pos rfl]
    · rfl
  · rw [if_neg h, get_writeBytes]
    simp only [List.length_map, List.length_range]
    by_cases hx : a / 32 = x
    · subst hx
      have h1 : a / 32 * 32 ≤ a ∧ a < a / 32 * 32 + 32 := by omega
      have h2 : a - a / 32 * 32 = a % 32 := by omega
      have h3 : a % 32 < 32 := Nat.mod_lt _ (by decide)
      rw [if_pos h1, if_pos rfl, if_neg h, h2]
      simp [List.getD, List.getElem?_range h3]
    · have h1 : ¬ (x * 32 ≤ a ∧ a < x * 32 + 32) := by omega
      rw [if_neg h1, if_neg hx]

theorem under_congr (s t : State) (k a : Nat) (hk : Tbl.get 0 t.sealKey (a / 32) = Tbl.get 0 s.sealKey (a / 32))
    (hm : Tbl.get 0 t.mem a = Tbl.get 0 s.mem a)
    (hr : readBytes t.mem (a / 32 * 32) 32 = readBytes s.mem (a / 32 * 32) 32) : t.under k a = s.under k a := by
  unfold State.under; dsimp only
  by_cases h : Tbl.get 0 s.sealKey (a / 32) = k
  · rw [if_pos h, if_pos (hk.trans h), hm]
  · rw [if_neg h, if_neg (fun x => h (hk.symm.trans x)), hk, hr]

theorem putKeyed_mem_other (s : State) (k pa : Nat) (b : Byte) (a : Nat) (hx : a / 32 ≠ pa / 32) :
    Tbl.get 0 (s.putKeyed k pa b).mem a = Tbl.get 0 s.mem a := by
  rw [State.putKeyed, putClear_mem, get_set, if_neg (fun h => hx (by rw [h])), rekey_mem, if_neg hx]

theorem putKeyed_seal_other (s : State) (k pa : Nat) (b : Byte) (a : Nat) (hx : a / 32 ≠ pa / 32) :
    Tbl.get 0 (s.putKeyed k pa b).sealKey (a / 32) = Tbl.get 0 s.sealKey (a / 32) := by
  rw [State.putKeyed, putClear_sealKey, rekey_sealKey, if_neg hx]

/-- A store under a key: that key reads the byte so, and every other byte as before (R207, R281). -/
theorem putKeyed_under (s : State) (k pa : Nat) (b : Byte) (a : Nat) :
    (s.putKeyed k pa b).under k a = if a = pa then b else s.under k a := by
  by_cases hx : a / 32 = pa / 32
  · have hk : Tbl.get 0 (s.putKeyed k pa b).sealKey (a / 32) = k := by
      rw [State.putKeyed, putClear_sealKey, rekey_sealKey, if_pos hx]
    rw [State.under]
    rw [if_pos hk, State.putKeyed, putClear_mem, get_set, rekey_mem, if_pos hx]
  · have hne : a ≠ pa := fun h => hx (by rw [h])
    have hr := readBytes_congr (s.putKeyed k pa b).mem s.mem (a / 32 * 32) 32 fun i hi =>
      putKeyed_mem_other s k pa b _ (by omega)
    rw [if_neg hne]; exact under_congr _ _ k a (putKeyed_seal_other s k pa b a hx) (putKeyed_mem_other s k pa b a hx) hr

/-- A store leaves the bytes of every other sector as every key reads them. -/
theorem putKeyed_other (s : State) (k pa : Nat) (b : Byte) (j a : Nat) (hx : a / 32 ≠ pa / 32) :
    (s.putKeyed k pa b).under j a = s.under j a :=
  under_congr _ _ j a (putKeyed_seal_other s k pa b a hx) (putKeyed_mem_other s k pa b a hx)
    (readBytes_congr _ _ _ _ fun i hi => putKeyed_mem_other s k pa b _ (by omega))

theorem lastWrite_congr {f g : Nat → Byte} (ws : List (Nat × Byte)) (a : Nat) (h : f a = g a) :
    lastWrite f ws a = lastWrite g ws a := by unfold lastWrite; rw [h]

theorem lastWrite_cons (old : Nat → Byte) (w : Nat × Byte) (ws : List (Nat × Byte)) (a : Nat) :
    lastWrite old (w :: ws) a = lastWrite (fun _ => if a = w.1 then w.2 else old a) ws a := by
  unfold lastWrite
  rw [List.reverse_cons, List.find?_append]
  cases ws.reverse.find? fun x => x.1 == a with
  | some x => simp
  | none =>
    by_cases h : a = w.1
    · subst h; simp
    · have : (w.1 == a) = false := by simpa using fun x => h x.symm
      simp [this, h]

/-- Stores in order, each under a key: what each leaves (R207, R224, R281). -/
theorem putAll_written (s : State) (ws : List (Nat × Nat × Byte)) : WrittenTo s (s.putAll ws) ws := by
  induction ws generalizing s with
  | nil => intro k a _; rfl
  | cons w r ih =>
    obtain ⟨j, pa, b⟩ := w
    intro k a h
    rw [State.putAll, ih _ k a fun w hw => h w (List.mem_cons_of_mem _ hw), List.map_cons, lastWrite_cons]
    apply lastWrite_congr
    by_cases hx : a / 32 = pa / 32
    · have := h (j, pa, b) (List.mem_cons_self ..) hx.symm
      dsimp only at this; subst this
      exact putKeyed_under s j pa b a
    · rw [putKeyed_other s j pa b k a hx, if_neg fun h => hx (by rw [h])]

/-- A byte of device memory reads as memory holds it (R224). -/
theorem keyByte_device (s : State) (k pa : Nat) (h : tierOfPa pa ≠ some 2)
    (hs : ∀ i < 32, tierOfPa (pa / 32 * 32 + i) ≠ some 2) : s.keyByte k pa = s.under k pa := by
  have clear (a : Nat) (h : tierOfPa a ≠ some 2) : s.clearByte a = Tbl.get 0 s.mem a := by
    unfold State.clearByte; split
    · contradiction
    · rfl
  unfold State.keyByte State.under; dsimp only; split
  · exact clear _ h
  · congr 1
    apply List.ext_getElem
    · simp [readBytes_length]
    · intro i h1 h2
      have hi : i < 32 := by simpa using h1
      have := readBytes_get s.mem (pa / 32 * 32) 32 i hi
      simp only [List.getD, List.getElem?_eq_getElem h2, Option.getD_some] at this
      rw [this]; simp [clear _ (hs i hi)]

/-- The lanes that may perform are some of those in turn, in their order (R240). -/
theorem inTurn_sublist (s : State) (a : Access) (ok : Nat → Bool) (held ls : List Nat) :
    (s.inTurn a ok held ls).Sublist ls := by
  induction ls generalizing held with
  | nil => exact .slnil
  | cons l r ih =>
    unfold State.inTurn; dsimp only; split
    · exact (ih _).cons_cons _
    · exact (ih _).cons _

/-- What performs is left and waits for no answer, in increasing order (R78, R240). -/
theorem readyLanes_sublist (s : State) (id : Nat) (a : Access) : (s.readyLanes id a).Sublist (lanesOf (a.left &&& ~~~a.sent)) := by
  unfold State.readyLanes; dsimp only; split
  · exact List.nil_sublist _
  · exact inTurn_sublist _ _ _ _ _

end Sys2Proof.Laws
end

