-- ==== Sys2Proof/Laws/Invariant.lean ====
section
/-! SUPPORT. Every operation keeps the canonical form of the byte arrays: one lemma an operation and one a meaning. -/

namespace Sys2Proof.Laws

open Sys2Proof Sys2Proof.Machine

/-- The invariant, folded. -/
def Canon (s : State) : Prop := s.Inv

/-- An Option or an outcome whose state, if it has one, keeps the invariant. -/
structure OptInv (o : Option State) : Prop where
  keeps : ∀ t, o = some t → Canon t

structure OutInv (o : Host.Outcome State Fault Refusal) : Prop where
  keeps : ∀ t, o = .next t → Canon t

theorem optInv_some {s : State} (h : Canon s) : OptInv (some s) := ⟨fun _ e => Option.some.inj e ▸ h⟩
theorem optInv_none : OptInv none := ⟨fun _ e => nomatch e⟩
theorem outInv_next {s : State} (h : Canon s) : OutInv (.next s) := ⟨fun _ e => Host.Outcome.next.inj e ▸ h⟩
theorem outInv_fault {f} : OutInv (.fault f) := ⟨fun _ e => nomatch e⟩
theorem optInv_map {α : Type} {f : α → State} {o : Option α} (h : ∀ a, Canon (f a)) : OptInv (o.map f) := by
  refine ⟨fun t e => ?_⟩
  cases o with
  | none => exact nomatch e
  | some a => exact Option.some.inj e ▸ h a
theorem inv_of_some {o : Option State} {t : State} (e : o = some t) (h : OptInv o) : Canon t := h.keeps _ e
theorem inv_of_next {o : Host.Outcome State Fault Refusal} {t : State} (e : o = .next t) (h : OutInv o) : Canon t :=
  h.keeps _ e
theorem inv_of_snd {α : Type} {p : α × State} {a : α} {t : State} (e : p = (a, t)) (h : Canon p.2) : Canon t := by
  rw [e] at h; exact h
theorem inv_of_fst {α : Type} {p : State × α} {a : α} {t : State} (e : p = (t, a)) (h : Canon p.1) : Canon t := by
  rw [e] at h; exact h
theorem inv_foldl {α : Type} {f : State → α → State} {l : List α} {s : State} (hs : Canon s)
    (hf : ∀ s x, Canon s → Canon (f s x)) : Canon (l.foldl f s) := by
  induction l generalizing s with
  | nil => exact hs
  | cons a r ih => exact ih (hf _ _ hs)
theorem inv_foldl1 {α β : Type} {f : State × β → α → State × β} {l : List α} {p : State × β} (hs : Canon p.1)
    (hf : ∀ p x, Canon p.1 → Canon (f p x).1) : Canon (l.foldl f p).1 := by
  induction l generalizing p with
  | nil => exact hs
  | cons a r ih => exact ih (hf _ _ hs)
theorem inv_foldl2 {α β : Type} {f : β × State → α → β × State} {l : List α} {p : β × State} (hs : Canon p.2)
    (hf : ∀ p x, Canon p.2 → Canon (f p x).2) : Canon (l.foldl f p).2 := by
  induction l generalizing p with
  | nil => exact hs
  | cons a r ih => exact ih (hf _ _ hs)
theorem keep {s : State} {P : Prop} (h : Canon s → P) (hs : Canon s) : P := h hs

/-- A change beside the byte arrays. -/
theorem canon_mk (s : State)
    {x_agenda x_cur x_pair x_free x_next x_groups x_acc x_mats x_copies x_colls x_teams x_kernels x_poison
    x_sramPoison x_tilePoison x_l1 x_tlb x_l2 x_cores x_stks x_dies x_regEvents x_matStall x_allow x_ctxs
    x_queues x_sets x_lastDie x_rot x_headClock x_replies x_dbarHeld x_rings x_invals x_migrs x_links
    x_heldFlits x_routes x_doms x_parts x_chans x_vfs x_errs x_scores x_cap x_share x_snpSeq x_snpAddr x_snap
    x_log x_logHeld x_logSeq x_rndKind x_rndPhase x_resets x_expSeq x_sweeps x_touched x_keys x_keyIds x_sealKey
    x_stackCopy x_outbox x_irqs} :
    Canon (State.mk
    x_agenda x_cur x_pair x_free x_next x_groups x_acc x_mats x_copies x_colls x_teams x_kernels s.mem s.sram
    s.tile x_poison x_sramPoison x_tilePoison x_l1 x_tlb x_l2 x_cores x_stks x_dies x_regEvents x_matStall
    x_allow x_ctxs x_queues x_sets x_lastDie x_rot x_headClock x_replies x_dbarHeld x_rings x_invals x_migrs
    x_links x_heldFlits x_routes x_doms x_parts x_chans x_vfs x_errs x_scores x_cap x_share x_snpSeq x_snpAddr
    x_snap x_log x_logHeld x_logSeq x_rndKind x_rndPhase x_resets x_expSeq x_sweeps x_touched x_keys x_keyIds x_sealKey
    x_stackCopy x_outbox x_irqs) = Canon s := rfl

theorem canon_mem {s : State} (t : Tbl Byte) (h : Canon s) (ht : Memory.wf t = true) : Canon { s with mem := t } := ⟨ht, h.2⟩
theorem canon_sram {s : State} (t : Tbl Byte) (h : Canon s) (ht : Memory.wf t = true) : Canon { s with sram := t } :=
  ⟨h.1, ht, h.2.2⟩
theorem canon_tile {s : State} (t : Tbl Byte) (h : Canon s) (ht : Memory.wf t = true) : Canon { s with tile := t } :=
  ⟨h.1, h.2.1, ht⟩


theorem setCore_inv (s : State) (c : Nat) (x : CoreSt) (hs : Canon s) : Canon (s.setCore c x) := by
  unfold State.setCore
  repeat' first
    | with_reducible assumption
    | simp only [canon_mk]

theorem setStack_inv (s : State) (k : Nat) (x : StackSt) (hs : Canon s) : Canon (s.setStack k x) := by
  unfold State.setStack
  repeat' first
    | with_reducible assumption
    | simp only [canon_mk]

theorem setDie_inv (s : State) (d : Nat) (x : DieSt) (hs : Canon s) : Canon (s.setDie d x) := by
  unfold State.setDie
  repeat' first
    | with_reducible assumption
    | simp only [canon_mk]

theorem setCtx_inv (s : State) (c : Nat) (x : Ctx) (hs : Canon s) : Canon (s.setCtx c x) := by
  unfold State.setCtx
  repeat' first
    | with_reducible assumption
    | simp only [canon_mk]

theorem setQueue_inv (s : State) (q : Nat) (x : Queue) (hs : Canon s) : Canon (s.setQueue q x) := by
  unfold State.setQueue
  repeat' first
    | with_reducible assumption
    | simp only [canon_mk]

theorem setLink_inv (s : State) (k : Nat) (x : LinkSt) (hs : Canon s) : Canon (s.setLink k x) := by
  unfold State.setLink
  repeat' first
    | with_reducible assumption
    | simp only [canon_mk]

theorem setDom_inv (s : State) (m : Nat) (x : DomSt) (hs : Canon s) : Canon (s.setDom m x) := by
  unfold State.setDom
  repeat' first
    | with_reducible assumption
    | simp only [canon_mk]

theorem setVf_inv (s : State) (f : Nat) (x : Vf) (hs : Canon s) : Canon (s.setVf f x) := by
  unfold State.setVf
  repeat' first
    | with_reducible assumption
    | simp only [canon_mk]

theorem setChan_inv (s : State) (c : Nat) (x : Chan) (hs : Canon s) : Canon (s.setChan c x) := by
  unfold State.setChan
  repeat' first
    | with_reducible assumption
    | simp only [canon_mk]

theorem setRing_inv (s : State) (f : Nat) (x : FaultRing) (hs : Canon s) : Canon (s.setRing f x) := by
  unfold State.setRing
  repeat' first
    | with_reducible assumption
    | simp only [canon_mk]

theorem setScore_inv (s : State) (k : Nat) (x : Score) (hs : Canon s) : Canon (s.setScore k x) := by
  unfold State.setScore
  repeat' first
    | with_reducible assumption
    | simp only [canon_mk]

theorem setKern_inv (s : State) (k : Nat) (x : Kernel) (hs : Canon s) : Canon (s.setKern k x) := by
  unfold State.setKern
  repeat' first
    | with_reducible assumption
    | simp only [canon_mk]

theorem setTeam_inv (s : State) (t : Nat) (x : Team) (hs : Canon s) : Canon (s.setTeam t x) := by
  unfold State.setTeam
  repeat' first
    | with_reducible assumption
    | simp only [canon_mk]

theorem setPart_inv (s : State) (p : Nat) (x : Part) (hs : Canon s) : Canon (s.setPart p x) := by
  unfold State.setPart
  repeat' first
    | with_reducible assumption
    | simp only [canon_mk]

theorem setGroup_inv (s : State) (core slot : Nat) (g : Group) (hs : Canon s) : Canon (s.setGroup core slot g) := by
  unfold State.setGroup
  repeat' first
    | with_reducible assumption
    | simp only [canon_mk]

theorem dropGroup_inv (s : State) (core slot : Nat) (hs : Canon s) : Canon (s.dropGroup core slot) := by
  unfold State.dropGroup
  repeat' first
    | with_reducible assumption
    | simp only [canon_mk]

theorem modGroup_inv (s : State) (core slot : Nat) (f : Group → Group) (hs : Canon s) :
    Canon (s.modGroup core slot f) := by
  unfold State.modGroup
  repeat' first
    | (with_reducible first | assumption | apply setGroup_inv)
    | split

theorem fresh_inv (s : State) (hs : Canon s) : Canon s.fresh.2 := by
  unfold State.fresh
  repeat' first
    | with_reducible assumption
    | simp only [canon_mk]

theorem draw_inv (s : State) (n : Nat) (hs : Canon s) : Canon (s.draw n).2 := by
  unfold State.draw
  repeat' first
    | with_reducible assumption
    | simp only [canon_mk]

theorem countErr_inv (s : State) (p e : Nat) (hs : Canon s) : Canon (s.countErr p e) := by
  unfold State.countErr
  repeat' first
    | with_reducible assumption
    | simp only [canon_mk]

theorem countErrCtx_inv (s : State) (c e : Nat) (hs : Canon s) : Canon (s.countErrCtx c e) := by
  unfold State.countErrCtx
  repeat' first
    | (with_reducible first | assumption | apply countErr_inv)

theorem countRegEv_inv (s : State) (core q c half n : Nat) (hs : Canon s) :
    Canon (s.countRegEv core q c half n) := by
  unfold State.countRegEv
  repeat' first
    | with_reducible assumption
    | simp only [canon_mk]

theorem countMat_inv (s : State) (core c half : Nat) (hs : Canon s) : Canon (s.countMat core c half) := by
  unfold State.countMat
  repeat' first
    | with_reducible assumption
    | simp only [canon_mk]

theorem raiseIrq_inv (s : State) (fn vec : Nat) (hs : Canon s) : Canon (s.raiseIrq fn vec) := by
  unfold State.raiseIrq
  repeat' first
    | with_reducible assumption
    | simp only [canon_mk]

theorem send_inv (s : State) (m : Sent) (hs : Canon s) : Canon (s.send m) := by
  unfold State.send
  repeat' first
    | with_reducible assumption
    | simp only [canon_mk]

theorem takeAllowance_inv (s : State) (p : Payer) (n : Nat) (hs : Canon s) : Canon (s.takeAllowance p n) := by
  unfold State.takeAllowance
  repeat' first
    | with_reducible assumption
    | simp only [canon_mk]
    | split

theorem lowerLevel_inv (s : State) (c n : Nat) (hs : Canon s) : Canon (s.lowerLevel c n) := by
  unfold State.lowerLevel
  repeat' first
    | (with_reducible first | assumption | apply setCtx_inv)
    | simp only [canon_mk]
    | split

theorem debit_inv (s : State) (p : Payer) (n : Nat) (hs : Canon s) : Canon (s.debit p n) := by
  unfold State.debit
  repeat' first
    | (with_reducible first | assumption | apply lowerLevel_inv | apply takeAllowance_inv)

theorem addCharged_inv (s : State) (c n : Nat) (hs : Canon s) : Canon (s.addCharged c n) := by
  unfold State.addCharged
  repeat' first
    | (with_reducible first | assumption | apply setCtx_inv)

theorem addTeamCharge_inv (s : State) (t n : Nat) (hs : Canon s) : Canon (s.addTeamCharge t n) := by
  unfold State.addTeamCharge
  repeat' first
    | (with_reducible first | assumption | apply setTeam_inv)
    | split

theorem addWindow_inv (s : State) (core c : Nat) (kid : Option Nat) (n : Nat) (hs : Canon s) :
    Canon (s.addWindow core c kid n) := by
  unfold State.addWindow
  repeat' first
    | (with_reducible first | assumption | apply setStack_inv)

theorem charge_inv (s : State) (p : Payer) (n : Nat) (row : Bool) (hs : Canon s) : Canon (s.charge p n row) := by
  unfold State.charge
  repeat' first
    | (with_reducible first | assumption | apply addCharged_inv | apply debit_inv)
    | (with_reducible first | apply addTeamCharge_inv | apply addWindow_inv)
    | simp only [canon_mk]
    | split

theorem chargeDie_inv (s : State) (d n : Nat) (hs : Canon s) : Canon (s.chargeDie d n) := by
  unfold State.chargeDie
  repeat' first
    | (with_reducible first | assumption | apply setDie_inv)

theorem recordRetirement_inv (s : State) (die kind cause unit k : Nat) (hs : Canon s) :
    Canon (s.recordRetirement die kind cause unit k) := by
  unfold State.recordRetirement
  repeat' first
    | (with_reducible first | assumption | apply raiseIrq_inv)
    | simp only [canon_mk]
    | split

theorem addScore_inv (s : State) (k n cause : Nat) (hs : Canon s) : Canon (s.addScore k n cause) := by
  unfold State.addScore
  repeat' first
    | (with_reducible first | assumption | apply setScore_inv | apply setCore_inv)
    | (with_reducible first | apply recordRetirement_inv | apply setLink_inv)
    | simp only [canon_mk]
    | split

theorem unitError_inv (s : State) (k : Nat) (uncorrectable : Bool) (hs : Canon s) :
    Canon (s.unitError k uncorrectable) := by
  unfold State.unitError
  repeat' first
    | (with_reducible first | assumption | apply addScore_inv | apply countErr_inv)
    | split

theorem newTag_inv (s : State) (core slot : Nat) (hs : Canon s) : Canon (s.newTag core slot).2 := by
  unfold State.newTag
  repeat' first
    | (with_reducible first | assumption | apply setCore_inv)

theorem killGroup_inv (s : State) (core slot : Nat) (hs : Canon s) : Canon (s.killGroup core slot) := by
  unfold State.killGroup
  repeat' first
    | (with_reducible first | assumption | apply dropGroup_inv | apply newTag_inv)

theorem killGroups_inv (s : State) (core : Nat) (x3 : List Nat) (hs : Canon s) : Canon (s.killGroups core x3) := by
  induction x3 generalizing s core with
  | nil => exact hs
  | cons a r ih =>
    unfold State.killGroups
    repeat' first
      | (with_reducible first | assumption | apply killGroup_inv | apply ih)

theorem leaveIdle_inv (s : State) (q : Nat) (hs : Canon s) : Canon (s.leaveIdle q) := by
  unfold State.leaveIdle
  repeat' first
    | (with_reducible first | assumption | apply setQueue_inv)
    | simp only [canon_mk]
    | split

theorem unpark_inv (s : State) (c : Nat) (hs : Canon s) : Canon (s.unpark c) := by
  unfold State.unpark
  repeat' first
    | (with_reducible first | assumption | apply setCtx_inv)
    | simp only [canon_mk]
    | split

theorem returnAllowance_inv (s : State) (core c : Nat) (hs : Canon s) : Canon (s.returnAllowance core c) := by
  unfold State.returnAllowance
  repeat' first
    | (with_reducible first | assumption | apply unpark_inv | apply setCtx_inv)
    | simp only [canon_mk]
    | split

theorem killTeam_inv (s : State) (uid : Nat) (hs : Canon s) : Canon (s.killTeam uid) := by
  unfold State.killTeam
  repeat' first
    | (with_reducible first | assumption | apply killGroups_inv | apply setTeam_inv)
    | with_reducible apply returnAllowance_inv
    | simp only [canon_mk]

theorem killTeams_inv (s : State) (x2 : List Nat) (hs : Canon s) : Canon (s.killTeams x2) := by
  induction x2 generalizing s with
  | nil => exact hs
  | cons a r ih =>
    unfold State.killTeams
    repeat' first
      | (with_reducible first | assumption | apply killTeam_inv | apply ih)

theorem abortKernel_inv (s : State) (kid : Nat) (info : AbortInfo) (hs : Canon s) :
    Canon (abortKernel s kid info) := by
  unfold abortKernel
  repeat' first
    | (with_reducible first | assumption | apply setKern_inv | apply killTeams_inv)
    | with_reducible apply countErrCtx_inv
    | simp only [canon_mk]
    | split

theorem dropL2_inv (s : State) (line : Nat) (hs : Canon s) : Canon (s.dropL2 line) := by
  unfold State.dropL2
  repeat' first
    | (with_reducible first | assumption | apply charge_inv)
    | simp only [canon_mk]
    | split

theorem dropL2s_inv (s : State) (x2 : List Nat) (hs : Canon s) : Canon (s.dropL2s x2) := by
  induction x2 generalizing s with
  | nil => exact hs
  | cons a r ih =>
    unfold State.dropL2s
    repeat' first
      | (with_reducible first | assumption | apply dropL2_inv | apply ih)

theorem dropHost_inv (s : State) (hs : Canon s) : Canon s.dropHost := by
  unfold State.dropHost
  repeat' first
    | (with_reducible first | assumption | apply dropL2s_inv)

theorem l2Room_inv (s : State) (p : Payer) (pa : Nat) (hs : Canon s) : Canon (s.l2Room p pa).2 := by
  unfold State.l2Room
  repeat' first
    | (with_reducible first | assumption | apply draw_inv | apply dropL2_inv)
    | simp only [canon_mk]
    | split

theorem touchL2_inv (s : State) (p : Payer) (pa : Nat) (m : L2Mode) (hs : Canon s) : Canon (s.touchL2 p pa m) := by
  unfold State.touchL2
  repeat' first
    | (with_reducible first | assumption | apply l2Room_inv | apply charge_inv)
    | simp only [canon_mk]
    | split

theorem putClear_inv (s : State) (pa : Nat) (b : Byte) (hs : Canon s) : Canon (s.putClear pa b) := by
  unfold State.putClear
  extract_lets s1
  have h : Canon s1 := canon_mem _ hs (wf_set _ pa b hs.1)
  clear_value s1
  (repeat' split) <;> simpa only [canon_mk] using h

theorem rekey_inv (s : State) (k x : Nat) (hs : Canon s) : Canon (s.rekey k x) := by
  unfold State.rekey
  extract_lets w under
  split
  · exact hs
  · exact ⟨wf_writeBytes _ _ _ hs.1, hs.2⟩

theorem putKeyed_inv (s : State) (k pa : Nat) (b : Byte) (hs : Canon s) : Canon (s.putKeyed k pa b) := by
  unfold State.putKeyed
  repeat' first
    | (with_reducible first | assumption | apply putClear_inv | apply rekey_inv)

theorem putByte_inv (s : State) (pa : Nat) (b : Byte) (hs : Canon s) : Canon (s.putByte pa b) := by
  unfold State.putByte
  repeat' first
    | (with_reducible first | assumption | apply putKeyed_inv)

theorem putAll_inv (s : State) (x2 : List (Nat × Nat × Byte)) (hs : Canon s) : Canon (s.putAll x2) := by
  induction x2 generalizing s with
  | nil => exact hs
  | cons a r ih =>
    unfold State.putAll
    repeat' first
      | (with_reducible first | assumption | apply putKeyed_inv | apply ih)

theorem putBytes_inv (s : State) (l : List (Nat × Byte)) (hs : Canon s) : Canon (s.putBytes l) := by
  unfold State.putBytes
  repeat' first
    | (with_reducible first | assumption | apply putAll_inv)

theorem writeMem_inv (s : State) (pa : Nat) (bs : List Byte) (hs : Canon s) : Canon (s.writeMem pa bs) := by
  refine ⟨wf_writeBytes _ _ _ ?_, hs.2⟩
  generalize List.filter _ _ = l
  have h : ∀ (l : List Nat) (m : Tbl Byte), Memory.wf m = true → Memory.wf (l.foldl
      (fun m x => writeBytes m (x * 32) ((List.range 32).map fun i => s.under 0 (x * 32 + i))) m) = true := by
    intro l
    induction l with
    | nil => exact fun _ h => h
    | cons a r ih => exact fun m h => ih _ (wf_writeBytes _ _ _ h)
  exact h l _ hs.1

theorem storePoison_inv (s : State) (c sector : Nat) (whole : Bool) (hs : Canon s) :
    Canon (s.storePoison c sector whole) := by
  unfold State.storePoison
  repeat' first
    | (with_reducible first | assumption | apply countErrCtx_inv)
    | simp only [canon_mk]
    | split

theorem tlbPut_inv (s : State) (e : TlbEntry) (hs : Canon s) : Canon (s.tlbPut e) := by
  unfold State.tlbPut
  repeat' first
    | with_reducible assumption
    | simp only [canon_mk]

theorem chargeWalk_inv (s : State) (p : Payer) (x3 : List Nat) (hs : Canon s) : Canon (s.chargeWalk p x3) := by
  induction x3 generalizing s p with
  | nil => exact hs
  | cons a r ih =>
    unfold State.chargeWalk
    repeat' first
      | (with_reducible first | assumption | apply touchL2_inv | apply ih)

theorem tlbPutTables_inv (s : State) (stack ctx va : Nat) (x5 : List (Nat × Nat)) (hs : Canon s) :
    Canon (s.tlbPutTables stack ctx va x5) := by
  induction x5 generalizing s stack ctx va with
  | nil => exact hs
  | cons a r ih =>
    unfold State.tlbPutTables
    repeat' first
      | (with_reducible first | assumption | apply tlbPut_inv | apply ih)

theorem walk_inv (s : State) (p : Payer) (stack va : Nat) (wr : Bool) (hs : Canon s) :
    Canon (s.walk p stack va wr).2 := by
  unfold State.walk
  repeat' first
    | (with_reducible first | assumption | apply tlbPutTables_inv | apply chargeWalk_inv)
    | (with_reducible first | apply putBytes_inv | apply tlbPut_inv)
    | simp only [canon_mk]
    | split

theorem translate_inv (s : State) (p : Payer) (stack va : Nat) (wr : Bool) (hs : Canon s) :
    Canon (s.translate p stack va wr).2 := by
  unfold State.translate
  repeat' first
    | (with_reducible first | assumption | apply walk_inv)
    | split

theorem noteTouch_inv (s : State) (slot x : Nat) (hs : Canon s) : Canon (s.noteTouch slot x) := by
  unfold State.noteTouch; split <;> exact hs

theorem serveL2_inv (s : State) (p : Payer) (slot pa : Nat) (m : L2Mode) (hs : Canon s) :
    Canon (s.serveL2 p slot pa m) := by
  unfold State.serveL2
  repeat' first
    | (with_reducible first | assumption | apply charge_inv | apply touchL2_inv | apply noteTouch_inv)
    | split

theorem noteKey_inv (s : State) (key x : Nat) (hs : Canon s) : Canon (s.noteKey key x) := hs

theorem l1Fill_inv (s : State) (core ctx va level pte : Nat) (hs : Canon s) :
    Canon (s.l1Fill core ctx va level pte) := by
  unfold State.l1Fill
  repeat' first
    | with_reducible assumption
    | simp only [canon_mk]
    | split

theorem l1Drop_inv (s : State) (core ctx : Nat) (f : L1Line → Bool) (hs : Canon s) :
    Canon (s.l1Drop core ctx f) := by
  unfold State.l1Drop
  repeat' first
    | with_reducible assumption
    | simp only [canon_mk]

theorem l1Store_inv (s : State) (core ctx va pa order format : Nat) (wr : Bool) (b : Byte) (hs : Canon s) :
    Canon (s.l1Store core ctx va pa order format wr b) := by
  unfold State.l1Store
  repeat' first
    | with_reducible assumption
    | simp only [canon_mk]

theorem acquire_inv (s : State) (core ctx scope : Nat) (hs : Canon s) : Canon (s.acquire core ctx scope) := by
  unfold State.acquire
  repeat' first
    | (with_reducible first | assumption | apply l1Drop_inv | apply dropHost_inv)
    | simp only [canon_mk]
    | split

theorem walkUnits_inv (s : State) (p : Payer) (stack : Nat) (k : AccKind) (x5 : List Nat) (hs : Canon s) :
    Canon (s.walkUnits p stack k x5).2 := by
  induction x5 generalizing s p stack k with
  | nil => exact hs
  | cons a r ih =>
    unfold State.walkUnits
    repeat' first
      | (with_reducible first | assumption | apply translate_inv | apply ih)
      | refine inv_of_snd (by assumption) ?_
      | split

theorem engineRead_inv (s : State) (p : Payer) (stack va n : Nat) (hs : Canon s) :
    Canon (s.engineRead p stack va n).2 := by
  unfold State.engineRead
  repeat' first
    | (with_reducible first | assumption | apply walkUnits_inv | apply serveL2_inv)
    | with_reducible refine inv_foldl ?_ ?_
    | intro _
    | refine inv_of_snd (by assumption) ?_
    | split

theorem engineWrite_inv (s : State) (p : Payer) (stack va : Nat) (bs : List Byte) (hs : Canon s) :
    Canon (s.engineWrite p stack va bs).2 := by
  unfold State.engineWrite
  repeat' first
    | (with_reducible first | assumption | apply walkUnits_inv | apply storePoison_inv)
    | (with_reducible first | apply serveL2_inv | apply putAll_inv | refine inv_foldl ?_ ?_)
    | intro _
    | refine inv_of_snd (by assumption) ?_
    | split

theorem headRead_inv (s : State) (ctx va n : Nat) (hs : Canon s) : Canon (s.headRead ctx va n).2 := by
  unfold State.headRead
  repeat' first
    | (with_reducible first | assumption | apply touchL2_inv | apply noteKey_inv | refine inv_foldl ?_ ?_)
    | intro _
    | split

theorem headWrite_inv (s : State) (ctx va : Nat) (bs : List Byte) (hs : Canon s) :
    OptInv (s.headWrite ctx va bs) := by
  unfold State.headWrite
  repeat' first
    | (with_reducible first | assumption | apply storePoison_inv | apply touchL2_inv | apply noteKey_inv)
    | (with_reducible first | apply putAll_inv | exact optInv_none | refine optInv_map ?_)
    | with_reducible refine inv_foldl ?_ ?_
    | intro _
    | split

theorem onIssuer_inv (s : State) (me : Issuer) (f : Group → Group) (hs : Canon s) : Canon (s.onIssuer me f) := by
  unfold State.onIssuer
  repeat' first
    | (with_reducible first | assumption | apply modGroup_inv)

theorem abortAt_inv (s : State) (e : Env) (status cause : Nat) (lanes : Mask) (addr value : Nat) (hs : Canon s) :
    Canon (s.abortAt e status cause lanes addr value) := by
  unfold State.abortAt
  repeat' first
    | (with_reducible first | assumption | apply abortKernel_inv)

theorem faultAt_inv (s : State) (e : Env) (c : Cause) (lanes : Mask) (addr : Nat) (hs : Canon s) :
    Canon (s.faultAt e c lanes addr) := by
  unfold State.faultAt
  repeat' first
    | (with_reducible first | assumption | apply abortAt_inv)

theorem writeName_inv (s : State) (core slot pcs pc n : Nat) (m : Mask) (f : Nat → W32) (hs : Canon s) :
    Canon (s.writeName core slot pcs pc n m f) := by
  unfold State.writeName
  repeat' first
    | (with_reducible first | assumption | apply abortKernel_inv | apply setGroup_inv)
    | simp only [canon_mk]
    | split

theorem putV_inv (s : State) (e : Env) (n : Nat) (wide : Bool) (m : Mask) (f : Nat → Nat) (hs : Canon s) :
    Canon (s.putV e n wide m f) := by
  unfold State.putV
  repeat' first
    | (with_reducible first | assumption | apply charge_inv | apply writeName_inv)
    | split

theorem putS_inv (s : State) (e : Env) (n x : Nat) (hs : Canon s) : Canon (s.putS e n x) := by
  unfold State.putS
  repeat' first
    | (with_reducible first | assumption | apply onIssuer_inv)

theorem putP_inv (s : State) (e : Env) (n : Nat) (x : W32) (hs : Canon s) : Canon (s.putP e n x) := by
  unfold State.putP
  repeat' first
    | (with_reducible first | assumption | apply onIssuer_inv)
    | split

theorem putPLanes_inv (s : State) (e : Env) (n : Nat) (m : Mask) (f : Nat → Bool) (hs : Canon s) :
    Canon (s.putPLanes e n m f) := by
  unfold State.putPLanes
  repeat' first
    | (with_reducible first | assumption | apply putP_inv)

theorem orFlags_inv (s : State) (e : Env) (fl : FFlags) (hs : Canon s) : Canon (s.orFlags e fl) := by
  unfold State.orFlags
  repeat' first
    | (with_reducible first | assumption | apply onIssuer_inv)
    | split

theorem setPc_inv (s : State) (e : Env) (pc : Nat) (entered : Bool) (hs : Canon s) :
    Canon (s.setPc e pc entered) := by
  unfold State.setPc
  repeat' first
    | (with_reducible first | assumption | apply onIssuer_inv)

theorem hold_inv (s : State) (e : Env) (h : Held) (hs : Canon s) : Canon (s.hold e h) := by
  unfold State.hold
  repeat' first
    | (with_reducible first | assumption | apply onIssuer_inv)

theorem fenceDrops_inv (s : State) (core ctx order scope : Nat) (hs : Canon s) :
    Canon (s.fenceDrops core ctx order scope) := by
  unfold State.fenceDrops
  repeat' first
    | (with_reducible first | assumption | apply acquire_inv | apply l1Drop_inv)
    | simp only [canon_mk]
    | split

theorem recheck_inv (s : State) (core slot x : Nat) (hs : Canon s) : Canon (s.recheck core slot x) := by
  unfold State.recheck
  repeat' first
    | (with_reducible first | assumption | apply setGroup_inv | apply fenceDrops_inv)
    | simp only [canon_mk]
    | split

theorem holdUntil_inv (s : State) (e : Env) (h : Held) (hs : Canon s) : Canon (s.holdUntil e h) := by
  unfold State.holdUntil
  repeat' first
    | (with_reducible first | assumption | apply recheck_inv | apply hold_inv)

theorem busyFor_inv (s : State) (core slot c : Nat) (hs : Canon s) : Canon (s.busyFor core slot c) := by
  unfold State.busyFor
  repeat' first
    | (with_reducible first | assumption | apply setCore_inv)

theorem atIssue_inv (s : State) (i : Instr) (e : Env) (hs : Canon s) : Canon (s.atIssue i e) := by
  unfold State.atIssue
  repeat' first
    | (with_reducible first | assumption | apply charge_inv | apply countRegEv_inv)
    | (with_reducible first | apply busyFor_inv | apply onIssuer_inv)
    | split

theorem issue_inv (i : Instr) (o : Fields) (s : State) (body : Env → State → State) (hs : Canon s) (hbody : ∀ y0 y1,
    Canon y1 → Canon (body y0 y1)) : OutInv (issue i o s body) := by
  unfold issue
  repeat' first
    | (with_reducible first | assumption | apply faultAt_inv | apply charge_inv)
    | (with_reducible first | apply atIssue_inv | apply outInv_next | apply outInv_fault)
    | with_reducible apply hbody
    | split

theorem raisePath_inv (s : State) (me : Issuer) (p : Nat) (hs : Canon s) : Canon (s.raisePath me p) := by
  unfold State.raisePath
  repeat' first
    | (with_reducible first | assumption | apply onIssuer_inv)

theorem settlePath_inv (s : State) (core slot tag p x6 : Nat) (hs : Canon s) :
    Canon (s.settlePath core slot tag p x6) := by
  induction x6 generalizing s core slot tag p with
  | zero => exact hs
  | succ n ih =>
    unfold State.settlePath
    repeat' first
      | (with_reducible first | assumption | apply modGroup_inv | apply ih)
      | simp only [canon_mk]
      | split

theorem launchAcc_inv (s : State) (e : Env) (a : Access) (hs : Canon s) : Canon (s.launchAcc e a) := by
  unfold State.launchAcc
  repeat' first
    | (with_reducible first | assumption | apply fresh_inv | apply onIssuer_inv)
    | (with_reducible first | apply raisePath_inv | apply settlePath_inv)
    | simp only [canon_mk]
    | split

theorem pairAbort_inv (s : State) (e : Env) (pairs : Mask) (hs : Canon s) : Canon (s.pairAbort e pairs) := by
  unfold State.pairAbort
  repeat' first
    | (with_reducible first | assumption | apply addScore_inv | apply abortAt_inv)

theorem releaseTeam_inv (s : State) (uid : Nat) (f : Held → Bool) (hs : Canon s) : Canon (s.releaseTeam uid f) := by
  unfold State.releaseTeam
  repeat' first
    | with_reducible assumption
    | simp only [canon_mk]

theorem checkBar_inv (s : State) (uid : Nat) (hs : Canon s) : Canon (s.checkBar uid) := by
  unfold State.checkBar
  repeat' first
    | (with_reducible first | assumption | apply releaseTeam_inv | apply setTeam_inv)
    | simp only [canon_mk]
    | split

theorem releaseClus_inv (s : State) (x2 : List (Nat × Team)) (hs : Canon s) : Canon (s.releaseClus x2) := by
  induction x2 generalizing s with
  | nil => exact hs
  | cons a r ih =>
    unfold State.releaseClus
    repeat' first
      | (with_reducible first | assumption | apply setTeam_inv | apply acquire_inv)
      | (with_reducible first | apply releaseTeam_inv | apply ih)

theorem checkClus_inv (s : State) (uid : Nat) (hs : Canon s) : Canon (s.checkClus uid) := by
  unfold State.checkClus
  repeat' first
    | (with_reducible first | assumption | apply releaseClus_inv)
    | simp only [canon_mk]
    | split

theorem acquireTeams_inv (s : State) (scope : Nat) (x3 : List Nat) (hs : Canon s) :
    Canon (s.acquireTeams scope x3) := by
  induction x3 generalizing s scope with
  | nil => exact hs
  | cons a r ih =>
    unfold State.acquireTeams
    repeat' first
      | (with_reducible first | assumption | apply acquire_inv | apply ih)

theorem dbarRelease_inv (s : State) (m : Nat) (hs : Canon s) : Canon (s.dbarRelease m) := by
  unfold State.dbarRelease
  repeat' first
    | (with_reducible first | assumption | apply setDom_inv | apply releaseTeam_inv)
    | (with_reducible first | apply acquireTeams_inv | refine inv_foldl ?_ ?_)
    | intro _
    | simp only [canon_mk]

theorem dbarAbort_inv (s : State) (m : Nat) (c : Cause) (hs : Canon s) : Canon (s.dbarAbort m c) := by
  unfold State.dbarAbort
  repeat' first
    | (with_reducible first | assumption | apply setDom_inv | apply abortKernel_inv)
    | with_reducible refine inv_foldl ?_ ?_
    | intro _

theorem checkDbar_inv (s : State) (m : Nat) (hs : Canon s) : Canon (s.checkDbar m) := by
  unfold State.checkDbar
  repeat' first
    | (with_reducible first | assumption | apply dbarRelease_inv)
    | simp only [canon_mk]
    | split

theorem dbarArrive_inv (s : State) (m r a : Nat) (loc : Bool) (hs : Canon s) : Canon (s.dbarArrive m r a loc) := by
  unfold State.dbarArrive
  repeat' first
    | (with_reducible first | assumption | apply dbarAbort_inv | apply checkDbar_inv)
    | with_reducible apply setDom_inv
    | simp only [canon_mk]
    | split

theorem chargeFlits_inv (s : State) (k hops : Nat) (m : Sent) (hs : Canon s) : Canon (s.chargeFlits k hops m) := by
  unfold State.chargeFlits
  repeat' first
    | (with_reducible first | assumption | apply charge_inv | apply chargeDie_inv)
    | split

theorem overLink_inv (s : State) (k hops : Nat) (m : Sent) (hs : Canon s) : Canon (s.overLink k hops m) := by
  unfold State.overLink
  repeat' first
    | (with_reducible first | assumption | apply chargeFlits_inv | apply send_inv)
    | with_reducible apply setLink_inv

theorem stamp_inv (s : State) (m : Sent) (hs : Canon s) : Canon (s.stamp m).2 := by
  unfold State.stamp
  repeat' first
    | (with_reducible first | assumption | apply setDom_inv)
    | simp only [canon_mk]
    | split

theorem ship_inv (s : State) (m : Sent) (hs : Canon s) : Canon (s.ship m) := by
  unfold State.ship
  repeat' first
    | (with_reducible first | assumption | apply stamp_inv | apply overLink_inv)
    | simp only [canon_mk]
    | split

theorem sendDom_inv (s : State) (m kind flits : Nat) (words : List Nat) (r : Nat) (payer : Option (Nat × Nat × Nat))
    (hs : Canon s) : Canon (s.sendDom m kind flits words r payer) := by
  unfold State.sendDom
  repeat' first
    | (with_reducible first | assumption | apply ship_inv)

theorem sendRanks_inv (s : State) (m kind flits : Nat) (words ranks : List Nat) (payer : Option (Nat × Nat × Nat)) (hs
    : Canon s) : Canon (s.sendRanks m kind flits words ranks payer) := by
  unfold State.sendRanks
  repeat' first
    | (with_reducible first | assumption | apply sendDom_inv | refine inv_foldl ?_ ?_)
    | intro _
    | split

theorem barrierAbort_inv (s : State) (core slot : Nat) (g : Group) (a : Arrival) (c : Cause) (hs : Canon s) :
    Canon (s.barrierAbort core slot g a c) := by
  unfold State.barrierAbort
  repeat' first
    | (with_reducible first | assumption | apply abortKernel_inv)

theorem releaseNamed_inv (s : State) (uid n : Nat) (phase : Bool) (hs : Canon s) :
    Canon (s.releaseNamed uid n phase) := by
  unfold State.releaseNamed
  repeat' first
    | with_reducible assumption
    | simp only [canon_mk]

theorem countNamed_inv (s : State) (core slot : Nat) (g : Group) (a : Arrival) (hs : Canon s) :
    Canon (s.countNamed core slot g a) := by
  unfold State.countNamed
  repeat' first
    | (with_reducible first | assumption | apply barrierAbort_inv | apply setGroup_inv)
    | (with_reducible first | apply setTeam_inv | apply releaseNamed_inv)
    | simp only [canon_mk]
    | split

theorem settleArrival_inv (s : State) (core slot : Nat) (hs : Canon s) : Canon (s.settleArrival core slot) := by
  unfold State.settleArrival
  repeat' first
    | (with_reducible first | assumption | apply setGroup_inv | apply checkBar_inv)
    | (with_reducible first | apply setTeam_inv | apply checkClus_inv | apply dbarArrive_inv)
    | (with_reducible first | apply sendRanks_inv | apply countNamed_inv)
    | simp only [canon_mk]
    | split

theorem postTeam_inv (s : State) (uid : Nat) (hs : Canon s) : Canon (s.postTeam uid) := by
  unfold State.postTeam
  repeat' first
    | (with_reducible first | assumption | apply setTeam_inv | apply setKern_inv)
    | simp only [canon_mk]
    | split

theorem checkLimit_inv (s : State) (kid : Nat) (hs : Canon s) : Canon (s.checkLimit kid) := by
  unfold State.checkLimit
  repeat' first
    | (with_reducible first | assumption | apply abortKernel_inv | apply setKern_inv)
    | simp only [canon_mk]
    | split

theorem chargeBack_inv (s : State) (t : Team) (hs : Canon s) : Canon (s.chargeBack t) := by
  unfold State.chargeBack
  repeat' first
    | (with_reducible first | assumption | apply setQueue_inv)

theorem settleCmd_inv (s : State) (c : Nat) (hs : Canon s) : Canon (s.settleCmd c) := by
  unfold State.settleCmd
  repeat' first
    | (with_reducible first | assumption | apply setCtx_inv)
    | simp only [canon_mk]
    | split

theorem settleCtx_inv (s : State) (c : Nat) (ev : TeamEvent) (hs : Canon s) : Canon (s.settleCtx c ev) := by
  unfold State.settleCtx
  repeat' first
    | (with_reducible first | assumption | apply setCtx_inv | apply settleCmd_inv)
    | split

theorem tryRetireTeam_inv (s : State) (uid : Nat) (hs : Canon s) : Canon (s.tryRetireTeam uid) := by
  unfold State.tryRetireTeam
  repeat' first
    | (with_reducible first | assumption | apply chargeBack_inv | apply postTeam_inv)
    | (with_reducible first | apply setKern_inv | apply setTeam_inv | apply settleCtx_inv)
    | (with_reducible first | apply returnAllowance_inv | apply checkLimit_inv)
    | with_reducible refine inv_foldl ?_ ?_
    | intro _
    | simp only [canon_mk]
    | split

theorem retireGroup_inv (s : State) (core slot : Nat) (hs : Canon s) : Canon (s.retireGroup core slot) := by
  unfold State.retireGroup
  repeat' first
    | (with_reducible first | assumption | apply dropGroup_inv | apply setTeam_inv)
    | (with_reducible first | apply abortKernel_inv | apply tryRetireTeam_inv)
    | (with_reducible first | apply returnAllowance_inv | apply checkClus_inv)
    | with_reducible apply checkBar_inv
    | simp only [canon_mk]
    | split

theorem popInto_inv (s : State) (core slot x : Nat) (hs : Canon s) : Canon (s.popInto core slot x) := by
  unfold State.popInto
  repeat' first
    | (with_reducible first | assumption | apply fresh_inv | apply setGroup_inv)
    | simp only [canon_mk]
    | split

theorem merge_inv (s : State) (core slot pc : Nat) (hs : Canon s) : Canon (s.merge core slot pc) := by
  unfold State.merge
  repeat' first
    | (with_reducible first | assumption | apply setGroup_inv | apply popInto_inv)
    | simp only [canon_mk]
    | split

theorem settleSlots_inv (s : State) (core slot : Nat) (hs : Canon s) : Canon (s.settleSlots core slot) := by
  unfold State.settleSlots
  repeat' first
    | (with_reducible first | assumption | apply retireGroup_inv | apply popInto_inv)
    | (with_reducible first | apply merge_inv | apply settleArrival_inv)
    | split

theorem killLanes_inv (s : State) (core slot : Nat) (m : Mask) (hs : Canon s) : Canon (s.killLanes core slot m) := by
  unfold State.killLanes
  repeat' first
    | (with_reducible first | assumption | apply setGroup_inv | apply countErrCtx_inv)
    | (with_reducible first | apply settleSlots_inv | refine inv_foldl ?_ ?_)
    | intro _
    | simp only [canon_mk]
    | split

theorem memFault_inv (s : State) (e : Env) (c : Cause) (l addr : Nat) (hs : Canon s) :
    Canon (s.memFault e c l addr) := by
  unfold State.memFault
  repeat' first
    | (with_reducible first | assumption | apply faultAt_inv)

theorem issueGlobal_inv (i : Instr) (o : Fields) (s : State) (op : AccOp) (path k : Nat) (ret compared atom : Bool)
    (data : Env → Nat → List Nat) (hs : Canon s) : OutInv (issueGlobal i o s op path k ret compared atom data) := by
  unfold issueGlobal
  repeat' first
    | (with_reducible first | assumption | apply issue_inv | apply pairAbort_inv)
    | (with_reducible first | apply memFault_inv | apply launchAcc_inv)
    | intro _
    | simp only [canon_mk]
    | split

theorem execLdgRaw_inv (o : Fields) (s : State) (hs : Canon s) : OutInv (execLdgRaw o s) := by
  unfold execLdgRaw
  repeat' first
    | (with_reducible first | assumption | apply issueGlobal_inv)

theorem execLdgElem_inv (o : Fields) (s : State) (hs : Canon s) : OutInv (execLdgElem o s) := by
  unfold execLdgElem
  repeat' first
    | (with_reducible first | assumption | apply issueGlobal_inv)

theorem execStgRaw_inv (o : Fields) (s : State) (hs : Canon s) : OutInv (execStgRaw o s) := by
  unfold execStgRaw
  repeat' first
    | (with_reducible first | assumption | apply issueGlobal_inv)

theorem execStgElem_inv (o : Fields) (s : State) (hs : Canon s) : OutInv (execStgElem o s) := by
  unfold execStgElem
  repeat' first
    | (with_reducible first | assumption | apply issueGlobal_inv)

theorem execAtomg_inv (o : Fields) (s : State) (hs : Canon s) : OutInv (execAtomg o s) := by
  unfold execAtomg
  repeat' first
    | (with_reducible first | assumption | apply issueGlobal_inv)

theorem execRed_inv (o : Fields) (s : State) (hs : Canon s) : OutInv (execRed o s) := by
  unfold execRed
  repeat' first
    | (with_reducible first | assumption | apply issueGlobal_inv)

theorem issueScratch_inv (i : Instr) (o : Fields) (s : State) (op : AccOp) (clus : Bool) (k : Nat) (ret compared :
    Bool) (data : Env → Nat → List Nat) (hs : Canon s) :
    OutInv (issueScratch i o s op clus k ret compared data) := by
  unfold issueScratch
  repeat' first
    | (with_reducible first | assumption | apply issue_inv | apply pairAbort_inv)
    | (with_reducible first | apply memFault_inv | apply charge_inv | apply launchAcc_inv)
    | intro _
    | simp only [canon_mk]
    | split

theorem execLds_inv (o : Fields) (s : State) (hs : Canon s) : OutInv (execLds o s) := by
  unfold execLds
  repeat' first
    | (with_reducible first | assumption | apply issueScratch_inv)

theorem execSts_inv (o : Fields) (s : State) (hs : Canon s) : OutInv (execSts o s) := by
  unfold execSts
  repeat' first
    | (with_reducible first | assumption | apply issueScratch_inv)

theorem execLdsc_inv (o : Fields) (s : State) (hs : Canon s) : OutInv (execLdsc o s) := by
  unfold execLdsc
  repeat' first
    | (with_reducible first | assumption | apply issueScratch_inv)

theorem execStsc_inv (o : Fields) (s : State) (hs : Canon s) : OutInv (execStsc o s) := by
  unfold execStsc
  repeat' first
    | (with_reducible first | assumption | apply issueScratch_inv)

theorem execAtoms_inv (o : Fields) (s : State) (hs : Canon s) : OutInv (execAtoms o s) := by
  unfold execAtoms
  repeat' first
    | (with_reducible first | assumption | apply issueScratch_inv)

theorem execFence_inv (o : Fields) (s : State) (hs : Canon s) : OutInv (execFence o s) := by
  unfold execFence
  repeat' first
    | (with_reducible first | assumption | apply issue_inv | apply holdUntil_inv)
    | intro _

theorem execWaitc_inv (o : Fields) (s : State) (hs : Canon s) : OutInv (execWaitc o s) := by
  unfold execWaitc
  repeat' first
    | (with_reducible first | assumption | apply issue_inv | apply holdUntil_inv)
    | intro _

theorem prefetch_inv (s : State) (e : Env) (l1 : Bool) (va : Nat) (hs : Canon s) : Canon (s.prefetch e l1 va) := by
  unfold State.prefetch
  repeat' first
    | (with_reducible first | assumption | apply translate_inv | apply serveL2_inv)
    | with_reducible apply l1Fill_inv
    | refine inv_of_snd (by assumption) ?_
    | simp only [canon_mk]
    | split

theorem prefetchAll_inv (s : State) (e : Env) (l1 : Bool) (x4 : List Nat) (hs : Canon s) :
    Canon (s.prefetchAll e l1 x4) := by
  induction x4 generalizing s e l1 with
  | nil => exact hs
  | cons a r ih =>
    unfold State.prefetchAll
    repeat' first
      | (with_reducible first | assumption | apply prefetch_inv | apply ih)

theorem execPref_inv (o : Fields) (s : State) (hs : Canon s) : OutInv (execPref o s) := by
  unfold execPref
  repeat' first
    | (with_reducible first | assumption | apply issue_inv | apply prefetchAll_inv)
    | intro _

theorem execCinv_inv (o : Fields) (s : State) (hs : Canon s) : OutInv (execCinv o s) := by
  unfold execCinv
  repeat' first
    | (with_reducible first | assumption | apply issue_inv | apply l1Drop_inv)
    | intro _
    | split

theorem issueS_inv (i : Instr) (o : Fields) (s : State) (f : Env → Int) (hs : Canon s) :
    OutInv (issueS i o s f) := by
  unfold issueS
  repeat' first
    | (with_reducible first | assumption | apply issue_inv | apply putS_inv)
    | intro _
    | split

theorem execSadd_inv (o : Fields) (s : State) (hs : Canon s) : OutInv (execSadd o s) := by
  unfold execSadd
  repeat' first
    | (with_reducible first | assumption | apply issueS_inv)

theorem execSsub_inv (o : Fields) (s : State) (hs : Canon s) : OutInv (execSsub o s) := by
  unfold execSsub
  repeat' first
    | (with_reducible first | assumption | apply issueS_inv)

theorem execSmin_inv (o : Fields) (s : State) (hs : Canon s) : OutInv (execSmin o s) := by
  unfold execSmin
  repeat' first
    | (with_reducible first | assumption | apply issueS_inv)

theorem execSmax_inv (o : Fields) (s : State) (hs : Canon s) : OutInv (execSmax o s) := by
  unfold execSmax
  repeat' first
    | (with_reducible first | assumption | apply issueS_inv)

theorem execSmul_inv (o : Fields) (s : State) (hs : Canon s) : OutInv (execSmul o s) := by
  unfold execSmul
  repeat' first
    | (with_reducible first | assumption | apply issueS_inv)

theorem execSmulh_inv (o : Fields) (s : State) (hs : Canon s) : OutInv (execSmulh o s) := by
  unfold execSmulh
  repeat' first
    | (with_reducible first | assumption | apply issueS_inv)

theorem execSmad_inv (o : Fields) (s : State) (hs : Canon s) : OutInv (execSmad o s) := by
  unfold execSmad
  repeat' first
    | (with_reducible first | assumption | apply issueS_inv)

theorem execSand_inv (o : Fields) (s : State) (hs : Canon s) : OutInv (execSand o s) := by
  unfold execSand
  repeat' first
    | (with_reducible first | assumption | apply issueS_inv)

theorem execSor_inv (o : Fields) (s : State) (hs : Canon s) : OutInv (execSor o s) := by
  unfold execSor
  repeat' first
    | (with_reducible first | assumption | apply issueS_inv)

theorem execSxor_inv (o : Fields) (s : State) (hs : Canon s) : OutInv (execSxor o s) := by
  unfold execSxor
  repeat' first
    | (with_reducible first | assumption | apply issueS_inv)

theorem execSandn_inv (o : Fields) (s : State) (hs : Canon s) : OutInv (execSandn o s) := by
  unfold execSandn
  repeat' first
    | (with_reducible first | assumption | apply issueS_inv)

theorem execSshl_inv (o : Fields) (s : State) (hs : Canon s) : OutInv (execSshl o s) := by
  unfold execSshl
  repeat' first
    | (with_reducible first | assumption | apply issueS_inv)

theorem execSshr_inv (o : Fields) (s : State) (hs : Canon s) : OutInv (execSshr o s) := by
  unfold execSshr
  repeat' first
    | (with_reducible first | assumption | apply issueS_inv)

theorem execSsra_inv (o : Fields) (s : State) (hs : Canon s) : OutInv (execSsra o s) := by
  unfold execSsra
  repeat' first
    | (with_reducible first | assumption | apply issueS_inv)

theorem execSpopc_inv (o : Fields) (s : State) (hs : Canon s) : OutInv (execSpopc o s) := by
  unfold execSpopc
  repeat' first
    | (with_reducible first | assumption | apply issueS_inv)

theorem execSclz_inv (o : Fields) (s : State) (hs : Canon s) : OutInv (execSclz o s) := by
  unfold execSclz
  repeat' first
    | (with_reducible first | assumption | apply issueS_inv)

theorem execSbfe_inv (o : Fields) (s : State) (hs : Canon s) : OutInv (execSbfe o s) := by
  unfold execSbfe
  repeat' first
    | (with_reducible first | assumption | apply issueS_inv)

theorem execSbfi_inv (o : Fields) (s : State) (hs : Canon s) : OutInv (execSbfi o s) := by
  unfold execSbfi
  repeat' first
    | (with_reducible first | assumption | apply issueS_inv)

theorem execScmp_inv (o : Fields) (s : State) (hs : Canon s) : OutInv (execScmp o s) := by
  unfold execScmp
  repeat' first
    | (with_reducible first | assumption | apply issue_inv | apply putP_inv)
    | intro _
    | split

theorem execSsel_inv (o : Fields) (s : State) (hs : Canon s) : OutInv (execSsel o s) := by
  unfold execSsel
  repeat' first
    | (with_reducible first | assumption | apply issueS_inv)

theorem execSmov_inv (o : Fields) (s : State) (hs : Canon s) : OutInv (execSmov o s) := by
  unfold execSmov
  repeat' first
    | (with_reducible first | assumption | apply issueS_inv)

theorem execSlea_inv (o : Fields) (s : State) (hs : Canon s) : OutInv (execSlea o s) := by
  unfold execSlea
  repeat' first
    | (with_reducible first | assumption | apply issueS_inv)

theorem execSmovi_inv (o : Fields) (s : State) (hs : Canon s) : OutInv (execSmovi o s) := by
  unfold execSmovi
  repeat' first
    | (with_reducible first | assumption | apply issueS_inv)

theorem laneCost_inv (s : State) (e : Env) (ev k : Nat) (hs : Canon s) : Canon (s.laneCost e ev k) := by
  unfold State.laneCost
  repeat' first
    | (with_reducible first | assumption | apply charge_inv)

theorem issueV_inv (i : Instr) (o : Fields) (s : State) (ev k : Nat) (wide : Bool) (f : Env → Nat → Nat) (hs : Canon
    s) : OutInv (issueV i o s ev k wide f) := by
  unfold issueV
  repeat' first
    | (with_reducible first | assumption | apply issue_inv | apply putV_inv | apply laneCost_inv)
    | intro _

theorem issueVI_inv (i : Instr) (o : Fields) (s : State) (k : Nat) (f : Env → Nat → Int) (hs : Canon s) :
    OutInv (issueVI i o s k f) := by
  unfold issueVI
  repeat' first
    | (with_reducible first | assumption | apply issueV_inv)

theorem execVadd_inv (o : Fields) (s : State) (hs : Canon s) : OutInv (execVadd o s) := by
  unfold execVadd
  repeat' first
    | (with_reducible first | assumption | apply issueVI_inv)

theorem execVsub_inv (o : Fields) (s : State) (hs : Canon s) : OutInv (execVsub o s) := by
  unfold execVsub
  repeat' first
    | (with_reducible first | assumption | apply issueVI_inv)

theorem execVmul_inv (o : Fields) (s : State) (hs : Canon s) : OutInv (execVmul o s) := by
  unfold execVmul
  repeat' first
    | (with_reducible first | assumption | apply issueVI_inv)

theorem execVmulh_inv (o : Fields) (s : State) (hs : Canon s) : OutInv (execVmulh o s) := by
  unfold execVmulh
  repeat' first
    | (with_reducible first | assumption | apply issueVI_inv)

theorem execVmad_inv (o : Fields) (s : State) (hs : Canon s) : OutInv (execVmad o s) := by
  unfold execVmad
  repeat' first
    | (with_reducible first | assumption | apply issueVI_inv)

theorem execVmadw_inv (o : Fields) (s : State) (hs : Canon s) : OutInv (execVmadw o s) := by
  unfold execVmadw
  repeat' first
    | (with_reducible first | assumption | apply issueV_inv)

theorem execVdot4_inv (o : Fields) (s : State) (hs : Canon s) : OutInv (execVdot4 o s) := by
  unfold execVdot4
  repeat' first
    | (with_reducible first | assumption | apply issueV_inv)

theorem execVabs_inv (o : Fields) (s : State) (hs : Canon s) : OutInv (execVabs o s) := by
  unfold execVabs
  repeat' first
    | (with_reducible first | assumption | apply issueVI_inv)

theorem execVneg_inv (o : Fields) (s : State) (hs : Canon s) : OutInv (execVneg o s) := by
  unfold execVneg
  repeat' first
    | (with_reducible first | assumption | apply issueVI_inv)

theorem execVmin_inv (o : Fields) (s : State) (hs : Canon s) : OutInv (execVmin o s) := by
  unfold execVmin
  repeat' first
    | (with_reducible first | assumption | apply issueVI_inv)

theorem execVmax_inv (o : Fields) (s : State) (hs : Canon s) : OutInv (execVmax o s) := by
  unfold execVmax
  repeat' first
    | (with_reducible first | assumption | apply issueVI_inv)

theorem execVand_inv (o : Fields) (s : State) (hs : Canon s) : OutInv (execVand o s) := by
  unfold execVand
  repeat' first
    | (with_reducible first | assumption | apply issueVI_inv)

theorem execVor_inv (o : Fields) (s : State) (hs : Canon s) : OutInv (execVor o s) := by
  unfold execVor
  repeat' first
    | (with_reducible first | assumption | apply issueVI_inv)

theorem execVxor_inv (o : Fields) (s : State) (hs : Canon s) : OutInv (execVxor o s) := by
  unfold execVxor
  repeat' first
    | (with_reducible first | assumption | apply issueVI_inv)

theorem execVnot_inv (o : Fields) (s : State) (hs : Canon s) : OutInv (execVnot o s) := by
  unfold execVnot
  repeat' first
    | (with_reducible first | assumption | apply issueVI_inv)

theorem execVshl_inv (o : Fields) (s : State) (hs : Canon s) : OutInv (execVshl o s) := by
  unfold execVshl
  repeat' first
    | (with_reducible first | assumption | apply issueVI_inv)

theorem execVshr_inv (o : Fields) (s : State) (hs : Canon s) : OutInv (execVshr o s) := by
  unfold execVshr
  repeat' first
    | (with_reducible first | assumption | apply issueVI_inv)

theorem execVsra_inv (o : Fields) (s : State) (hs : Canon s) : OutInv (execVsra o s) := by
  unfold execVsra
  repeat' first
    | (with_reducible first | assumption | apply issueVI_inv)

theorem execVrot_inv (o : Fields) (s : State) (hs : Canon s) : OutInv (execVrot o s) := by
  unfold execVrot
  repeat' first
    | (with_reducible first | assumption | apply issueVI_inv)

theorem execVpopc_inv (o : Fields) (s : State) (hs : Canon s) : OutInv (execVpopc o s) := by
  unfold execVpopc
  repeat' first
    | (with_reducible first | assumption | apply issueVI_inv)

theorem execVclz_inv (o : Fields) (s : State) (hs : Canon s) : OutInv (execVclz o s) := by
  unfold execVclz
  repeat' first
    | (with_reducible first | assumption | apply issueVI_inv)

theorem execVbrev_inv (o : Fields) (s : State) (hs : Canon s) : OutInv (execVbrev o s) := by
  unfold execVbrev
  repeat' first
    | (with_reducible first | assumption | apply issueVI_inv)

theorem execVbfe_inv (o : Fields) (s : State) (hs : Canon s) : OutInv (execVbfe o s) := by
  unfold execVbfe
  repeat' first
    | (with_reducible first | assumption | apply issueVI_inv)

theorem execVbfi_inv (o : Fields) (s : State) (hs : Canon s) : OutInv (execVbfi o s) := by
  unfold execVbfi
  repeat' first
    | (with_reducible first | assumption | apply issueVI_inv)

theorem execVsel_inv (o : Fields) (s : State) (hs : Canon s) : OutInv (execVsel o s) := by
  unfold execVsel
  repeat' first
    | (with_reducible first | assumption | apply issueV_inv)

theorem execVmov_inv (o : Fields) (s : State) (hs : Canon s) : OutInv (execVmov o s) := by
  unfold execVmov
  repeat' first
    | (with_reducible first | assumption | apply issueV_inv)

theorem setDeadRead_inv (s : State) (e : Env) (hs : Canon s) : Canon (s.setDeadRead e) := by
  unfold State.setDeadRead
  repeat' first
    | (with_reducible first | assumption | apply onIssuer_inv)

theorem execVmovs_inv (o : Fields) (s : State) (hs : Canon s) : OutInv (execVmovs o s) := by
  unfold execVmovs
  repeat' first
    | (with_reducible first | assumption | apply issue_inv | apply charge_inv)
    | (with_reducible first | apply setDeadRead_inv | apply putS_inv)
    | intro _
    | split

theorem execVcmp_inv (o : Fields) (s : State) (hs : Canon s) : OutInv (execVcmp o s) := by
  unfold execVcmp
  repeat' first
    | (with_reducible first | assumption | apply issue_inv | apply putPLanes_inv)
    | with_reducible apply laneCost_inv
    | intro _

theorem issueP_inv (i : Instr) (o : Fields) (s : State) (f : Env → W32) (hs : Canon s) :
    OutInv (issueP i o s f) := by
  unfold issueP
  repeat' first
    | (with_reducible first | assumption | apply issue_inv | apply putPLanes_inv)
    | intro _

theorem execPand_inv (o : Fields) (s : State) (hs : Canon s) : OutInv (execPand o s) := by
  unfold execPand
  repeat' first
    | (with_reducible first | assumption | apply issueP_inv)

theorem execPor_inv (o : Fields) (s : State) (hs : Canon s) : OutInv (execPor o s) := by
  unfold execPor
  repeat' first
    | (with_reducible first | assumption | apply issueP_inv)

theorem execPxor_inv (o : Fields) (s : State) (hs : Canon s) : OutInv (execPxor o s) := by
  unfold execPxor
  repeat' first
    | (with_reducible first | assumption | apply issueP_inv)

theorem execPnot_inv (o : Fields) (s : State) (hs : Canon s) : OutInv (execPnot o s) := by
  unfold execPnot
  repeat' first
    | (with_reducible first | assumption | apply issueP_inv)

theorem execPmov_inv (o : Fields) (s : State) (hs : Canon s) : OutInv (execPmov o s) := by
  unfold execPmov
  repeat' first
    | (with_reducible first | assumption | apply issueP_inv)

theorem execPcnt_inv (o : Fields) (s : State) (hs : Canon s) : OutInv (execPcnt o s) := by
  unfold execPcnt
  repeat' first
    | (with_reducible first | assumption | apply issue_inv | apply putS_inv)
    | intro _

theorem execPffs_inv (o : Fields) (s : State) (hs : Canon s) : OutInv (execPffs o s) := by
  unfold execPffs
  repeat' first
    | (with_reducible first | assumption | apply issue_inv | apply putS_inv)
    | intro _

theorem issueF_inv (i : Instr) (o : Fields) (s : State) (ev k : Nat) (wide : Bool) (f : Env → Nat → Nat × FFlags) (hs
    : Canon s) : OutInv (issueF i o s ev k wide f) := by
  unfold issueF
  repeat' first
    | (with_reducible first | assumption | apply issue_inv | apply orFlags_inv | apply putV_inv)
    | with_reducible apply laneCost_inv
    | intro _

theorem issueArith_inv (i : Instr) (o : Fields) (s : State) (op : Fmt → RMode → Nat → Nat → Nat → Nat × FFlags) (hs :
    Canon s) : OutInv (issueArith i o s op) := by
  unfold issueArith
  repeat' first
    | (with_reducible first | assumption | apply issueF_inv)

theorem issueMinMax_inv (i : Instr) (o : Fields) (s : State) (isMax nanForm : Bool) (hs : Canon s) :
    OutInv (issueMinMax i o s isMax nanForm) := by
  unfold issueMinMax
  repeat' first
    | (with_reducible first | assumption | apply issueF_inv)

theorem execFadd_inv (o : Fields) (s : State) (hs : Canon s) : OutInv (execFadd o s) := by
  unfold execFadd
  repeat' first
    | (with_reducible first | assumption | apply issueArith_inv)

theorem execFsub_inv (o : Fields) (s : State) (hs : Canon s) : OutInv (execFsub o s) := by
  unfold execFsub
  repeat' first
    | (with_reducible first | assumption | apply issueArith_inv)

theorem execFmul_inv (o : Fields) (s : State) (hs : Canon s) : OutInv (execFmul o s) := by
  unfold execFmul
  repeat' first
    | (with_reducible first | assumption | apply issueArith_inv)

theorem execFfma_inv (o : Fields) (s : State) (hs : Canon s) : OutInv (execFfma o s) := by
  unfold execFfma
  repeat' first
    | (with_reducible first | assumption | apply issueArith_inv)

theorem execFmin_inv (o : Fields) (s : State) (hs : Canon s) : OutInv (execFmin o s) := by
  unfold execFmin
  repeat' first
    | (with_reducible first | assumption | apply issueMinMax_inv)

theorem execFmax_inv (o : Fields) (s : State) (hs : Canon s) : OutInv (execFmax o s) := by
  unfold execFmax
  repeat' first
    | (with_reducible first | assumption | apply issueMinMax_inv)

theorem execFminNan_inv (o : Fields) (s : State) (hs : Canon s) : OutInv (execFminNan o s) := by
  unfold execFminNan
  repeat' first
    | (with_reducible first | assumption | apply issueMinMax_inv)

theorem execFmaxNan_inv (o : Fields) (s : State) (hs : Canon s) : OutInv (execFmaxNan o s) := by
  unfold execFmaxNan
  repeat' first
    | (with_reducible first | assumption | apply issueMinMax_inv)

theorem execFcmp_inv (o : Fields) (s : State) (hs : Canon s) : OutInv (execFcmp o s) := by
  unfold execFcmp
  repeat' first
    | (with_reducible first | assumption | apply issue_inv | apply putPLanes_inv)
    | (with_reducible first | apply laneCost_inv | apply orFlags_inv)
    | intro _

theorem execFclass_inv (o : Fields) (s : State) (hs : Canon s) : OutInv (execFclass o s) := by
  unfold execFclass
  repeat' first
    | (with_reducible first | assumption | apply issueF_inv)

theorem execFscale_inv (o : Fields) (s : State) (hs : Canon s) : OutInv (execFscale o s) := by
  unfold execFscale
  repeat' first
    | (with_reducible first | assumption | apply issueF_inv)

theorem execFrnd_inv (o : Fields) (s : State) (hs : Canon s) : OutInv (execFrnd o s) := by
  unfold execFrnd
  repeat' first
    | (with_reducible first | assumption | apply issueF_inv)

theorem issueDeferred_inv (i : Instr) (o : Fields) (s : State) (f : Env → Nat → Nat × FFlags) (hs : Canon s) :
    OutInv (issueDeferred i o s f) := by
  unfold issueDeferred
  repeat' first
    | (with_reducible first | assumption | apply issue_inv | apply laneCost_inv)
    | with_reducible apply launchAcc_inv
    | intro _

theorem issueSfu_inv (i : Instr) (o : Fields) (s : State) (op : Fmt → Nat → Nat → Nat × FFlags) (hs : Canon s) :
    OutInv (issueSfu i o s op) := by
  unfold issueSfu
  repeat' first
    | (with_reducible first | assumption | apply issueDeferred_inv)

theorem execFdiv_inv (o : Fields) (s : State) (hs : Canon s) : OutInv (execFdiv o s) := by
  unfold execFdiv
  repeat' first
    | (with_reducible first | assumption | apply issueDeferred_inv)

theorem execFsqrt_inv (o : Fields) (s : State) (hs : Canon s) : OutInv (execFsqrt o s) := by
  unfold execFsqrt
  repeat' first
    | (with_reducible first | assumption | apply issueDeferred_inv)

theorem execFrcp_inv (o : Fields) (s : State) (hs : Canon s) : OutInv (execFrcp o s) := by
  unfold execFrcp
  repeat' first
    | (with_reducible first | assumption | apply issueSfu_inv)

theorem execFrsq_inv (o : Fields) (s : State) (hs : Canon s) : OutInv (execFrsq o s) := by
  unfold execFrsq
  repeat' first
    | (with_reducible first | assumption | apply issueSfu_inv)

theorem execFexp2_inv (o : Fields) (s : State) (hs : Canon s) : OutInv (execFexp2 o s) := by
  unfold execFexp2
  repeat' first
    | (with_reducible first | assumption | apply issueSfu_inv)

theorem execFlog2_inv (o : Fields) (s : State) (hs : Canon s) : OutInv (execFlog2 o s) := by
  unfold execFlog2
  repeat' first
    | (with_reducible first | assumption | apply issueSfu_inv)

theorem execFsinpi_inv (o : Fields) (s : State) (hs : Canon s) : OutInv (execFsinpi o s) := by
  unfold execFsinpi
  repeat' first
    | (with_reducible first | assumption | apply issueSfu_inv)

theorem execFcospi_inv (o : Fields) (s : State) (hs : Canon s) : OutInv (execFcospi o s) := by
  unfold execFcospi
  repeat' first
    | (with_reducible first | assumption | apply issueSfu_inv)

theorem advanceSr_inv (s : State) (e : Env) (hs : Canon s) : Canon (s.advanceSr e) := by
  unfold State.advanceSr
  repeat' first
    | (with_reducible first | assumption | apply onIssuer_inv)
    | split

theorem execCvt_inv (o : Fields) (s : State) (hs : Canon s) : OutInv (execCvt o s) := by
  unfold execCvt
  repeat' first
    | (with_reducible first | assumption | apply issue_inv | apply orFlags_inv)
    | (with_reducible first | apply advanceSr_inv | apply putV_inv | apply laneCost_inv)
    | intro _

theorem execQcvt_inv (o : Fields) (s : State) (hs : Canon s) : OutInv (execQcvt o s) := by
  unfold execQcvt
  repeat' first
    | (with_reducible first | assumption | apply issue_inv | apply orFlags_inv)
    | (with_reducible first | apply advanceSr_inv | apply putV_inv | apply laneCost_inv)
    | intro _

theorem execShfl_inv (mode : ShflMode) (o : Fields) (s : State) (hs : Canon s) : OutInv (execShfl mode o s) := by
  unfold execShfl
  repeat' first
    | (with_reducible first | assumption | apply issue_inv | apply charge_inv)
    | (with_reducible first | apply setDeadRead_inv | apply putV_inv)
    | intro _
    | split

theorem execVote_inv (mode : VoteMode) (o : Fields) (s : State) (hs : Canon s) : OutInv (execVote mode o s) := by
  unfold execVote
  repeat' first
    | (with_reducible first | assumption | apply issue_inv | apply putS_inv | apply charge_inv)
    | intro _

theorem execVred_inv (o : Fields) (s : State) (hs : Canon s) : OutInv (execVred o s) := by
  unfold execVred
  repeat' first
    | (with_reducible first | assumption | apply issue_inv | apply charge_inv | apply putS_inv)
    | with_reducible apply orFlags_inv
    | intro _

theorem execVscan_inv (o : Fields) (s : State) (hs : Canon s) : OutInv (execVscan o s) := by
  unfold execVscan
  repeat' first
    | (with_reducible first | assumption | apply issue_inv | apply charge_inv | apply putV_inv)
    | with_reducible apply orFlags_inv
    | intro _

theorem execVfirst_inv (o : Fields) (s : State) (hs : Canon s) : OutInv (execVfirst o s) := by
  unfold execVfirst
  repeat' first
    | (with_reducible first | assumption | apply issue_inv | apply putS_inv | apply charge_inv)
    | intro _

theorem modMember_inv (s : State) (uid gidx : Nat) (f : Group → Group) (hs : Canon s) :
    Canon (s.modMember uid gidx f) := by
  unfold State.modMember
  repeat' first
    | (with_reducible first | assumption | apply modGroup_inv | apply setTeam_inv)
    | split

theorem enterPool_inv (s : State) (kid : Nat) (r : Rec) (hs : Canon s) : Canon (s.enterPool kid r) := by
  unfold State.enterPool
  repeat' first
    | (with_reducible first | assumption | apply leaveIdle_inv | apply setKern_inv)

theorem makeRecord_inv (s : State) (kid : Nat) (r : Rec) (by_ : Option Nat) (hs : Canon s) :
    Canon (s.makeRecord kid r by_) := by
  unfold State.makeRecord
  repeat' first
    | (with_reducible first | assumption | apply enterPool_inv | apply setKern_inv)
    | simp only [canon_mk]
    | split

theorem finishAcc_inv (s : State) (id : Nat) (hs : Canon s) : Canon (s.finishAcc id) := by
  unfold State.finishAcc
  repeat' first
    | (with_reducible first | assumption | apply settlePath_inv)
    | simp only [canon_mk]
    | split

theorem execPoolRecordEntry_inv (kid : Nat) (s : State) (hs : Canon s) : OutInv (execPoolRecordEntry kid s) := by
  unfold execPoolRecordEntry
  repeat' first
    | (with_reducible first | assumption | apply enterPool_inv | apply setKern_inv)
    | (with_reducible first | apply finishAcc_inv | apply outInv_next)
    | simp only [canon_mk]
    | split

theorem write64_inv (s : State) (key pa x : Nat) (hs : Canon s) : Canon (s.write64 key pa x) := by
  unfold State.write64
  repeat' first
    | (with_reducible first | assumption | apply putAll_inv)

theorem joinStep_inv (s : State) (p : Payer) (key pa : Nat) (hs : Canon s) : Canon (s.joinStep p key pa).1 := by
  unfold State.joinStep
  repeat' first
    | (with_reducible first | assumption | apply charge_inv | apply touchL2_inv)
    | (with_reducible first | apply countErrCtx_inv | apply write64_inv)
    | simp only [canon_mk]
    | split

theorem headJoin_inv (s : State) (kid addr : Nat) (records : Bool) (hs : Canon s) :
    OptInv (s.headJoin kid addr records) := by
  unfold State.headJoin
  repeat' first
    | (with_reducible first | assumption | apply joinStep_inv | apply setKern_inv)
    | (with_reducible first | apply makeRecord_inv | apply optInv_some | exact optInv_none)
    | simp only [canon_mk]
    | split

theorem execTeamRetirementStep_inv (kid : Nat) (s : State) (hs : Canon s) :
    OutInv (execTeamRetirementStep kid s) := by
  unfold execTeamRetirementStep
  repeat' first
    | (with_reducible first | assumption | apply setKern_inv | apply headJoin_inv)
    | (with_reducible first | apply countErrCtx_inv | apply outInv_next)
    | refine inv_of_some (by assumption) ?_
    | simp only [canon_mk]
    | split

theorem execSpawn_inv (o : Fields) (s : State) (hs : Canon s) : OutInv (execSpawn o s) := by
  unfold execSpawn
  repeat' first
    | (with_reducible first | assumption | apply issue_inv | apply faultAt_inv)
    | (with_reducible first | apply launchAcc_inv | apply charge_inv)
    | intro _
    | simp only [canon_mk]
    | split

theorem execJdec_inv (o : Fields) (s : State) (hs : Canon s) : OutInv (execJdec o s) := by
  unfold execJdec
  repeat' first
    | (with_reducible first | assumption | apply issue_inv | apply faultAt_inv)
    | with_reducible apply launchAcc_inv
    | intro _
    | simp only [canon_mk]
    | split

theorem launchCopy_inv (s : State) (e : Env) (i : Instr) (a b : Nat) (c : List Nat) (hs : Canon s) :
    Canon (s.launchCopy e i a b c) := by
  unfold State.launchCopy
  repeat' first
    | (with_reducible first | assumption | apply fresh_inv | apply raisePath_inv)
    | simp only [canon_mk]

theorem execCpy_inv (o : Fields) (s : State) (hs : Canon s) : OutInv (execCpy o s) := by
  unfold execCpy
  repeat' first
    | (with_reducible first | assumption | apply issue_inv | apply pairAbort_inv)
    | (with_reducible first | apply faultAt_inv | apply launchCopy_inv)
    | intro _
    | simp only [canon_mk]
    | split

theorem execTcpy_inv (o : Fields) (s : State) (hs : Canon s) : OutInv (execTcpy o s) := by
  unfold execTcpy
  repeat' first
    | (with_reducible first | assumption | apply issue_inv | apply pairAbort_inv)
    | (with_reducible first | apply faultAt_inv | apply launchCopy_inv)
    | intro _
    | simp only [canon_mk]
    | split

theorem walkMap_inv (s : State) (p : Payer) (stack : Nat) (k : AccKind) (x5 : List Nat) (hs : Canon s) :
    Canon (s.walkMap p stack k x5).2 := by
  induction x5 generalizing s p stack k with
  | nil => exact hs
  | cons a r ih =>
    unfold State.walkMap
    repeat' first
      | (with_reducible first | assumption | apply translate_inv | apply ih)
      | refine inv_of_snd (by assumption) ?_
      | split

theorem copyAbort_inv (s : State) (c : CopyOp) (k : Cause) (addr : Nat) (hs : Canon s) :
    Canon (s.copyAbort c k addr) := by
  unfold State.copyAbort
  repeat' first
    | (with_reducible first | assumption | apply abortKernel_inv)

theorem copyFault_inv (s : State) (id : Nat) (c : CopyOp) (lo : Nat) (f : Nat × Nat × Nat × Nat × Option Cause) (hs :
    Canon s) : Canon (s.copyFault id c lo f) := by
  unfold State.copyFault
  repeat' first
    | (with_reducible first | assumption | apply copyAbort_inv)
    | simp only [canon_mk]
    | split

theorem touchRange_inv (s : State) (p : Payer) (m : PageMap) (wr : Bool) (a n : Nat) (hs : Canon s) :
    Canon (s.touchRange p m wr a n) := by
  unfold State.touchRange
  repeat' first
    | (with_reducible first | assumption | apply charge_inv | apply storePoison_inv)
    | (with_reducible first | apply serveL2_inv | refine inv_foldl ?_ ?_)
    | intro _
    | simp only [canon_mk]
    | split

theorem touchSram_inv (s : State) (p : Payer) (a n : Nat) (hs : Canon s) : Canon (s.touchSram p a n) := by
  unfold State.touchSram
  repeat' first
    | (with_reducible first | assumption | apply charge_inv)

theorem sramPoisonAfter_inv (s : State) (ctx a n : Nat) (hs : Canon s) : Canon (s.sramPoisonAfter ctx a n) := by
  unfold State.sramPoisonAfter
  repeat' first
    | (with_reducible first | assumption | apply countErrCtx_inv | refine inv_foldl ?_ ?_)
    | intro _
    | simp only [canon_mk]
    | split

theorem settleCopies_inv (s : State) (uid gidx x4 : Nat) (hs : Canon s) : Canon (s.settleCopies uid gidx x4) := by
  induction x4 generalizing s uid gidx with
  | zero => exact hs
  | succ n ih =>
    unfold State.settleCopies
    repeat' first
      | (with_reducible first | assumption | apply modMember_inv | apply ih)
      | simp only [canon_mk]
      | split

theorem endCopy_inv (s : State) (id : Nat) (c : CopyOp) (hs : Canon s) : Canon (s.endCopy id c) := by
  unfold State.endCopy
  repeat' first
    | (with_reducible first | assumption | apply settleCopies_inv | apply tryRetireTeam_inv)
    | simp only [canon_mk]

theorem putGlobal_inv (s : State) (m : PageMap) (va : Nat) (b : Byte × Bool) (hs : Canon s) :
    Canon (s.putGlobal m va b) := by
  unfold State.putGlobal
  repeat' first
    | (with_reducible first | assumption | apply putKeyed_inv)
    | simp only [canon_mk]
    | split

theorem putSram_inv (s : State) (k : Nat) (b : Byte × Bool) (hs : Canon s) : Canon (s.putSram k b) := by
  unfold State.putSram
  extract_lets s1
  have h : Canon s1 := canon_sram _ hs (wf_set _ k b.1 hs.2.1)
  clear_value s1
  split <;> simpa only [canon_mk] using h

theorem l1DropRange_inv (s : State) (core ctx a n : Nat) (hs : Canon s) : Canon (s.l1DropRange core ctx a n) := by
  unfold State.l1DropRange
  repeat' first
    | (with_reducible first | assumption | apply l1Drop_inv)
    | split

theorem runCpy_inv (s : State) (id : Nat) (c : CopyOp) (o : Fields) (hs : Canon s) : Canon (s.runCpy id c o) := by
  unfold State.runCpy
  repeat' first
    | (with_reducible first | assumption | apply endCopy_inv | apply walkMap_inv)
    | (with_reducible first | apply copyFault_inv | apply touchSram_inv | apply touchRange_inv)
    | (with_reducible first | apply sramPoisonAfter_inv | apply l1DropRange_inv)
    | (with_reducible first | apply putSram_inv | apply putGlobal_inv | refine inv_foldl ?_ ?_)
    | intro _
    | refine inv_of_snd (by assumption) ?_
    | simp only [canon_mk]
    | split

theorem tcpyLoad_inv (s : State) (t : Tensor) (m : PageMap) (slot : Nat) (pos : Option Nat) (hs : Canon s) :
    Canon (s.tcpyLoad t m slot pos) := by
  unfold State.tcpyLoad
  repeat' first
    | (with_reducible first | assumption | apply putSram_inv | refine inv_foldl ?_ ?_)
    | intro _

theorem tcpyStore_inv (s : State) (t : Tensor) (m : PageMap) (slot pos : Nat) (hs : Canon s) :
    Canon (s.tcpyStore t m slot pos).1 := by
  unfold State.tcpyStore
  repeat' first
    | (with_reducible first | assumption | apply putGlobal_inv | refine inv_foldl ?_ ?_)
    | intro _
    | split

theorem runTensor_inv (s : State) (id : Nat) (c : CopyOp) (o : Fields) (t : Tensor) (hs : Canon s) :
    Canon (s.runTensor id c o t) := by
  unfold State.runTensor
  repeat' first
    | (with_reducible first | assumption | apply copyAbort_inv | apply walkMap_inv)
    | (with_reducible first | apply copyFault_inv | apply touchL2_inv | apply touchRange_inv)
    | (with_reducible first | apply charge_inv | apply tcpyStore_inv | apply l1DropRange_inv)
    | (with_reducible first | apply endCopy_inv | apply modMember_inv | apply tcpyLoad_inv)
    | (with_reducible first | apply sramPoisonAfter_inv | refine inv_foldl ?_ ?_)
    | with_reducible refine inv_foldl1 ?_ ?_
    | intro _
    | refine inv_of_snd (by assumption) ?_
    | simp only [canon_mk]
    | split

theorem runTcpy_inv (s : State) (id : Nat) (c : CopyOp) (o : Fields) (hs : Canon s) : Canon (s.runTcpy id c o) := by
  unfold State.runTcpy
  repeat' first
    | (with_reducible first | assumption | apply engineRead_inv | apply copyFault_inv)
    | (with_reducible first | apply runTensor_inv | apply copyAbort_inv)
    | refine inv_of_snd (by assumption) ?_
    | split

theorem engineAcquire_inv (s : State) (core ctx : Nat) (scope : Option Nat) (hs : Canon s) :
    Canon (s.engineAcquire core ctx scope) := by
  unfold State.engineAcquire
  repeat' first
    | (with_reducible first | assumption | apply fenceDrops_inv)
    | split

theorem execCopyComplete_inv (id : Nat) (s : State) (hs : Canon s) : OutInv (execCopyComplete id s) := by
  unfold execCopyComplete
  repeat' first
    | (with_reducible first | assumption | apply runCpy_inv | apply engineAcquire_inv)
    | (with_reducible first | apply runTcpy_inv | apply outInv_next)
    | simp only [canon_mk]
    | split

theorem execColl_inv (o : Fields) (s : State) (hs : Canon s) : OutInv (execColl o s) := by
  unfold execColl
  repeat' first
    | (with_reducible first | assumption | apply issue_inv | apply faultAt_inv)
    | (with_reducible first | apply engineRead_inv | apply launchAcc_inv | apply hold_inv)
    | (with_reducible first | apply setPc_inv | apply fresh_inv)
    | intro _
    | refine inv_of_snd (by assumption) ?_
    | simp only [canon_mk]
    | split

theorem dropInbox_inv (s : State) (c : CollOp) (hs : Canon s) : Canon (s.dropInbox c) := by
  unfold State.dropInbox
  repeat' first
    | (with_reducible first | assumption | apply setDom_inv)
    | split

theorem freeRecv_inv (s : State) (c : CollOp) (hs : Canon s) : Canon (s.freeRecv c) := by
  unfold State.freeRecv
  repeat' first
    | (with_reducible first | assumption | apply walkUnits_inv | apply putAll_inv)
    | simp only [canon_mk]

theorem endColl_inv (s : State) (id : Nat) (c : CollOp) (v : Nat) (hs : Canon s) : Canon (s.endColl id c v) := by
  unfold State.endColl
  repeat' first
    | (with_reducible first | assumption | apply freeRecv_inv | apply dropInbox_inv)
    | (with_reducible first | apply engineWrite_inv | apply countErrCtx_inv)
    | refine inv_of_snd (by assumption) ?_
    | simp only [canon_mk]
    | split

theorem collFault_inv (s : State) (id : Nat) (c : CollOp) (lo : Nat) (f : Nat × Nat × Nat × Nat × Option Cause) (hs :
    Canon s) : Canon (s.collFault id c lo f) := by
  unfold State.collFault
  repeat' first
    | (with_reducible first | assumption | apply abortKernel_inv)
    | simp only [canon_mk]
    | split

theorem collSend_inv (s : State) (c : CollOp) (kind : Nat) (words : List Nat) (flits : Nat) (hs : Canon s) :
    Canon (s.collSend c kind words flits) := by
  unfold State.collSend
  repeat' first
    | (with_reducible first | assumption | apply sendRanks_inv)
    | split

theorem collStart_inv (s : State) (id : Nat) (c : CollOp) (hs : Canon s) : Canon (s.collStart id c) := by
  unfold State.collStart
  repeat' first
    | (with_reducible first | assumption | apply engineAcquire_inv | apply engineRead_inv)
    | (with_reducible first | apply collFault_inv | apply collSend_inv)
    | refine inv_of_snd (by assumption) ?_
    | simp only [canon_mk]
    | split

theorem collFinish_inv (s : State) (id : Nat) (c : CollOp) (hs : Canon s) : Canon (s.collFinish id c) := by
  unfold State.collFinish
  repeat' first
    | (with_reducible first | assumption | apply engineWrite_inv | apply collFault_inv)
    | (with_reducible first | apply charge_inv | apply endColl_inv | apply modMember_inv)
    | refine inv_of_snd (by assumption) ?_
    | simp only [canon_mk]
    | split

theorem collGather_inv (s : State) (id : Nat) (c : CollOp) (hs : Canon s) : Canon (s.collGather id c).2 := by
  unfold State.collGather
  repeat' first
    | (with_reducible first | assumption | apply setDom_inv)
    | simp only [canon_mk]
    | split

theorem execCollectiveComplete_inv (id : Nat) (s : State) (hs : Canon s) : OutInv (execCollectiveComplete id s) := by
  unfold execCollectiveComplete
  repeat' first
    | (with_reducible first | assumption | apply collStart_inv | apply collGather_inv)
    | (with_reducible first | apply collFinish_inv | apply outInv_next)
    | simp only [canon_mk]
    | split

theorem execCollectiveAbort_inv (id : Nat) (why : CollEnd) (s : State) (hs : Canon s) :
    OutInv (execCollectiveAbort id why s) := by
  unfold execCollectiveAbort
  repeat' first
    | (with_reducible first | assumption | apply endColl_inv | apply collSend_inv)
    | with_reducible apply outInv_next
    | simp only [canon_mk]
    | split

theorem execSrd_inv (o : Fields) (s : State) (hs : Canon s) : OutInv (execSrd o s) := by
  unfold execSrd
  repeat' first
    | (with_reducible first | assumption | apply issue_inv | apply writeName_inv | apply putS_inv)
    | intro _
    | simp only [canon_mk]
    | split

theorem execSwr_inv (o : Fields) (s : State) (hs : Canon s) : OutInv (execSwr o s) := by
  unfold execSwr
  repeat' first
    | (with_reducible first | assumption | apply issue_inv | apply onIssuer_inv)
    | intro _
    | simp only [canon_mk]
    | split

theorem svcIrq_inv (s : State) (c : Nat) (hs : Canon s) : Canon (s.svcIrq c) := by
  unfold State.svcIrq
  repeat' first
    | (with_reducible first | assumption | apply raiseIrq_inv)
    | simp only [canon_mk]
    | split

theorem writeRecord_inv (s : State) (id : Nat) (a : Access) (hs : Canon s) : Canon (s.writeRecord id a) := by
  unfold State.writeRecord
  repeat' first
    | (with_reducible first | assumption | apply engineWrite_inv | apply setCtx_inv)
    | (with_reducible first | apply l1Drop_inv | apply svcIrq_inv | apply modGroup_inv)
    | with_reducible apply abortKernel_inv
    | refine inv_of_snd (by assumption) ?_
    | simp only [canon_mk]
    | split

theorem postRecord_inv (s : State) (e : Env) (lanes : Mask) (dst : Nat) (trap : Bool) (body : List Byte) (hs : Canon
    s) : Canon (s.postRecord e lanes dst trap body) := by
  unfold State.postRecord
  repeat' first
    | (with_reducible first | assumption | apply onIssuer_inv | apply hold_inv)
    | (with_reducible first | apply launchAcc_inv | apply writeRecord_inv)
    | simp only [canon_mk]
    | split

theorem execSvc_inv (o : Fields) (s : State) (hs : Canon s) : OutInv (execSvc o s) := by
  unfold execSvc
  repeat' first
    | (with_reducible first | assumption | apply issue_inv | apply pairAbort_inv)
    | (with_reducible first | apply charge_inv | apply postRecord_inv)
    | intro _
    | simp only [canon_mk]
    | split

theorem execTrap_inv (o : Fields) (s : State) (hs : Canon s) : OutInv (execTrap o s) := by
  unfold execTrap
  repeat' first
    | (with_reducible first | assumption | apply issue_inv | apply postRecord_inv)
    | with_reducible apply abortAt_inv
    | intro _
    | split

theorem execEnrd_inv (f : EnrdForm) (o : Fields) (s : State) (hs : Canon s) : OutInv (execEnrd f o s) := by
  unfold execEnrd
  repeat' first
    | (with_reducible first | assumption | apply issue_inv | apply putS_inv)
    | intro _
    | split

theorem execCaprd_inv (o : Fields) (s : State) (hs : Canon s) : OutInv (execCaprd o s) := by
  unfold execCaprd
  repeat' first
    | (with_reducible first | assumption | apply issue_inv | apply putS_inv)
    | intro _
    | split

theorem serveSector_inv (s : State) (a : Access) (x : Nat) (whole : Bool) (hs : Canon s) :
    Canon (s.serveSector a x whole) := by
  unfold State.serveSector
  repeat' first
    | (with_reducible first | assumption | apply charge_inv | apply serveL2_inv)
    | with_reducible apply l1Fill_inv
    | simp only [canon_mk]
    | split

theorem serveSectors_inv (s : State) (a : Access) (whole : Nat → Bool) (x4 : List Nat) (hs : Canon s) :
    Canon (s.serveSectors a whole x4) := by
  induction x4 generalizing s a whole with
  | nil => exact hs
  | cons a r ih =>
    unfold State.serveSectors
    repeat' first
      | (with_reducible first | assumption | apply serveSector_inv | apply ih)

theorem storeByte_inv (s u : State) (a : Access) (va : Nat) (b : Byte) (hs : Canon s) : Canon (s.storeByte u a va b) := by
  unfold State.storeByte; split
  · exact canon_sram _ hs (wf_set _ _ _ hs.2.1)
  · extract_lets x t
    have h : Canon t := putKeyed_inv _ _ _ _ hs
    clear_value t
    split
    · exact h
    · exact l1Store_inv _ _ _ _ _ _ _ _ _ h

theorem storeBytes_inv (s u : State) (a : Access) (va : Nat) (x5 : List Byte) (hs : Canon s) :
    Canon (s.storeBytes u a va x5) := by
  induction x5 generalizing s u a va with
  | nil => exact hs
  | cons a r ih =>
    unfold State.storeBytes
    repeat' first
      | (with_reducible first | assumption | apply storeByte_inv | apply ih)

theorem storeLane_inv (s u : State) (a : Access) (l : Nat) (hs : Canon s) : Canon (s.storeLane u a l).1 := by
  unfold State.storeLane
  repeat' first
    | (with_reducible first | assumption | apply storeBytes_inv | apply storeByte_inv)
    | with_reducible refine inv_foldl1 ?_ ?_
    | intro _
    | simp only [canon_mk]
    | split

theorem poisonAfter_inv (s u : State) (a : Access) (covered touched : List Nat) (hs : Canon s) :
    Canon (s.poisonAfter u a covered touched) := by
  unfold State.poisonAfter
  repeat' first
    | (with_reducible first | assumption | apply storePoison_inv | apply countErrCtx_inv)
    | with_reducible refine inv_foldl ?_ ?_
    | intro _
    | simp only [canon_mk]
    | split

theorem atomLane_inv (s u : State) (a : Access) (op l : Nat) (hs : Canon s) : Canon (s.atomLane u a op l).1 := by
  unfold State.atomLane
  repeat' first
    | (with_reducible first | assumption | apply storeBytes_inv)
    | simp only [canon_mk]
    | split

theorem atomLanes_inv (s u : State) (a : Access) (op : Nat) (x5 : List Nat) (hs : Canon s) :
    Canon (s.atomLanes u a op x5).1 := by
  induction x5 generalizing s u a op with
  | nil => exact hs
  | cons a r ih =>
    unfold State.atomLanes
    repeat' first
      | (with_reducible first | assumption | apply atomLane_inv | apply ih)
      | refine inv_of_fst (by assumption) ?_
      | split

theorem serveLanes_inv (s : State) (a : Access) (whole : Nat → Bool) (lanes : List Nat) (hs : Canon s) :
    Canon (s.serveLanes a whole lanes) := by
  unfold State.serveLanes
  repeat' first
    | (with_reducible first | assumption | apply touchL2_inv | apply serveSectors_inv)
    | with_reducible refine inv_foldl ?_ ?_
    | intro _

theorem performHere_inv (s : State) (a : Access) (lanes : List Nat) (hs : Canon s) :
    Canon (s.performHere a lanes).1 := by
  unfold State.performHere
  repeat' first
    | (with_reducible first | assumption | apply serveLanes_inv | apply poisonAfter_inv)
    | (with_reducible first | apply storeLane_inv | apply charge_inv | apply atomLanes_inv)
    | (with_reducible first | apply countErrCtx_inv | refine inv_foldl ?_ ?_)
    | with_reducible refine inv_foldl1 ?_ ?_
    | intro _
    | simp only [canon_mk]
    | split

theorem sendWindow_inv (s : State) (a : Access) (rank : Nat) (lanes : List Nat) (hs : Canon s) :
    Canon (s.sendWindow a rank lanes).1 := by
  unfold State.sendWindow
  repeat' first
    | (with_reducible first | assumption | apply fresh_inv | apply sendDom_inv)
    | split

theorem afterPerform_inv (s : State) (id : Nat) (a : Access) (hs : Canon s) : Canon (s.afterPerform id a) := by
  unfold State.afterPerform
  extract_lets s1 a1 s2 s3 s4 s5
  have h1 : Canon s1 := by
    unfold s1; split
    · exact hs
    · exact modGroup_inv _ _ _ _ hs
  have h2 : Canon s2 := h1
  have h3 : Canon s3 := by
    unfold s3; split
    · exact acquire_inv _ _ _ _ h2
    · exact h2
  have h4 : Canon s4 := finishAcc_inv _ _ h3
  have h5 : Canon s5 := by
    unfold s5
    repeat' first
      | (with_reducible first | assumption | apply killLanes_inv)
      | split
  split <;> exact settleArrival_inv _ _ _ (by assumption)

theorem accessAbort_inv (s : State) (a : Access) (c : Cause) (l : Nat) (hs : Canon s) :
    Canon (s.accessAbort a c l) := by
  unfold State.accessAbort
  repeat' first
    | (with_reducible first | assumption | apply abortKernel_inv)

theorem sendWindows_inv (s : State) (a : Access) (lanes x4 : List Nat) (hs : Canon s) :
    Canon (s.sendWindows a lanes x4).1 := by
  induction x4 generalizing s a lanes with
  | nil => exact hs
  | cons a r ih =>
    unfold State.sendWindows
    repeat' first
      | (with_reducible first | assumption | apply sendWindow_inv | apply ih)
      | split

theorem performAccess_inv (s : State) (id : Nat) (a : Access) (hs : Canon s) : Canon (s.performAccess id a) := by
  unfold State.performAccess
  repeat' first
    | (with_reducible first | assumption | apply performHere_inv | apply sendWindows_inv)
    | (with_reducible first | apply afterPerform_inv | apply accessAbort_inv)
    | simp only [canon_mk]
    | split

theorem windowAnswer_inv (s : State) (ctx rank k status : Nat) (done dead : Mask) (flags : BitVec 5) (vals : List
    (List Nat)) (hs : Canon s) : Canon (s.windowAnswer ctx rank k status done dead flags vals) := by
  unfold State.windowAnswer
  repeat' first
    | (with_reducible first | assumption | apply charge_inv | apply afterPerform_inv)
    | with_reducible apply accessAbort_inv
    | simp only [canon_mk]
    | split

theorem performSpawn_inv (s : State) (id : Nat) (a : Access) (hs : Canon s) : Canon (s.performSpawn id a) := by
  unfold State.performSpawn
  repeat' first
    | (with_reducible first | assumption | apply settleArrival_inv | apply finishAcc_inv)
    | with_reducible apply enterPool_inv
    | simp only [canon_mk]
    | split

theorem performJdec_inv (s : State) (id : Nat) (a : Access) (hs : Canon s) : Canon (s.performJdec id a) := by
  unfold State.performJdec
  repeat' first
    | (with_reducible first | assumption | apply accessAbort_inv | apply joinStep_inv)
    | (with_reducible first | apply l1DropRange_inv | apply makeRecord_inv)
    | (with_reducible first | apply settleArrival_inv | apply finishAcc_inv)
    | simp only [canon_mk]
    | split

theorem execGlobalAccessPerformed_inv (id : Nat) (s : State) (hs : Canon s) :
    OutInv (execGlobalAccessPerformed id s) := by
  unfold execGlobalAccessPerformed
  repeat' first
    | (with_reducible first | assumption | apply writeRecord_inv | apply performSpawn_inv)
    | (with_reducible first | apply performJdec_inv | apply performAccess_inv | apply outInv_next)
    | split

theorem execPageWalkComplete_inv (id : Nat) (s : State) (hs : Canon s) : OutInv (execPageWalkComplete id s) := by
  unfold execPageWalkComplete
  repeat' first
    | (with_reducible first | assumption | apply walk_inv | apply outInv_next)
    | refine inv_of_snd (by assumption) ?_
    | simp only [canon_mk]
    | split

theorem writeFault_inv (s : State) (ctx core slot : Nat) (f : PageFault) (hs : Canon s) :
    OptInv (s.writeFault ctx core slot f) := by
  unfold State.writeFault
  repeat' first
    | (with_reducible first | assumption | apply writeMem_inv | apply raiseIrq_inv)
    | (with_reducible first | apply setRing_inv | apply optInv_some | exact optInv_none)
    | simp only [canon_mk]
    | split

theorem execFaultRecordWrite_inv (id : Nat) (s : State) (hs : Canon s) : OutInv (execFaultRecordWrite id s) := by
  unfold execFaultRecordWrite
  repeat' first
    | (with_reducible first | assumption | apply writeFault_inv | apply outInv_next)
    | refine inv_of_some (by assumption) ?_
    | simp only [canon_mk]
    | split

theorem bindElem_inv (s : State) (a : Access) (m : Mask) (dst i : Nat) (hs : Canon s) :
    Canon (s.bindElem a m dst i) := by
  unfold State.bindElem
  repeat' first
    | (with_reducible first | assumption | apply charge_inv | apply writeName_inv)
    | simp only [canon_mk]
    | split

theorem dropReturn_inv (s : State) (id : Nat) (a : Access) (hs : Canon s) : Canon (s.dropReturn id a) := by
  unfold State.dropReturn
  repeat' first
    | (with_reducible first | assumption | apply countRegEv_inv)
    | simp only [canon_mk]

theorem execDeferredReturn_inv (id : Nat) (s : State) (hs : Canon s) : OutInv (execDeferredReturn id s) := by
  unfold execDeferredReturn
  repeat' first
    | (with_reducible first | assumption | apply dropReturn_inv | apply bindElem_inv)
    | (with_reducible first | apply modGroup_inv | apply finishAcc_inv | apply killLanes_inv)
    | (with_reducible first | apply settleArrival_inv | apply outInv_next)
    | with_reducible refine inv_foldl ?_ ?_
    | intro _
    | simp only [canon_mk]
    | split

theorem execDivergenceStackPopReturn_inv (core slot : Nat) (s : State) (hs : Canon s) :
    OutInv (execDivergenceStackPopReturn core slot s) := by
  unfold execDivergenceStackPopReturn
  repeat' first
    | (with_reducible first | assumption | apply abortKernel_inv | apply setGroup_inv)
    | (with_reducible first | apply killLanes_inv | apply settleSlots_inv | apply outInv_next)
    | simp only [canon_mk]
    | split

theorem raceByte_inv (s : State) (kid : Nat) (team : Option Nat) (va : Nat) (b : Byte) (hs : Canon s) :
    Canon (s.raceByte kid team va b) := by
  unfold State.raceByte
  repeat' first
    | (with_reducible first | assumption | apply putKeyed_inv)
    | exact canon_sram _ hs (wf_set _ _ _ hs.2.1)
    | split
    | (lift_lets; intro _)

theorem raceAbort_inv (s : State) (kid cause : Nat) (hs : Canon s) : Canon (s.raceAbort kid cause) := by
  unfold State.raceAbort
  repeat' first
    | (with_reducible first | assumption | apply abortKernel_inv)
    | split

theorem pickSlot_inv (s : State) (core q : Nat) (hs : Canon s) : Canon (s.pickSlot core q).2 := by
  unfold State.pickSlot
  repeat' first
    | (with_reducible first | assumption | apply draw_inv)

theorem startGroups_inv (s : State) (uid code : Nat) (k : Kernel) (x5 : List Nat) (hs : Canon s) :
    Canon (s.startGroups uid code k x5) := by
  induction x5 generalizing s uid code k with
  | nil => exact hs
  | cons a r ih =>
    unfold State.startGroups
    repeat' first
      | (with_reducible first | assumption | apply pickSlot_inv | apply newTag_inv)
      | (with_reducible first | apply setTeam_inv | apply setGroup_inv | apply ih)

theorem zeroTiles_inv (s : State) (core at_ n : Nat) (hs : Canon s) : Canon (s.zeroTiles core at_ n) := by
  exact ⟨hs.1, hs.2.1, wf_filter _ _ hs.2.2⟩

theorem startTeam_inv (s : State) (kid band prov core : Nat) (r : Rec) (hs : Canon s) :
    Canon (s.startTeam kid band prov core r) := by
  unfold State.startTeam
  refine settleCtx_inv _ _ _ (acquire_inv _ _ _ _ (startGroups_inv _ _ _ _ _ (setTeam_inv _ _ _ ?_)))
  have h := zeroTiles_inv _ core (s.fresh.2.bases core (s.kern kid).rec_.scratch (s.kern kid).rec_.acc).2
    (s.kern kid).rec_.acc (fresh_inv _ hs)
  have h2 (t : State) (ht : Canon t) (x l p) : Canon { t with sram := writeBytes t.sram x l, sramPoison := p } :=
    ⟨ht.1, wf_writeBytes _ _ _ ht.2.1, ht.2.2⟩
  exact h2 _ h _ _ _

theorem without_inv (s : State) (us : List Nat) (hs : Canon s) : Canon (s.without us) := by
  unfold State.without
  repeat' first
    | with_reducible assumption
    | simp only [canon_mk]

theorem orderEviction_inv (s : State) (x2 : List Nat) (hs : Canon s) : Canon (s.orderEviction x2) := by
  induction x2 generalizing s with
  | nil => exact hs
  | cons a r ih =>
    unfold State.orderEviction
    repeat' first
      | (with_reducible first | assumption | apply setTeam_inv | apply ih)
      | split

theorem refuseWrite_inv (s : State) (f : Nat) (hs : Canon s) : Canon (s.refuseWrite f) := by
  unfold State.refuseWrite
  repeat' first
    | (with_reducible first | assumption | apply countErr_inv)

theorem settleQueue_inv (s : State) (q : Nat) (hs : Canon s) : Canon (s.settleQueue q) := by
  unfold State.settleQueue
  repeat' first
    | (with_reducible first | assumption | apply setQueue_inv | apply leaveIdle_inv)
    | simp only [canon_mk]
    | split

theorem headAcquire_inv (s : State) (hs : Canon s) : Canon s.headAcquire := by
  unfold State.headAcquire
  repeat' first
    | (with_reducible first | assumption | apply dropHost_inv)

theorem headGet_inv (s : State) (c va n : Nat) (hs : Canon s) : Canon (s.headGet c va n).2 := by
  unfold State.headGet
  repeat' first
    | (with_reducible first | assumption | apply headRead_inv | apply headAcquire_inv)
    | split

theorem headPut_inv (s : State) (c va align : Nat) (bs : List Byte) (hs : Canon s) :
    Canon (s.headPut c va align bs) := by
  unfold State.headPut
  repeat' first
    | (with_reducible first | assumption | apply countErrCtx_inv | apply headWrite_inv)
    | refine inv_of_some (by assumption) ?_
    | split

theorem take_inv (s : State) (q : Nat) (hs : Canon s) : Canon (s.take q) := by
  unfold State.take
  repeat' first
    | (with_reducible first | assumption | apply setQueue_inv)

theorem cmdDone_inv (s : State) (q done v : Nat) (hs : Canon s) : Canon (s.cmdDone q done v) := by
  unfold State.cmdDone
  repeat' first
    | (with_reducible first | assumption | apply headPut_inv)

theorem findCommand_inv (s : State) (q : Nat) (hs : Canon s) : Canon (s.findCommand q).2 := by
  unfold State.findCommand
  repeat' first
    | (with_reducible first | assumption | apply headGet_inv)
    | refine inv_of_snd (by assumption) ?_
    | simp only [canon_mk]
    | split

theorem recordFault_inv (s : State) (q : Nat) (hs : Canon s) : Canon (s.recordFault q) := by
  unfold State.recordFault
  repeat' first
    | (with_reducible first | assumption | apply setQueue_inv)

theorem malformedCmd_inv (s : State) (c : Cmd) (hs : Canon s) : Canon (s.malformedCmd c) := by
  unfold State.malformedCmd
  repeat' first
    | (with_reducible first | assumption | apply settleQueue_inv | apply cmdDone_inv)
    | with_reducible apply take_inv

theorem closeKernel_inv (s : State) (kid : Nat) (hs : Canon s) : Canon (s.closeKernel kid) := by
  unfold State.closeKernel
  repeat' first
    | (with_reducible first | assumption | apply setKern_inv | apply setQueue_inv)
    | (with_reducible first | apply settleQueue_inv | apply cmdDone_inv | refine inv_foldl ?_ ?_)
    | intro _

theorem finishKernel_inv (s : State) (kid status cause : Nat) (hs : Canon s) :
    Canon (s.finishKernel kid status cause) := by
  unfold State.finishKernel
  repeat' first
    | (with_reducible first | assumption | apply headJoin_inv | apply countErrCtx_inv)
    | (with_reducible first | apply closeKernel_inv | apply headPut_inv)
    | refine inv_of_some (by assumption) ?_
    | split

theorem execKernelComplete_inv (kid : Nat) (s : State) (hs : Canon s) : OutInv (execKernelComplete kid s) := by
  unfold execKernelComplete
  repeat' first
    | (with_reducible first | assumption | apply setKern_inv | apply finishKernel_inv)
    | with_reducible apply outInv_next
    | split

theorem endReplies_inv (s : State) (q : Nat) (f : Nat → Nat → Nat → Bool) (v : Nat) (hs : Canon s) :
    Canon (s.endReplies q f v) := by
  unfold State.endReplies
  repeat' first
    | (with_reducible first | assumption | apply setQueue_inv | apply settleQueue_inv)
    | (with_reducible first | apply cmdDone_inv | refine inv_foldl ?_ ?_)
    | intro _
    | simp only [canon_mk]
    | split

theorem refuseReplies_inv (s : State) (uid : Nat) (hs : Canon s) : Canon (s.refuseReplies uid) := by
  unfold State.refuseReplies
  repeat' first
    | (with_reducible first | assumption | apply countErrCtx_inv | apply endReplies_inv)
    | with_reducible refine inv_foldl ?_ ?_
    | intro _

theorem freeKilled_inv (s : State) (uid : Nat) (hs : Canon s) : Canon (s.freeKilled uid) := by
  unfold State.freeKilled
  repeat' first
    | (with_reducible first | assumption | apply postTeam_inv | apply refuseReplies_inv)
    | (with_reducible first | apply chargeBack_inv | apply settleCtx_inv)
    | with_reducible apply returnAllowance_inv
    | simp only [canon_mk]
    | split

theorem execAbortCleanup_inv (kid : Nat) (s : State) (hs : Canon s) : OutInv (execAbortCleanup kid s) := by
  unfold execAbortCleanup
  repeat' first
    | (with_reducible first | assumption | apply freeKilled_inv | apply headPut_inv)
    | (with_reducible first | apply finishKernel_inv | apply outInv_next | refine inv_foldl ?_ ?_)
    | intro _
    | split

theorem execDeadlineExpiry_inv (kid : Nat) (s : State) (hs : Canon s) : OutInv (execDeadlineExpiry kid s) := by
  unfold execDeadlineExpiry
  repeat' first
    | (with_reducible first | assumption | apply abortKernel_inv | apply outInv_next)
    | simp only [canon_mk]
    | split

theorem execQueueUrgent_inv (q : Nat) (s : State) (hs : Canon s) : OutInv (execQueueUrgent q s) := by
  unfold execQueueUrgent
  repeat' first
    | (with_reducible first | assumption | apply setQueue_inv | apply outInv_next)

theorem execDoorbell_inv (fn q : Nat) (producer : W32) (s : State) (hs : Canon s) :
    OutInv (execDoorbell fn q producer s) := by
  unfold execDoorbell
  repeat' first
    | (with_reducible first | assumption | apply refuseWrite_inv | apply countErr_inv)
    | (with_reducible first | apply settleQueue_inv | apply setQueue_inv | apply outInv_next)
    | simp only [canon_mk]
    | split

theorem uncharged_inv (s old : State) (hs : Canon s) : Canon (s.uncharged old) := hs

theorem execLaunch_inv (c : Cmd) (s : State) (hs : Canon s) : OutInv (execLaunch c s) := by
  unfold execLaunch
  repeat' first
    | (with_reducible first | assumption | apply settleQueue_inv | apply countErr_inv)
    | (with_reducible first | apply take_inv | apply headGet_inv | apply recordFault_inv)
    | (with_reducible first | apply fresh_inv | apply setKern_inv | apply setQueue_inv)
    | (with_reducible first | apply uncharged_inv | apply finishKernel_inv | apply outInv_next)
    | refine inv_of_snd (by assumption) ?_
    | simp only [canon_mk]
    | split

theorem deliver_inv (s : State) (core slot : Nat) (bs : List Byte) (hs : Canon s) :
    Canon (s.deliver core slot bs) := by
  unfold State.deliver
  repeat' first
    | (with_reducible first | assumption | apply abortKernel_inv | apply writeName_inv)
    | (with_reducible first | apply charge_inv | apply acquire_inv | apply modGroup_inv)
    | split

theorem execReply_inv (c : Cmd) (s : State) (hs : Canon s) : OutInv (execReply c s) := by
  unfold execReply
  repeat' first
    | (with_reducible first | assumption | apply malformedCmd_inv | apply settleQueue_inv)
    | (with_reducible first | apply cmdDone_inv | apply take_inv | apply countErrCtx_inv)
    | (with_reducible first | apply headGet_inv | apply recordFault_inv | apply deliver_inv)
    | (with_reducible first | apply setQueue_inv | apply outInv_next)
    | refine inv_of_snd (by assumption) ?_
    | simp only [canon_mk]
    | split

theorem pollWait_inv (s : State) (q : Nat) (hs : Canon s) : Canon (s.pollWait q) := by
  unfold State.pollWait
  repeat' first
    | (with_reducible first | assumption | apply headGet_inv | apply settleQueue_inv)
    | (with_reducible first | apply cmdDone_inv | apply setQueue_inv)
    | simp only [canon_mk]
    | split

theorem execWait_inv (c : Cmd) (s : State) (hs : Canon s) : OutInv (execWait c s) := by
  unfold execWait
  repeat' first
    | (with_reducible first | assumption | apply malformedCmd_inv | apply take_inv)
    | (with_reducible first | apply pollWait_inv | apply setQueue_inv | apply outInv_next)
    | simp only [canon_mk]
    | split

theorem execWaitPoll_inv (q : Nat) (s : State) (hs : Canon s) : OutInv (execWaitPoll q s) := by
  unfold execWaitPoll
  repeat' first
    | (with_reducible first | assumption | apply pollWait_inv | apply outInv_next)
    | split

theorem execSignal_inv (c : Cmd) (s : State) (hs : Canon s) : OutInv (execSignal c s) := by
  unfold execSignal
  repeat' first
    | (with_reducible first | assumption | apply malformedCmd_inv | apply headPut_inv)
    | (with_reducible first | apply take_inv | apply settleQueue_inv | apply cmdDone_inv)
    | with_reducible apply outInv_next
    | simp only [canon_mk]
    | split

theorem resolveRange_inv (s : State) (c lo n : Nat) (hs : Canon s) : Canon (s.resolveRange c lo n) := by
  unfold State.resolveRange
  repeat' first
    | (with_reducible first | assumption | apply modGroup_inv | refine inv_foldl ?_ ?_)
    | intro _
    | simp only [canon_mk]

theorem execResolve_inv (c : Cmd) (s : State) (hs : Canon s) : OutInv (execResolve c s) := by
  unfold execResolve
  repeat' first
    | (with_reducible first | assumption | apply malformedCmd_inv | apply settleQueue_inv)
    | (with_reducible first | apply cmdDone_inv | apply take_inv | apply resolveRange_inv)
    | with_reducible apply outInv_next
    | split

theorem execAbort_inv (c : Cmd) (s : State) (hs : Canon s) : OutInv (execAbort c s) := by
  unfold execAbort
  repeat' first
    | (with_reducible first | assumption | apply malformedCmd_inv | apply settleQueue_inv)
    | (with_reducible first | apply cmdDone_inv | apply take_inv | apply countErr_inv)
    | (with_reducible first | apply abortKernel_inv | apply setQueue_inv | apply outInv_next)
    | simp only [canon_mk]
    | split

theorem descriptor_inv (s : State) (c : Cmd) (hs : Canon s) : Canon (s.descriptor c).2 := by
  unfold State.descriptor
  repeat' first
    | (with_reducible first | assumption | apply settleQueue_inv | apply countErr_inv)
    | (with_reducible first | apply take_inv | apply headGet_inv | apply recordFault_inv)
    | refine inv_of_snd (by assumption) ?_
    | split

theorem physDone_inv (s : State) (q pa v : Nat) (hs : Canon s) : Canon (s.physDone q pa v) := by
  unfold State.physDone
  repeat' first
    | (with_reducible first | assumption | apply putBytes_inv | apply countErr_inv)
    | split

theorem startInval_inv (s : State) (q start pages ctx level : Nat) (phys wb : Bool) (doneW : Nat) (hs : Canon s) :
    Canon (s.startInval q start pages ctx level phys wb doneW) := by
  unfold State.startInval
  repeat' first
    | (with_reducible first | assumption | apply fresh_inv | apply setQueue_inv)
    | simp only [canon_mk]
    | split

theorem execInvalidate_inv (c : Cmd) (s : State) (hs : Canon s) : OutInv (execInvalidate c s) := by
  unfold execInvalidate
  repeat' first
    | (with_reducible first | assumption | apply descriptor_inv | apply startInval_inv)
    | (with_reducible first | apply settleQueue_inv | apply physDone_inv | apply outInv_next)
    | refine inv_of_snd (by assumption) ?_
    | simp only [canon_mk]
    | split

theorem execInvalidationDone_inv (id : Nat) (s : State) (hs : Canon s) : OutInv (execInvalidationDone id s) := by
  unfold execInvalidationDone
  repeat' first
    | (with_reducible first | assumption | apply dropL2s_inv | apply setQueue_inv)
    | (with_reducible first | apply settleQueue_inv | apply physDone_inv | apply outInv_next)
    | simp only [canon_mk]
    | split

theorem execMigrate_inv (c : Cmd) (s : State) (hs : Canon s) : OutInv (execMigrate c s) := by
  unfold execMigrate
  repeat' first
    | (with_reducible first | assumption | apply descriptor_inv | apply fresh_inv)
    | (with_reducible first | apply setQueue_inv | apply settleQueue_inv | apply physDone_inv)
    | with_reducible apply outInv_next
    | refine inv_of_snd (by assumption) ?_
    | simp only [canon_mk]
    | split

theorem failCtx_inv (s : State) (c : Nat) (hs : Canon s) : Canon (s.failCtx c) := by
  unfold State.failCtx
  repeat' first
    | (with_reducible first | assumption | apply setCtx_inv | apply abortKernel_inv)
    | with_reducible refine inv_foldl ?_ ?_
    | intro _
    | simp only [canon_mk]
    | split

theorem failWorld_inv (s : State) (w : Nat) (hs : Canon s) : Canon (s.failWorld w) := by
  unfold State.failWorld
  repeat' first
    | (with_reducible first | assumption | apply failCtx_inv | refine inv_foldl ?_ ?_)

theorem movePoison_inv (s : State) (ctx src dst n : Nat) (hs : Canon s) : Canon (s.movePoison ctx src dst n) := by
  unfold State.movePoison
  repeat' first
    | (with_reducible first | assumption | apply countErrCtx_inv | refine inv_foldl ?_ ?_)
    | intro _
    | simp only [canon_mk]

theorem moveBytes_inv (s : State) (m : Migr) (n : Nat) (hs : Canon s) : Canon (s.moveBytes m n) := by
  unfold State.moveBytes
  repeat' first
    | (with_reducible first | assumption | apply charge_inv | apply putAll_inv)
    | with_reducible apply movePoison_inv

theorem execMigrationDone_inv (id : Nat) (s : State) (hs : Canon s) : OutInv (execMigrationDone id s) := by
  unfold execMigrationDone
  repeat' first
    | (with_reducible first | assumption | apply setQueue_inv | apply headAcquire_inv)
    | (with_reducible first | apply moveBytes_inv | apply failCtx_inv | apply failWorld_inv)
    | (with_reducible first | apply settleQueue_inv | apply physDone_inv | apply countErrCtx_inv)
    | with_reducible apply outInv_next
    | simp only [canon_mk]
    | split

theorem refillBand_inv (s : State) (p band m : Nat) (hs : Canon s) : Canon (s.refillBand p band m) := by
  unfold State.refillBand
  repeat' first
    | with_reducible assumption
    | simp only [canon_mk]
    | split

theorem handOut_inv (s : State) (p q : Nat) (pl : Plan) (die stack : Nat) (deadline : Bool) (hs : Canon s) :
    Canon (s.handOut p q pl die stack deadline) := by
  unfold State.handOut
  repeat' first
    | (with_reducible first | assumption | apply setQueue_inv | apply setKern_inv)
    | simp only [canon_mk]

theorem chooseQueue_inv (s : State) (p band : Nat) (cands : List Nat) (hs : Canon s) :
    Canon (s.chooseQueue p band cands).2 := by
  unfold State.chooseQueue
  repeat' first
    | (with_reducible first | assumption | apply refillBand_inv)
    | simp only [canon_mk]
    | split

theorem selectFor_inv (s : State) (p : Nat) (hs : Canon s) : Canon (s.selectFor p) := by
  unfold State.selectFor
  repeat' first
    | (with_reducible first | assumption | apply handOut_inv | apply orderEviction_inv)
    | with_reducible apply chooseQueue_inv
    | refine inv_of_snd (by assumption) ?_
    | simp only [canon_mk]
    | split

theorem execQueueSelection_inv (die : Nat) (s : State) (hs : Canon s) : OutInv (execQueueSelection die s) := by
  unfold execQueueSelection
  repeat' first
    | (with_reducible first | assumption | apply selectFor_inv | apply draw_inv)
    | with_reducible apply outInv_next
    | simp only [canon_mk]
    | split

theorem startTeams_inv (s : State) (kid band prov : Nat) (x5 : List (Rec × Nat)) (hs : Canon s) :
    Canon (s.startTeams kid band prov x5) := by
  induction x5 generalizing s kid band prov with
  | nil => exact hs
  | cons a r ih =>
    unfold State.startTeams
    repeat' first
      | (with_reducible first | assumption | apply startTeam_inv | apply ih)

theorem afterSet_inv (s : State) (x : PlaceSet) (grid : Nat) (hs : Canon s) : Canon (s.afterSet x grid) := by
  unfold State.afterSet
  repeat' first
    | (with_reducible first | assumption | apply setKern_inv | apply setQueue_inv)
    | with_reducible apply settleQueue_inv
    | simp only [canon_mk]
    | split

theorem execSetPlacement_inv (die : Nat) (s : State) (hs : Canon s) : OutInv (execSetPlacement die s) := by
  unfold execSetPlacement
  repeat' first
    | (with_reducible first | assumption | apply startTeams_inv | apply afterSet_inv)
    | with_reducible apply outInv_next
    | simp only [canon_mk]
    | split

theorem chargeImage_inv (s : State) (uid addr len : Nat) (hs : Canon s) : Canon (s.chargeImage uid addr len) := by
  unfold State.chargeImage
  repeat' first
    | (with_reducible first | assumption | apply charge_inv)

theorem abandon_inv (s : State) (uid : Nat) (hs : Canon s) : Canon (s.abandon uid) := by
  unfold State.abandon
  repeat' first
    | (with_reducible first | assumption | apply performHere_inv | apply fresh_inv)
    | with_reducible refine inv_foldl ?_ ?_
    | intro _
    | simp only [canon_mk]
    | split

theorem saveTeam_inv (s : State) (uid addr len : Nat) (hs : Canon s) : Canon (s.saveTeam uid addr len) := by
  unfold State.saveTeam
  repeat' first
    | (with_reducible first | assumption | apply chargeImage_inv | apply setCtx_inv)
    | (with_reducible first | apply putBytes_inv | apply killGroups_inv | apply abandon_inv)
    | (with_reducible first | apply leaveIdle_inv | apply setTeam_inv | apply settleCtx_inv)
    | with_reducible apply returnAllowance_inv
    | simp only [canon_mk]

theorem execTeamEviction_inv (uid : Nat) (s : State) (hs : Canon s) : OutInv (execTeamEviction uid s) := by
  unfold execTeamEviction
  repeat' first
    | (with_reducible first | assumption | apply orderEviction_inv | apply setTeam_inv)
    | (with_reducible first | apply settleCmd_inv | apply saveTeam_inv | apply outInv_next)
    | with_reducible refine inv_foldl ?_ ?_
    | intro _
    | simp only [canon_mk]
    | split

theorem restoreGroups_inv (s : State) (uid : Nat) (x3 : List (Nat × Group)) (hs : Canon s) :
    Canon (s.restoreGroups uid x3) := by
  induction x3 generalizing s uid with
  | nil => exact hs
  | cons a r ih =>
    unfold State.restoreGroups
    repeat' first
      | (with_reducible first | assumption | apply pickSlot_inv | apply newTag_inv)
      | (with_reducible first | apply setTeam_inv | apply setGroup_inv | apply ih)

theorem restoreMats_inv (s : State) (uid core : Nat) (x4 : List (Nat × MatOp)) (hs : Canon s) :
    Canon (s.restoreMats uid core x4) := by
  induction x4 generalizing s uid core with
  | nil => exact hs
  | cons a r ih =>
    unfold State.restoreMats
    repeat' first
      | (with_reducible first | assumption | apply ih)
      | simp only [canon_mk]

theorem restoreCopies_inv (s : State) (core : Nat) (x3 : List (Nat × CopyOp)) (hs : Canon s) :
    Canon (s.restoreCopies core x3) := by
  induction x3 generalizing s core with
  | nil => exact hs
  | cons a r ih =>
    unfold State.restoreCopies
    repeat' first
      | (with_reducible first | assumption | apply ih)
      | simp only [canon_mk]

theorem restoreLog_inv (s : State) (uid : Nat) (x3 : List (Nat × Access)) (hs : Canon s) :
    Canon (s.restoreLog uid x3) := by
  induction x3 generalizing s uid with
  | nil => exact hs
  | cons a r ih =>
    unfold State.restoreLog
    repeat' first
      | (with_reducible first | assumption | apply ih)
      | simp only [canon_mk]

theorem restoreTeam_inv (s : State) (uid core band prov : Nat) (hs : Canon s) : Canon (s.restoreTeam uid core band prov) := by
  have h3 (t : Team) (im : Image) (u : Team) (b : Nat) : Canon ((((s.fresh.2.setTeam uid t).chargeImage uid im.addr
      im.len).restoreGroups uid im.groups).zeroTiles core b u.tiles) :=
    zeroTiles_inv _ _ _ _ (restoreGroups_inv _ _ _ (chargeImage_inv _ _ _ _ (setTeam_inv _ _ _ (fresh_inv _ hs))))
  have h4 (s : State) (h : Canon s) (tp sp) (a b c d x y) : Canon { s with
      tile := shiftIn s.tile a b x, sram := shiftIn s.sram c d y, tilePoison := tp, sramPoison := sp } :=
    ⟨h.1, wf_shiftIn _ _ _ _ h.2.1, wf_shiftIn _ _ _ _ h.2.2⟩
  unfold State.restoreTeam
  repeat' first
    | (with_reducible first | assumption | apply releaseTeam_inv | apply endReplies_inv | apply deliver_inv)
    | (with_reducible first | apply settleCtx_inv | apply acquire_inv | apply restoreLog_inv | apply restoreCopies_inv)
    | (with_reducible first | apply restoreMats_inv | refine inv_foldl ?_ ?_ | apply h4 | apply h3)
    | intro _
    | simp only [canon_mk]
    | split

theorem execTeamRestore_inv (uid : Nat) (s : State) (hs : Canon s) : OutInv (execTeamRestore uid s) := by
  unfold execTeamRestore
  repeat' first
    | (with_reducible first | assumption | apply failCtx_inv | apply restoreTeam_inv)
    | (with_reducible first | apply afterSet_inv | apply outInv_next | refine inv_foldl ?_ ?_)
    | intro _
    | simp only [canon_mk]
    | split

theorem execFootprintSample_inv (stk : Nat) (s : State) (hs : Canon s) : OutInv (execFootprintSample stk s) := by
  unfold execFootprintSample
  repeat' first
    | (with_reducible first | assumption | apply setStack_inv | apply outInv_next)
    | simp only [canon_mk]
    | split

theorem split_inv (s : State) (x : Int) (l : List Nat) (hs : Canon s) : Canon (s.split x l).2 := by
  induction l generalizing s x with
  | nil => exact hs
  | cons a r ih =>
    unfold State.split; split
    · exact hs
    · exact hs
    · cases ‹a :: r = _›; exact ih _ _ (draw_inv _ _ hs)

theorem addShare_inv (s : State) (stk : Nat) (w : Part3) (kid : Nat) (y : Int) (hs : Canon s) :
    Canon (s.addShare stk w kid y) := by
  unfold State.addShare
  repeat' first
    | (with_reducible first | assumption | apply setKern_inv | apply split_inv)
    | (with_reducible first | apply setTeam_inv | refine inv_foldl ?_ ?_)
    | intro _
    | split

theorem shareOut_inv (s : State) (stk : Nat) (w : Part3) (ctx : Nat) (keys : List Nat) (x : Int) (hs : Canon s) :
    Canon (s.shareOut stk w ctx keys x) := by
  unfold State.shareOut
  repeat' first
    | (with_reducible first | assumption | apply split_inv | apply addShare_inv)
    | with_reducible refine inv_foldl ?_ ?_
    | intro _

theorem billCtx_inv (s : State) (c : Nat) (f : Ctx → Ctx) (x : Int) (hs : Canon s) : Canon (s.billCtx c f x) := by
  unfold State.billCtx
  repeat' first
    | (with_reducible first | assumption | apply unpark_inv | apply setCtx_inv)

theorem refreshCopies_inv (s : State) (stk : Nat) (hs : Canon s) : Canon (s.refreshCopies stk) := by
  unfold State.refreshCopies
  repeat' first
    | (with_reducible first | assumption | refine inv_foldl ?_ ?_)
    | intro _
    | simp only [canon_mk]

theorem execReconciliationWindow_inv (stk : Nat) (s : State) (hs : Canon s) :
    OutInv (execReconciliationWindow stk s) := by
  unfold execReconciliationWindow
  repeat' first
    | (with_reducible first | assumption | apply draw_inv | apply setStack_inv)
    | (with_reducible first | apply shareOut_inv | apply billCtx_inv | apply setDie_inv)
    | (with_reducible first | apply postTeam_inv | apply refreshCopies_inv | apply checkLimit_inv)
    | (with_reducible first | apply outInv_next | refine inv_foldl ?_ ?_)
    | with_reducible refine inv_foldl1 ?_ ?_
    | intro _
    | simp only [canon_mk]
    | split

theorem billImages_inv (s : State) (c : Nat) (hs : Canon s) : Canon (s.billImages c) := by
  unfold State.billImages
  repeat' first
    | (with_reducible first | assumption | apply billCtx_inv | apply setKern_inv)
    | (with_reducible first | apply setTeam_inv | refine inv_foldl ?_ ?_)
    | intro _

theorem execRefillTick_inv (die : Nat) (s : State) (hs : Canon s) : OutInv (execRefillTick die s) := by
  unfold execRefillTick
  repeat' first
    | (with_reducible first | assumption | apply setDie_inv | apply setCtx_inv | apply unpark_inv)
    | (with_reducible first | apply billImages_inv | apply outInv_next | refine inv_foldl ?_ ?_)
    | intro _
    | simp only [canon_mk]
    | split

theorem execGrantRequest_inv (core ctx : Nat) (s : State) (hs : Canon s) : OutInv (execGrantRequest core ctx s) := by
  unfold execGrantRequest
  repeat' first
    | (with_reducible first | assumption | apply setCtx_inv | apply outInv_next)
    | simp only [canon_mk]
    | split

theorem ctxCommand_inv (s : State) (fn c : Nat) (f : Ctx → State) (hs : Canon s) (hf : ∀ y0, Canon (f y0)) :
    Canon (s.ctxCommand fn c f) := by
  unfold State.ctxCommand
  repeat' first
    | (with_reducible first | assumption | apply refuseWrite_inv | apply hf)
    | split

theorem ctxResult_inv (s : State) (c r : Nat) (hs : Canon s) : Canon (s.ctxResult c r) := by
  unfold State.ctxResult
  repeat' first
    | (with_reducible first | assumption | apply setCtx_inv)

theorem execCreate_inv (fn ctx : Nat) (s : State) (hs : Canon s) : OutInv (execCreate fn ctx s) := by
  unfold execCreate
  repeat' first
    | (with_reducible first | assumption | apply ctxCommand_inv | apply ctxResult_inv)
    | (with_reducible first | apply setCtx_inv | apply draw_inv | apply fresh_inv)
    | with_reducible apply outInv_next
    | intro _
    | simp only [canon_mk]
    | split

theorem execFree_inv (fn ctx : Nat) (s : State) (hs : Canon s) : OutInv (execFree fn ctx s) := by
  unfold execFree
  repeat' first
    | (with_reducible first | assumption | apply ctxCommand_inv | apply ctxResult_inv)
    | (with_reducible first | apply setCtx_inv | apply outInv_next)
    | intro _
    | split

theorem execEvict_inv (fn ctx : Nat) (s : State) (hs : Canon s) : OutInv (execEvict fn ctx s) := by
  unfold execEvict
  repeat' first
    | (with_reducible first | assumption | apply ctxCommand_inv | apply setCtx_inv)
    | (with_reducible first | apply orderEviction_inv | apply ctxResult_inv | apply outInv_next)
    | intro _
    | split

theorem execResume_inv (fn ctx : Nat) (s : State) (hs : Canon s) : OutInv (execResume fn ctx s) := by
  unfold execResume
  repeat' first
    | (with_reducible first | assumption | apply ctxCommand_inv | apply setCtx_inv)
    | (with_reducible first | apply ctxResult_inv | apply outInv_next)
    | intro _
    | split

theorem execDieWorldRequest_inv (fn die : Nat) (target : BitVec 4) (s : State) (hs : Canon s) :
    OutInv (execDieWorldRequest fn die target s) := by
  unfold execDieWorldRequest
  repeat' first
    | (with_reducible first | assumption | apply refuseWrite_inv | apply setDie_inv)
    | with_reducible apply outInv_next
    | simp only [canon_mk]
    | split

theorem execDieWorldChange_inv (die : Nat) (s : State) (hs : Canon s) : OutInv (execDieWorldChange die s) := by
  unfold execDieWorldChange
  repeat' first
    | (with_reducible first | assumption | apply setDie_inv | apply outInv_next)
    | simp only [canon_mk]
    | split

theorem zeroDie_inv (s : State) (die : Nat) (hs : Canon s) : Canon (s.zeroDie die) :=
  ⟨hs.1, wf_filter _ _ hs.2.1, wf_filter _ _ hs.2.2⟩

theorem setPhase_inv (s : State) (n : Nat) (hs : Canon s) : Canon (s.setPhase n) := by
  unfold State.setPhase
  repeat' first
    | (with_reducible first | assumption | apply raiseIrq_inv)
    | simp only [canon_mk]

theorem execScrubComplete_inv (die : Nat) (s : State) (hs : Canon s) : OutInv (execScrubComplete die s) := by
  unfold execScrubComplete
  repeat' first
    | (with_reducible first | assumption | apply dropL2s_inv | apply zeroDie_inv | apply draw_inv)
    | (with_reducible first | apply charge_inv | apply chargeDie_inv | apply setDie_inv)
    | (with_reducible first | apply setPhase_inv | apply outInv_next)
    | simp only [canon_mk]
    | split

theorem leaveDomain_inv (s : State) (m : Nat) (hs : Canon s) : Canon (s.leaveDomain m) := by
  unfold State.leaveDomain
  repeat' first
    | (with_reducible first | assumption | apply dbarAbort_inv | apply endColl_inv)
    | (with_reducible first | apply sendRanks_inv | refine inv_foldl ?_ ?_)
    | intro _

theorem dropDomFlits_inv (s : State) (m : Nat) (hs : Canon s) : Canon (s.dropDomFlits m) := by
  unfold State.dropDomFlits
  repeat' first
    | with_reducible assumption
    | simp only [canon_mk]

theorem idleDomain_inv (s : State) (m : Nat) (hs : Canon s) : Canon (s.idleDomain m) := by
  unfold State.idleDomain
  repeat' first
    | (with_reducible first | assumption | apply dropDomFlits_inv | apply setDom_inv)

theorem changeForTeardown_inv (s : State) (c die : Nat) (hs : Canon s) : Canon (s.changeForTeardown c die) := by
  unfold State.changeForTeardown
  repeat' first
    | (with_reducible first | assumption | apply setDie_inv)

theorem tearDown_inv (s : State) (c : Nat) (hs : Canon s) : Canon (s.tearDown c) := by
  unfold State.tearDown
  repeat' first
    | (with_reducible first | assumption | apply setCtx_inv | apply abortKernel_inv)
    | (with_reducible first | apply idleDomain_inv | apply leaveDomain_inv | refine inv_foldl ?_ ?_)
    | intro _
    | simp only [canon_mk]

theorem forgetCtx_inv (s : State) (c : Nat) (hs : Canon s) : Canon (s.forgetCtx c) := by
  unfold State.forgetCtx
  repeat' first
    | (with_reducible first | assumption | apply dropL2s_inv)
    | simp only [canon_mk]
    | split

theorem execTeardown_inv (fn ctx : Nat) (s : State) (hs : Canon s) : OutInv (execTeardown fn ctx s) := by
  unfold execTeardown
  repeat' first
    | (with_reducible first | assumption | apply ctxCommand_inv | apply ctxResult_inv)
    | (with_reducible first | apply tearDown_inv | apply outInv_next)
    | intro _
    | split

theorem execTeardownComplete_inv (ctx : Nat) (s : State) (hs : Canon s) : OutInv (execTeardownComplete ctx s) := by
  unfold execTeardownComplete
  repeat' first
    | (with_reducible first | assumption | apply setCtx_inv | apply changeForTeardown_inv)
    | (with_reducible first | apply outInv_next | refine inv_foldl ?_ ?_ | apply forgetCtx_inv)
    | intro _
    | simp only [canon_mk]
    | split

theorem scrubCore_inv (s : State) (die : Nat) (hs : Canon s) : Canon (s.scrubCore die) := by
  unfold State.scrubCore; dsimp only; split
  · exact setDie_inv _ _ _ hs
  · exact hs

theorem sweep_inv (s : State) (ks : List (Nat × Nat)) (hs : Canon s) : Canon (s.sweep ks) := by
  unfold State.sweep
  repeat' first
    | (with_reducible first | assumption | apply touchL2_inv | refine inv_foldl ?_ ?_)
    | intro _
    | simp only [canon_mk]
    | split

theorem execIntegritySweep_inv (world : Nat) (s : State) (hs : Canon s) : OutInv (execIntegritySweep world s) := by
  unfold execIntegritySweep
  repeat' first
    | (with_reducible first | assumption | apply draw_inv | apply sweep_inv | apply countErr_inv)
    | (with_reducible first | apply failWorld_inv | apply outInv_next | refine inv_foldl ?_ ?_)
    | intro _
    | simp only [canon_mk]
    | split

theorem noteKernel_inv (s : State) (kid kind unit : Nat) (hs : Canon s) : Canon (s.noteKernel kid kind unit) := by
  unfold State.noteKernel
  repeat' first
    | (with_reducible first | assumption | apply setKern_inv | apply headWrite_inv)
    | with_reducible exact optInv_none
    | refine inv_of_some (by assumption) ?_
    | simp only [canon_mk]
    | split

theorem noteKernels_inv (s : State) (kind unit : Nat) (f : Kernel → Bool) (hs : Canon s) :
    Canon (s.noteKernels kind unit f) := by
  unfold State.noteKernels
  repeat' first
    | (with_reducible first | assumption | apply noteKernel_inv | refine inv_foldl ?_ ?_)
    | intro _

theorem noteCore_inv (s : State) (kind core : Nat) (hs : Canon s) : Canon (s.noteCore kind core) := by
  unfold State.noteCore
  repeat' first
    | (with_reducible first | assumption | apply noteKernels_inv)

theorem noteUnit_inv (s : State) (kind unit : Nat) (owns : Part → Bool) (hs : Canon s) :
    Canon (s.noteUnit kind unit owns) := by
  unfold State.noteUnit
  repeat' first
    | (with_reducible first | assumption | apply noteKernels_inv)

theorem execClassChange_inv (stk : Nat) (s : State) (hs : Canon s) : OutInv (execClassChange stk s) := by
  unfold execClassChange
  repeat' first
    | (with_reducible first | assumption | apply setStack_inv | apply outInv_next)
    | simp only [canon_mk]
    | split

theorem shunt_inv (s : State) (core : Nat) (hs : Canon s) : Canon (s.shunt core) := by
  unfold State.shunt
  repeat' first
    | (with_reducible first | assumption | apply setStack_inv)

theorem coreRetired_inv (s : State) (core : Nat) (hs : Canon s) : Canon (s.coreRetired core) := by
  unfold State.coreRetired
  repeat' first
    | (with_reducible first | assumption | apply setCore_inv | apply setScore_inv)
    | (with_reducible first | apply noteCore_inv | apply shunt_inv)

theorem drainRest_inv (s : State) (stk : Nat) (hs : Canon s) : Canon (s.drainRest stk) := by
  unfold State.drainRest
  repeat' first
    | (with_reducible first | assumption | apply coreRetired_inv | apply setCore_inv)
    | with_reducible refine inv_foldl ?_ ?_
    | intro _
    | split

theorem settleStack_inv (s : State) (stk : Nat) (hs : Canon s) : Canon (s.settleStack stk) := by
  unfold State.settleStack
  repeat' first
    | (with_reducible first | assumption | apply setStack_inv)
    | split

theorem retireCore_inv (s : State) (core cause : Nat) (hs : Canon s) : Canon (s.retireCore core cause) := by
  unfold State.retireCore
  repeat' first
    | (with_reducible first | assumption | apply coreRetired_inv | apply recordRetirement_inv)
    | (with_reducible first | apply settleStack_inv | apply drainRest_inv)
    | simp only [canon_mk]
    | split

theorem enterTest_inv (s : State) (core : Nat) (hs : Canon s) : Canon (s.enterTest core) := by
  unfold State.enterTest
  repeat' first
    | (with_reducible first | assumption | apply setCore_inv | apply noteCore_inv)

theorem startCoreLease_inv (s : State) (c : Nat) (hs : Canon s) : Canon (s.startCoreLease c) := by
  unfold State.startCoreLease
  repeat' first
    | (with_reducible first | assumption | apply setCore_inv)

theorem nextForced_inv (s : State) (stk : Nat) (hs : Canon s) : Canon (s.nextForced stk) := by
  unfold State.nextForced
  repeat' first
    | (with_reducible first | assumption | apply startCoreLease_inv | apply setStack_inv)
    | simp only [canon_mk]
    | split

theorem nextRetiring_inv (s : State) (stk : Nat) (hs : Canon s) : Canon (s.nextRetiring stk) := by
  unfold State.nextRetiring
  repeat' first
    | (with_reducible first | assumption | apply setCore_inv)
    | split

theorem setShareOf_inv (s : State) (k : Nat) (x : Part) (hs : Canon s) : Canon (s.setShareOf k x) := by
  unfold State.setShareOf
  repeat' first
    | (with_reducible first | assumption | apply setPart_inv)
    | simp only [canon_mk]
    | split

theorem giveBack_inv (s : State) (k : Nat) (hs : Canon s) : Canon (s.giveBack k) := by
  unfold State.giveBack
  repeat' first
    | (with_reducible first | assumption | apply setLink_inv | apply setShareOf_inv)

theorem linkTo_inv (s : State) (k : Nat) (st : LinkState) (hs : Canon s) : Canon (s.linkTo k st) := by
  unfold State.linkTo
  repeat' first
    | (with_reducible first | assumption | apply setLink_inv | apply giveBack_inv)
    | simp only [canon_mk]
    | split

theorem enterLoop_inv (s : State) (k : Nat) (hs : Canon s) : Canon (s.enterLoop k) := by
  unfold State.enterLoop
  repeat' first
    | (with_reducible first | assumption | apply noteUnit_inv | apply linkTo_inv)

theorem startLease_inv (s : State) (u : Nat) (hs : Canon s) : OptInv (s.startLease u) := by
  unfold State.startLease
  repeat' first
    | (with_reducible first | assumption | apply enterLoop_inv | apply startCoreLease_inv | apply noteUnit_inv)
    | (with_reducible first | apply setLink_inv | apply draw_inv | apply setChan_inv)
    | (with_reducible first | apply optInv_some | exact optInv_none)
    | simp only [canon_mk]
    | split

theorem startLeases_inv (s : State) (x2 : List Nat) (hs : Canon s) : Canon (s.startLeases x2).2 := by
  induction x2 generalizing s with
  | nil => exact hs
  | cons a r ih =>
    unfold State.startLeases
    repeat' first
      | (with_reducible first | assumption | apply startLease_inv | apply ih)
      | refine inv_of_some (by assumption) ?_
      | split

theorem execLeaseStart_inv (die : Nat) (s : State) (hs : Canon s) : OutInv (execLeaseStart die s) := by
  unfold execLeaseStart
  repeat' first
    | (with_reducible first | assumption | apply startLeases_inv | apply setDie_inv)
    | with_reducible apply outInv_next
    | simp only [canon_mk]
    | split

theorem execGraceWindowExpiry_inv (core : Nat) (s : State) (hs : Canon s) :
    OutInv (execGraceWindowExpiry core s) := by
  unfold execGraceWindowExpiry
  repeat' first
    | (with_reducible first | assumption | apply setCore_inv | apply orderEviction_inv)
    | with_reducible apply outInv_next
    | simp only [canon_mk]
    | split

theorem execCoreDrained_inv (core : Nat) (s : State) (hs : Canon s) : OutInv (execCoreDrained core s) := by
  unfold execCoreDrained
  repeat' first
    | (with_reducible first | assumption | apply nextForced_inv | apply nextRetiring_inv)
    | (with_reducible first | apply retireCore_inv | apply enterTest_inv | apply outInv_next)
    | simp only [canon_mk]
    | split

theorem zeroCore_inv (s : State) (core : Nat) (hs : Canon s) : Canon (s.zeroCore core) :=
  ⟨hs.1, wf_filter _ _ hs.2.1, wf_filter _ _ hs.2.2⟩

theorem payTest_inv (s : State) (core : Nat) (hs : Canon s) : Canon (s.payTest core) := by
  unfold State.payTest
  repeat' first
    | (with_reducible first | assumption | apply draw_inv | apply chargeDie_inv)

theorem execTestPass_inv (core : Nat) (s : State) (hs : Canon s) : OutInv (execTestPass core s) := by
  unfold execTestPass
  repeat' first
    | (with_reducible first | assumption | apply payTest_inv | apply zeroCore_inv)
    | (with_reducible first | apply setCore_inv | apply nextRetiring_inv | apply nextForced_inv)
    | (with_reducible first | apply noteCore_inv | apply outInv_next)
    | simp only [canon_mk]
    | split

theorem execTestFail_inv (core pattern : Nat) (s : State) (hs : Canon s) : OutInv (execTestFail core pattern s) := by
  unfold execTestFail
  repeat' first
    | (with_reducible first | assumption | apply payTest_inv | apply setScore_inv)
    | (with_reducible first | apply nextRetiring_inv | apply nextForced_inv)
    | (with_reducible first | apply retireCore_inv | apply zeroCore_inv | apply outInv_next)
    | simp only [canon_mk]
    | split

theorem execPeriodBoundary_inv (die : Nat) (s : State) (hs : Canon s) : OutInv (execPeriodBoundary die s) := by
  unfold execPeriodBoundary
  repeat' first
    | (with_reducible first | assumption | apply setDie_inv | apply outInv_next)
    | simp only [canon_mk]
    | split

theorem execChannelLeaseEnd_inv (u : Unit') (s : State) (hs : Canon s) : OutInv (execChannelLeaseEnd u s) := by
  unfold execChannelLeaseEnd
  repeat' first
    | (with_reducible first | assumption | apply noteUnit_inv | apply setChan_inv)
    | with_reducible apply outInv_next
    | simp only [canon_mk]
    | split

theorem execConfirmChannelRetirement_inv (fn k : Nat) (s : State) (hs : Canon s) :
    OutInv (execConfirmChannelRetirement fn k s) := by
  unfold execConfirmChannelRetirement
  repeat' first
    | (with_reducible first | assumption | apply refuseWrite_inv | apply setScore_inv)
    | (with_reducible first | apply recordRetirement_inv | apply noteUnit_inv | apply outInv_next)
    | simp only [canon_mk]
    | split

theorem tierCurrent_inv (s : State) (stk t : Nat) (hs : Canon s) : Canon (s.tierCurrent stk t).2 := by
  unfold State.tierCurrent
  repeat' first
    | (with_reducible first | assumption | apply draw_inv)
    | split

theorem tierReadings_inv (s : State) (stk : Nat) (hs : Canon s) : Canon (s.tierReadings stk).2 := by
  unfold State.tierReadings
  repeat' first
    | (with_reducible first | assumption | apply tierCurrent_inv | refine inv_foldl2 ?_ ?_)
    | intro _

theorem execImbalRefresh_inv (stk : Nat) (s : State) (hs : Canon s) : OutInv (execImbalRefresh stk s) := by
  unfold execImbalRefresh
  repeat' first
    | (with_reducible first | assumption | apply tierReadings_inv | apply setStack_inv)
    | with_reducible apply outInv_next
    | split

theorem execMatbudgetWindow_inv (core : Nat) (s : State) (hs : Canon s) : OutInv (execMatbudgetWindow core s) := by
  unfold execMatbudgetWindow
  repeat' first
    | (with_reducible first | assumption | apply setCore_inv | apply outInv_next)
    | simp only [canon_mk]
    | split

theorem execRetentionEntry_inv (stk : Nat) (s : State) (hs : Canon s) : OutInv (execRetentionEntry stk s) := by
  unfold execRetentionEntry
  repeat' first
    | (with_reducible first | assumption | apply setStack_inv | apply outInv_next)
    | simp only [canon_mk]
    | split

theorem execRetentionExit_inv (stk : Nat) (lost : BitVec 4) (s : State) (hs : Canon s) :
    OutInv (execRetentionExit stk lost s) := by
  unfold execRetentionExit
  repeat' first
    | (with_reducible first | assumption | apply setStack_inv | apply abortKernel_inv)
    | (with_reducible first | apply addScore_inv | apply setCore_inv | apply nextForced_inv)
    | (with_reducible first | apply outInv_next | refine inv_foldl ?_ ?_)
    | intro _
    | simp only [canon_mk]
    | split

theorem execRetirementLogExport_inv (s : State) (hs : Canon s) : OutInv (execRetirementLogExport s) := by
  unfold execRetirementLogExport
  repeat' first
    | (with_reducible first | assumption | apply outInv_next)
    | simp only [canon_mk]

theorem recordArrival_inv (s : State) (e : Env) (op n val : Nat) (h : Option Held) (hs : Canon s) :
    Canon (s.recordArrival e op n val h) := by
  unfold State.recordArrival
  repeat' first
    | (with_reducible first | assumption | apply onIssuer_inv | apply settleArrival_inv)
    | (with_reducible first | apply hold_inv | apply faultAt_inv)
    | simp only [canon_mk]
    | split

theorem execBar_inv (o : Fields) (s : State) (hs : Canon s) : OutInv (execBar o s) := by
  unfold execBar
  repeat' first
    | (with_reducible first | assumption | apply issue_inv | apply recordArrival_inv)
    | intro _

theorem execBara_inv (o : Fields) (s : State) (hs : Canon s) : OutInv (execBara o s) := by
  unfold execBara
  repeat' first
    | (with_reducible first | assumption | apply issue_inv | apply recordArrival_inv)
    | intro _

theorem execBarw_inv (o : Fields) (s : State) (hs : Canon s) : OutInv (execBarw o s) := by
  unfold execBarw
  repeat' first
    | (with_reducible first | assumption | apply issue_inv | apply hold_inv | apply holdUntil_inv)
    | intro _
    | simp only [canon_mk]
    | split

theorem execBarn_inv (o : Fields) (s : State) (hs : Canon s) : OutInv (execBarn o s) := by
  unfold execBarn
  repeat' first
    | (with_reducible first | assumption | apply issue_inv | apply recordArrival_inv)
    | intro _

theorem execCbar_inv (o : Fields) (s : State) (hs : Canon s) : OutInv (execCbar o s) := by
  unfold execCbar
  repeat' first
    | (with_reducible first | assumption | apply issue_inv | apply recordArrival_inv)
    | intro _

theorem execDbar_inv (o : Fields) (s : State) (hs : Canon s) : OutInv (execDbar o s) := by
  unfold execDbar
  repeat' first
    | (with_reducible first | assumption | apply issue_inv | apply faultAt_inv)
    | with_reducible apply recordArrival_inv
    | intro _
    | split

theorem regain_inv (s : State) (k : Nat) (hs : Canon s) : Canon (s.regain k) := by
  unfold State.regain
  repeat' first
    | (with_reducible first | assumption | apply setLink_inv | apply setShareOf_inv)

theorem linkScore_inv (s : State) (k n cause : Nat) (hs : Canon s) : Canon (s.linkScore k n cause) := by
  unfold State.linkScore
  repeat' first
    | (with_reducible first | assumption | apply addScore_inv | apply noteUnit_inv)
    | (with_reducible first | apply linkTo_inv | apply setLink_inv)
    | simp only [canon_mk]
    | split

theorem execLinkEnable_inv (fn k : Nat) (value : W64) (s : State) (hs : Canon s) :
    OutInv (execLinkEnable fn k value s) := by
  unfold execLinkEnable
  repeat' first
    | (with_reducible first | assumption | apply refuseWrite_inv | apply setLink_inv)
    | (with_reducible first | apply linkTo_inv | apply outInv_next)
    | simp only [canon_mk]
    | split

theorem execLanesTrained_inv (k : Nat) (s : State) (hs : Canon s) : OutInv (execLanesTrained k s) := by
  unfold execLanesTrained
  repeat' first
    | (with_reducible first | assumption | apply send_inv | apply linkTo_inv | apply outInv_next)
    | split

theorem execLinkKeysInstalled_inv (k : Nat) (peer : BitVec 16) (s : State) (hs : Canon s) :
    OutInv (execLinkKeysInstalled k peer s) := by
  unfold execLinkKeysInstalled
  repeat' first
    | (with_reducible first | assumption | apply linkTo_inv | apply setLink_inv)
    | with_reducible apply outInv_next
    | simp only [canon_mk]
    | split

theorem execLinkTrainTimeout_inv (k : Nat) (s : State) (hs : Canon s) : OutInv (execLinkTrainTimeout k s) := by
  unfold execLinkTrainTimeout
  repeat' first
    | (with_reducible first | assumption | apply linkTo_inv | apply outInv_next)
    | split

theorem execHeartbeatTimeout_inv (k : Nat) (s : State) (hs : Canon s) : OutInv (execHeartbeatTimeout k s) := by
  unfold execHeartbeatTimeout
  repeat' first
    | (with_reducible first | assumption | apply linkTo_inv | apply outInv_next)
    | simp only [canon_mk]
    | split

theorem rehear_inv (s : State) (k : Nat) (hs : Canon s) : Canon (s.rehear k) := by
  unfold State.rehear
  repeat' first
    | with_reducible assumption
    | simp only [canon_mk]

theorem execLinkLoopTestEnd_inv (k : Nat) (pass : Bool) (s : State) (hs : Canon s) :
    OutInv (execLinkLoopTestEnd k pass s) := by
  unfold execLinkLoopTestEnd
  repeat' first
    | (with_reducible first | assumption | apply noteUnit_inv | apply rehear_inv)
    | (with_reducible first | apply linkTo_inv | apply linkScore_inv | apply outInv_next)
    | split

theorem execKeyUpdate_inv (k : Nat) (sending : Bool) (s : State) (hs : Canon s) :
    OutInv (execKeyUpdate k sending s) := by
  unfold execKeyUpdate
  repeat' first
    | (with_reducible first | assumption | apply setLink_inv | apply outInv_next)
    | simp only [canon_mk]
    | split

theorem ackFlit_inv (s : State) (k : Nat) (hs : Canon s) : Canon (s.ackFlit k) := by
  unfold State.ackFlit
  repeat' first
    | (with_reducible first | assumption | apply overLink_inv)
    | split

theorem dropFlit_inv (s : State) (k : Nat) (f : Flit) (hs : Canon s) : Canon (s.dropFlit k f) := by
  unfold State.dropFlit
  repeat' first
    | (with_reducible first | assumption | apply setLink_inv | apply linkScore_inv)
    | (with_reducible first | apply linkTo_inv | apply ackFlit_inv)
    | simp only [canon_mk]
    | split

theorem takeAck_inv (s : State) (k : Nat) (f : Flit) (hs : Canon s) : Canon (s.takeAck k f) := by
  unfold State.takeAck
  repeat' first
    | (with_reducible first | assumption | apply enterLoop_inv | apply setLink_inv)
    | simp only [canon_mk]
    | split

theorem heard_inv (s : State) (m r k : Nat) (hs : Canon s) : Canon (s.heard m r k) := by
  unfold State.heard
  repeat' first
    | (with_reducible first | assumption | apply setDom_inv)

theorem takeOffer_inv (s : State) (k w : Nat) (hs : Canon s) : Canon (s.takeOffer k w) := by
  unfold State.takeOffer
  repeat' first
    | (with_reducible first | assumption | apply draw_inv | apply setLink_inv)
    | with_reducible apply overLink_inv
    | refine inv_of_snd (by assumption) ?_
    | split

theorem execFlitResend_inv (k : Nat) (s : State) (hs : Canon s) : OutInv (execFlitResend k s) := by
  unfold execFlitResend
  repeat' first
    | (with_reducible first | assumption | apply setLink_inv | apply ship_inv | apply outInv_next)
    | with_reducible refine inv_foldl ?_ ?_
    | simp only [canon_mk]
    | split

theorem execHeartbeatSend_inv (k : Nat) (s : State) (hs : Canon s) : OutInv (execHeartbeatSend k s) := by
  unfold execHeartbeatSend
  repeat' first
    | (with_reducible first | assumption | apply setLink_inv | apply overLink_inv)
    | (with_reducible first | apply sendRanks_inv | apply outInv_next | refine inv_foldl ?_ ?_)
    | intro _
    | simp only [canon_mk]
    | split

theorem domCommand_inv (s : State) (fn m : Nat) (f : DomSt → State) (hs : Canon s) (hf : ∀ y0, Canon (f y0)) :
    Canon (s.domCommand fn m f) := by
  unfold State.domCommand
  repeat' first
    | (with_reducible first | assumption | apply refuseWrite_inv | apply hf)
    | split

theorem domResult_inv (s : State) (m r : Nat) (hs : Canon s) : Canon (s.domResult m r) := by
  unfold State.domResult
  repeat' first
    | (with_reducible first | assumption | apply setDom_inv)

theorem execForm_inv (fn m : Nat) (s : State) (hs : Canon s) : OutInv (execForm fn m s) := by
  unfold execForm
  repeat' first
    | (with_reducible first | assumption | apply domCommand_inv | apply domResult_inv)
    | (with_reducible first | apply setDom_inv | apply ship_inv | apply outInv_next)
    | with_reducible refine inv_foldl ?_ ?_
    | intro _
    | split

theorem hearAll_inv (s : State) (m : Nat) (hs : Canon s) : Canon (s.hearAll m) := by
  unfold State.hearAll
  repeat' first
    | (with_reducible first | assumption | apply heard_inv | refine inv_foldl ?_ ?_)
    | intro _

theorem execDomainFormed_inv (m result : Nat) (s : State) (hs : Canon s) : OutInv (execDomainFormed m result s) := by
  unfold execDomainFormed
  repeat' first
    | (with_reducible first | assumption | apply setDom_inv | apply hearAll_inv)
    | (with_reducible first | apply domResult_inv | apply idleDomain_inv | apply outInv_next)
    | simp only [canon_mk]
    | split

theorem endLeave_inv (s : State) (m : Nat) (hs : Canon s) : Canon (s.endLeave m) := by
  unfold State.endLeave
  repeat' first
    | (with_reducible first | assumption | apply domResult_inv | apply idleDomain_inv)
    | with_reducible apply dbarAbort_inv

theorem execLeave_inv (fn m : Nat) (s : State) (hs : Canon s) : OutInv (execLeave fn m s) := by
  unfold execLeave
  repeat' first
    | (with_reducible first | assumption | apply domCommand_inv | apply domResult_inv)
    | (with_reducible first | apply leaveDomain_inv | apply endLeave_inv | apply setDom_inv)
    | with_reducible apply outInv_next
    | intro _
    | simp only [canon_mk]
    | split

theorem breakDomain_inv (s : State) (m rank : Nat) (hs : Canon s) : Canon (s.breakDomain m rank) := by
  unfold State.breakDomain
  repeat' first
    | (with_reducible first | assumption | apply setDom_inv | apply dropDomFlits_inv)
    | (with_reducible first | apply dbarAbort_inv | apply endColl_inv | apply accessAbort_inv)
    | (with_reducible first | apply sendRanks_inv | refine inv_foldl ?_ ?_)
    | intro _
    | simp only [canon_mk]
    | split

theorem execRankTimeout_inv (m rank : Nat) (s : State) (hs : Canon s) : OutInv (execRankTimeout m rank s) := by
  unfold execRankTimeout
  repeat' first
    | (with_reducible first | assumption | apply breakDomain_inv | apply outInv_next)
    | simp only [canon_mk]
    | split

theorem leaveAckFrom_inv (s : State) (m rank : Nat) (hs : Canon s) : Canon (s.leaveAckFrom m rank) := by
  unfold State.leaveAckFrom
  repeat' first
    | (with_reducible first | assumption | apply setDom_inv | apply endLeave_inv)
    | simp only [canon_mk]
    | split

theorem leaveFrom_inv (s : State) (m rank : Nat) (hs : Canon s) : Canon (s.leaveFrom m rank) := by
  unfold State.leaveFrom
  repeat' first
    | (with_reducible first | assumption | apply sendDom_inv | apply setDom_inv | apply sendRanks_inv)
    | simp only [canon_mk]
    | split

theorem winReply_inv (s : State) (m : Nat) (r : WinReq) (status : Nat) (a : Option Access) (hs : Canon s) :
    Canon (s.winReply m r status a) := by
  unfold State.winReply
  repeat' first
    | (with_reducible first | assumption | apply sendDom_inv)

theorem winWalk_inv (s : State) (a : Access) (x3 : Nat) (hs : Canon s) : Canon (s.winWalk a x3).2 := by
  induction x3 generalizing s a with
  | zero => exact hs
  | succ n ih =>
    unfold State.winWalk
    repeat' first
      | (with_reducible first | assumption | apply walk_inv | apply ih)
      | refine inv_of_snd (by assumption) ?_
      | split

theorem winFault_inv (s : State) (m : Nat) (r : WinReq) (ctx : Nat) (f : PageFault) (hs : Canon s) :
    OptInv (s.winFault m r ctx f) := by
  unfold State.winFault
  cases e : s.writeFault ctx 0xFFFF 0xFFFF f with
  | none => exact optInv_none
  | some t => exact optInv_some (winReply_inv _ _ _ _ _ (inv_of_some e (writeFault_inv _ _ _ _ _ hs)))

theorem serveWindow_inv (s : State) (m : Nat) (req : WinReq) (hs : Canon s) : OptInv (s.serveWindow m req) := by
  unfold State.serveWindow
  repeat' first
    | (with_reducible first | assumption | apply optInv_some | apply winReply_inv)
    | (with_reducible first | apply winWalk_inv | apply winFault_inv | apply performHere_inv)
    | refine inv_of_snd (by assumption) ?_
    | simp only [canon_mk]
    | split

theorem arrivalFrom_inv (s : State) (m rank value : Nat) (early : Bool) (hs : Canon s) :
    Canon (s.arrivalFrom m rank value early) := by
  unfold State.arrivalFrom
  repeat' first
    | (with_reducible first | assumption | apply setDom_inv | apply dbarArrive_inv)
    | simp only [canon_mk]
    | split

theorem deliverDom_inv (s : State) (m : Nat) (x : DomMsg) (hs : Canon s) : OptInv (s.deliverDom m x) := by
  unfold State.deliverDom
  repeat' first
    | (with_reducible first | assumption | apply optInv_some | apply setDom_inv | apply windowAnswer_inv)
    | (with_reducible first | apply serveWindow_inv | apply arrivalFrom_inv | apply leaveFrom_inv | apply leaveAckFrom_inv)
    | (with_reducible first | apply breakDomain_inv | apply heard_inv)
    | split

theorem drainDom_inv (s : State) (m n : Nat) (hs : Canon s) : Canon (s.drainDom m n) := by
  induction n generalizing s with
  | zero => exact hs
  | succ n ih =>
    unfold State.drainDom
    repeat' first
      | (with_reducible first | assumption | apply ih)
      | exact inv_of_some (by assumption) (deliverDom_inv _ _ _ (setDom_inv _ _ _ hs))
      | simp only [canon_mk]
      | split

theorem domArrive_inv (s : State) (m : Nat) (x : DomMsg) (hs : Canon s) : Canon (s.domArrive m x) := by
  unfold State.domArrive
  repeat' first
    | (with_reducible first | assumption | apply drainDom_inv | apply setDom_inv | apply countErrCtx_inv)
    | with_reducible apply breakDomain_inv
    | exact inv_of_some (by assumption) (deliverDom_inv _ _ _ (setDom_inv _ _ _ hs))
    | simp only [canon_mk]
    | split

theorem execDomainDataMessage_inv (m : Nat) (msg : DomMsg) (s : State) (hs : Canon s) :
    OutInv (execDomainDataMessage m msg s) := outInv_next (domArrive_inv _ _ _ hs)

theorem execWindowAccessService_inv (m : Nat) (req : WinReq) (s : State) (hs : Canon s) :
    OutInv (execWindowAccessService m req s) := outInv_next (domArrive_inv _ _ _ hs)

theorem execDbarArrivalMessage_inv (m : Nat) (x : DomFrom) (value : W32) (early : Bool) (s : State) (hs : Canon s) :
    OutInv (execDbarArrivalMessage m x value early s) := outInv_next (domArrive_inv _ _ _ hs)

theorem execLeaveMessage_inv (m : Nat) (x : DomFrom) (s : State) (hs : Canon s) : OutInv (execLeaveMessage m x s) :=
  outInv_next (domArrive_inv _ _ _ hs)

theorem execLeaveAcknowledged_inv (m : Nat) (x : DomFrom) (s : State) (hs : Canon s) :
    OutInv (execLeaveAcknowledged m x s) := outInv_next (domArrive_inv _ _ _ hs)

theorem execBreakMsg_inv (m : Nat) (x : DomBreak) (s : State) (hs : Canon s) : OutInv (execBreakMsg m x s) :=
  outInv_next (domArrive_inv _ _ _ hs)

theorem execSpareTakeover_inv (m : Nat) (attested : Bool) (s : State) (hs : Canon s) :
    OutInv (execSpareTakeover m attested s) := by
  unfold execSpareTakeover
  repeat' first
    | (with_reducible first | assumption | apply setDom_inv | apply sendRanks_inv | apply drainDom_inv)
    | (with_reducible first | apply ship_inv | apply hearAll_inv | apply outInv_next)
    | simp only [canon_mk]
    | split

theorem execNewMasterSecret_inv (m failed spare : Nat) (s : State) (hs : Canon s) :
    OutInv (execNewMasterSecret m failed spare s) := by
  unfold execNewMasterSecret
  repeat' first
    | (with_reducible first | assumption | apply setDom_inv | apply hearAll_inv | apply drainDom_inv)
    | with_reducible apply outInv_next
    | simp only [canon_mk]
    | split

theorem execRekey_inv (m : Nat) (s : State) (hs : Canon s) : OutInv (execRekey m s) := by
  unfold execRekey
  repeat' first
    | (with_reducible first | assumption | apply setDom_inv | apply dbarRelease_inv)
    | (with_reducible first | apply domArrive_inv | apply outInv_next | refine inv_foldl ?_ ?_)
    | intro _
    | simp only [canon_mk]
    | split

theorem domHeartbeat_inv (s : State) (k src : Nat) (p : List Byte) (hs : Canon s) : Canon (s.domHeartbeat k src p) := by
  unfold State.domHeartbeat
  repeat' first
    | (with_reducible first | assumption | apply domArrive_inv)
    | simp only [canon_mk]
    | split

theorem acceptFlit_inv (s : State) (k : Nat) (f : Flit) (hs : Canon s) : Canon (s.acceptFlit k f) := by
  unfold State.acceptFlit
  repeat' first
    | (with_reducible first | assumption | apply takeAck_inv | apply takeOffer_inv)
    | (with_reducible first | apply domHeartbeat_inv | apply ship_inv)
    | split

theorem execFlitReceive_inv (k : Nat) (f : Flit) (s : State) (hs : Canon s) : OutInv (execFlitReceive k f s) := by
  unfold execFlitReceive
  repeat' first
    | (with_reducible first | assumption | apply dropFlit_inv | apply setLink_inv)
    | (with_reducible first | apply acceptFlit_inv | apply ackFlit_inv | apply outInv_next)
    | simp only [canon_mk]
    | split

theorem sendPower_inv (s : State) (k kind w : Nat) (next : Nat → Instr) (hs : Canon s) :
    Canon (s.sendPower k kind w next) := by
  unfold State.sendPower
  repeat' first
    | (with_reducible first | assumption | apply overLink_inv)
    | simp only [canon_mk]
    | split

theorem execOffer_inv (k unused : Nat) (s : State) (hs : Canon s) : OutInv (execOffer k unused s) := by
  unfold execOffer
  repeat' first
    | (with_reducible first | assumption | apply setLink_inv | apply sendPower_inv)
    | (with_reducible first | apply draw_inv | apply outInv_next)
    | simp only [canon_mk]
    | split

theorem execTake_inv (k watts : Nat) (s : State) (hs : Canon s) : OutInv (execTake k watts s) := by
  unfold execTake
  repeat' first
    | (with_reducible first | assumption | apply setShareOf_inv | apply setLink_inv)
    | (with_reducible first | apply sendPower_inv | apply outInv_next)
    | simp only [canon_mk]
    | split

theorem execAck_inv (k watts : Nat) (s : State) (hs : Canon s) : OutInv (execAck k watts s) := by
  unfold execAck
  repeat' first
    | (with_reducible first | assumption | apply setLink_inv | apply setShareOf_inv)
    | with_reducible apply outInv_next
    | simp only [canon_mk]
    | split

theorem execSendReclaim_inv (k : Nat) (s : State) (hs : Canon s) : OutInv (execSendReclaim k s) := by
  unfold execSendReclaim
  repeat' first
    | (with_reducible first | assumption | apply sendPower_inv | apply setLink_inv)
    | with_reducible apply outInv_next
    | simp only [canon_mk]
    | split

theorem execReclaim_inv (k : Nat) (s : State) (hs : Canon s) : OutInv (execReclaim k s) := by
  unfold execReclaim
  repeat' first
    | (with_reducible first | assumption | apply sendPower_inv | apply giveBack_inv)
    | with_reducible apply outInv_next
    | split

theorem loanBack_inv (s : State) (k : Nat) (hs : Canon s) : Canon (s.loanBack k) := by
  unfold State.loanBack
  repeat' first
    | (with_reducible first | assumption | apply setLink_inv | apply regain_inv)
    | split

theorem execReturnMsg_inv (k : Nat) (s : State) (hs : Canon s) : OutInv (execReturnMsg k s) := by
  unfold execReturnMsg
  repeat' first
    | (with_reducible first | assumption | apply loanBack_inv | apply outInv_next)
    | split

theorem execReclaimTimeout_inv (k : Nat) (s : State) (hs : Canon s) : OutInv (execReclaimTimeout k s) := by
  unfold execReclaimTimeout
  repeat' first
    | (with_reducible first | assumption | apply loanBack_inv | apply outInv_next)
    | split

theorem railAim_inv (s : State) (die : Nat) (hs : Canon s) : Canon (s.railAim die) := by
  unfold State.railAim
  repeat' first
    | (with_reducible first | assumption | apply setDie_inv)
    | simp only [canon_mk]
    | split

theorem overCap_inv (l : List Nat) (s : State) (hs : Canon s) : Canon (s.overCap l).2 := by
  induction l generalizing s with
  | nil => exact hs
  | cons p r ih => exact ih _ (draw_inv s (2 ^ 16) hs)

theorem pace_inv (s : State) (die : Nat) (hs : Canon s) : Canon (s.pace die) := by
  unfold State.pace
  repeat' first
    | (with_reducible first | assumption | apply overCap_inv | apply draw_inv | apply setDie_inv)

theorem execRailStep_inv (die : Nat) (s : State) (hs : Canon s) : OutInv (execRailStep die s) := by
  unfold execRailStep
  repeat' first
    | (with_reducible first | assumption | apply railAim_inv | apply pace_inv | apply setDie_inv)
    | with_reducible apply outInv_next
    | simp only [canon_mk]
    | split

theorem execParOwnWrite_inv (fn p w : Nat) (value : W64) (s : State) (hs : Canon s) :
    OutInv (execParOwnWrite fn p w value s) := by
  unfold execParOwnWrite
  repeat' first
    | (with_reducible first | assumption | apply refuseWrite_inv | apply setPart_inv)
    | with_reducible apply outInv_next
    | simp only [canon_mk]
    | split

theorem vfResult_inv (s : State) (f r : Nat) (hs : Canon s) : Canon (s.vfResult f r) := by
  unfold State.vfResult
  repeat' first
    | (with_reducible first | assumption | apply setVf_inv)

theorem vfCommand_inv (s : State) (fn f : Nat) (g : Vf → State) (hs : Canon s) (hg : ∀ y0, Canon (g y0)) :
    Canon (s.vfCommand fn f g) := by
  unfold State.vfCommand
  repeat' first
    | (with_reducible first | assumption | apply refuseWrite_inv | apply hg)
    | split

theorem execActivate_inv (fn f : Nat) (s : State) (hs : Canon s) : OutInv (execActivate fn f s) := by
  unfold execActivate
  repeat' first
    | (with_reducible first | assumption | apply vfCommand_inv | apply vfResult_inv)
    | (with_reducible first | apply setVf_inv | apply outInv_next)
    | intro _
    | split

theorem holdCtx_inv (s : State) (c : Nat) (hs : Canon s) : Canon (s.holdCtx c) := by
  unfold State.holdCtx
  repeat' first
    | (with_reducible first | assumption | apply setCtx_inv)
    | simp only [canon_mk]
    | split

theorem execSuspend_inv (fn f : Nat) (s : State) (hs : Canon s) : OutInv (execSuspend fn f s) := by
  unfold execSuspend
  repeat' first
    | (with_reducible first | assumption | apply vfCommand_inv | apply vfResult_inv)
    | (with_reducible first | apply writeMem_inv | apply holdCtx_inv | apply orderEviction_inv)
    | (with_reducible first | apply setVf_inv | apply outInv_next | refine inv_foldl ?_ ?_)
    | intro _
    | split

theorem execVfSuspended_inv (f : Nat) (s : State) (hs : Canon s) : OutInv (execVfSuspended f s) := by
  unfold execVfSuspended
  repeat' first
    | (with_reducible first | assumption | apply writeMem_inv | apply setVf_inv)
    | with_reducible apply outInv_next
    | simp only [canon_mk]
    | split

theorem unholdCtx_inv (s : State) (f c : Nat) (hs : Canon s) : Canon (s.unholdCtx f c) := by
  unfold State.unholdCtx
  repeat' first
    | (with_reducible first | assumption | apply setCtx_inv)

theorem continueCmd_inv (s : State) (f w : Nat) (hs : Canon s) : Canon (s.continueCmd f w) := by
  unfold State.continueCmd
  repeat' first
    | (with_reducible first | assumption | apply settleCmd_inv | apply setCtx_inv)
    | simp only [canon_mk]
    | split

theorem execVfResume_inv (fn f : Nat) (s : State) (hs : Canon s) : OutInv (execVfResume fn f s) := by
  unfold execVfResume
  repeat' first
    | (with_reducible first | assumption | apply vfCommand_inv | apply vfResult_inv)
    | (with_reducible first | apply unholdCtx_inv | apply setVf_inv | apply continueCmd_inv)
    | (with_reducible first | apply outInv_next | refine inv_foldl ?_ ?_)
    | intro _
    | split

theorem execDisable_inv (fn f : Nat) (s : State) (hs : Canon s) : OutInv (execDisable fn f s) := by
  unfold execDisable
  repeat' first
    | (with_reducible first | assumption | apply vfCommand_inv | apply setVf_inv)
    | (with_reducible first | apply vfResult_inv | apply outInv_next)
    | intro _
    | split

theorem execBurstArrival_inv (ch p id : Nat) (s : State) (hs : Canon s) : OutInv (execBurstArrival ch p id s) := by
  unfold execBurstArrival
  repeat' first
    | (with_reducible first | assumption | apply setChan_inv | apply outInv_next)
    | split

theorem execBurstServe_inv (ch : Nat) (s : State) (hs : Canon s) : OutInv (execBurstServe ch s) := by
  unfold execBurstServe
  repeat' first
    | (with_reducible first | assumption | apply setChan_inv | apply outInv_next)
    | simp only [canon_mk]
    | split

theorem trigger_inv (s : State) (hs : Canon s) : Canon s.trigger := by
  unfold State.trigger
  repeat' first
    | with_reducible assumption
    | simp only [canon_mk]

theorem execSnpTrigger_inv (fn : Nat) (s : State) (hs : Canon s) : OutInv (execSnpTrigger fn s) := by
  unfold execSnpTrigger
  repeat' first
    | (with_reducible first | assumption | apply refuseWrite_inv | apply trigger_inv)
    | with_reducible apply outInv_next
    | split

theorem exportStatus_inv (s : State) (fn n : Nat) (hs : Canon s) : Canon (s.exportStatus fn n) := by
  unfold State.exportStatus
  repeat' first
    | (with_reducible first | assumption | apply raiseIrq_inv | apply setVf_inv)

theorem exportRun_inv (s : State) (fn ctx kind : Nat) (accounts : State → List Byte) (hs : Canon s) :
    Canon (s.exportRun fn ctx kind accounts) := by
  unfold State.exportRun
  repeat' first
    | (with_reducible first | assumption | apply refuseWrite_inv | apply setVf_inv)
    | (with_reducible first | apply exportStatus_inv | apply trigger_inv | apply headWrite_inv)
    | refine inv_of_some (by assumption) ?_
    | simp only [canon_mk]
    | split

theorem execExportContext_inv (fn ctx : Nat) (s : State) (hs : Canon s) : OutInv (execExportContext fn ctx s) := by
  unfold execExportContext
  repeat' first
    | (with_reducible first | assumption | apply exportRun_inv | apply outInv_next)

theorem execExportPartition_inv (fn ctx : Nat) (s : State) (hs : Canon s) :
    OutInv (execExportPartition fn ctx s) := by
  unfold execExportPartition
  repeat' first
    | (with_reducible first | assumption | apply exportRun_inv | apply outInv_next)

theorem clearRead_inv (s : State) (fn : Nat) (r : Reg) (hs : Canon s) : Canon (s.clearRead fn r) := by
  unfold State.clearRead
  repeat' first
    | (with_reducible first | assumption | apply setLink_inv | apply setStack_inv)
    | with_reducible apply setDie_inv
    | simp only [canon_mk]
    | split

theorem latched_inv (s : State) (x : Snap) (hs : Canon s) : Canon (s.latched x) := by
  unfold State.latched
  repeat' first
    | with_reducible assumption
    | simp only [canon_mk]

theorem readback_inv (s : State) (a : Nat) (hs : Canon s) : Canon (s.readback a).2 := by
  unfold State.readback
  repeat' first
    | (with_reducible first | assumption | apply latched_inv | apply draw_inv)
    | simp only [canon_mk]
    | split

theorem regRead_inv (s : State) (fn : Nat) (r : Reg) (upper : Bool) (hs : Canon s) :
    Canon (s.regRead fn r upper) := by
  unfold State.regRead
  repeat' first
    | (with_reducible first | assumption | apply send_inv | apply readback_inv | apply refuseWrite_inv)
    | with_reducible apply clearRead_inv
    | split

theorem execCounterReadClear_inv (fn : Nat) (reg : Reg) (s : State) (hs : Canon s) :
    OutInv (execCounterReadClear fn reg s) := by
  unfold execCounterReadClear
  repeat' first
    | (with_reducible first | assumption | apply regRead_inv | apply outInv_next)

theorem execSnpRead_inv (fn : Nat) (addr : W64) (s : State) (hs : Canon s) : OutInv (execSnpRead fn addr s) := by
  unfold execSnpRead
  repeat' first
    | (with_reducible first | assumption | apply refuseWrite_inv | apply readback_inv)
    | (with_reducible first | apply send_inv | apply outInv_next)
    | simp only [canon_mk]
    | split

theorem andThen_inv (s : State) (i : Instr) (hs : Canon s) : Canon (s.andThen i) := by
  unfold State.andThen
  repeat' first
    | with_reducible assumption
    | simp only [canon_mk]

theorem setLevel_inv (s : State) (c : Nat) (x : Ctx) (hs : Canon s) : Canon (s.setLevel c x) := by
  unfold State.setLevel
  repeat' first
    | (with_reducible first | assumption | apply unpark_inv | apply setCtx_inv)

theorem writeQCtl_inv (s : State) (q v : Nat) (hs : Canon s) : OptInv (s.writeQCtl q v) := by
  unfold State.writeQCtl
  repeat' first
    | (with_reducible first | assumption | apply settleQueue_inv | apply setQueue_inv)
    | (with_reducible first | apply optInv_some | exact optInv_none)
    | simp only [canon_mk]
    | split

theorem writeVfCtl_inv (s : State) (f v : Nat) (hs : Canon s) : OptInv (s.writeVfCtl f v) := by
  unfold State.writeVfCtl
  repeat' first
    | (with_reducible first | assumption | apply setVf_inv | apply andThen_inv)
    | (with_reducible first | apply vfResult_inv | apply optInv_some | exact optInv_none)
    | simp only [canon_mk]
    | split

theorem writeCtxCtl_inv (s : State) (fn c v : Nat) (hs : Canon s) : OptInv (s.writeCtxCtl fn c v) := by
  unfold State.writeCtxCtl
  repeat' first
    | (with_reducible first | assumption | apply setCtx_inv | apply andThen_inv)
    | (with_reducible first | apply ctxResult_inv | apply optInv_some | exact optInv_none)
    | simp only [canon_mk]
    | split

theorem writeDomCtl_inv (s : State) (fn m v : Nat) (hs : Canon s) : OptInv (s.writeDomCtl fn m v) := by
  unfold State.writeDomCtl
  repeat' first
    | (with_reducible first | assumption | apply setDom_inv | apply andThen_inv)
    | (with_reducible first | apply domResult_inv | apply optInv_some | exact optInv_none)
    | simp only [canon_mk]
    | split

theorem writeParCtl_inv (s : State) (p v : Nat) (hs : Canon s) : OptInv (s.writeParCtl p v) := by
  unfold State.writeParCtl
  repeat' first
    | (with_reducible first | assumption | apply setPart_inv | apply railAim_inv)
    | (with_reducible first | apply optInv_some | exact optInv_none | refine inv_foldl ?_ ?_)
    | simp only [canon_mk]
    | split

theorem writeExport_inv (s : State) (f v : Nat) (hs : Canon s) : OptInv (s.writeExport f v) := by
  unfold State.writeExport
  repeat' first
    | (with_reducible first | assumption | apply setVf_inv | apply andThen_inv)
    | (with_reducible first | apply exportStatus_inv | apply optInv_some)
    | split

theorem writeCtxReg_inv (s : State) (fn : Nat) (r : Reg) (v : Nat) (hs : Canon s) :
    OptInv (s.writeCtxReg fn r v) := by
  unfold State.writeCtxReg
  repeat' first
    | (with_reducible first | assumption | apply writeCtxCtl_inv | apply setLevel_inv)
    | (with_reducible first | apply setCtx_inv | apply countErrCtx_inv | apply optInv_some)
    | with_reducible exact optInv_none
    | simp only [canon_mk]
    | split

theorem writeQueueReg_inv (s : State) (fn : Nat) (r : Reg) (v : Nat) (hs : Canon s) :
    OptInv (s.writeQueueReg fn r v) := by
  unfold State.writeQueueReg
  repeat' first
    | (with_reducible first | assumption | apply writeQCtl_inv | apply setQueue_inv)
    | (with_reducible first | apply andThen_inv | apply setRing_inv | apply writeVfCtl_inv)
    | (with_reducible first | apply setVf_inv | apply writeExport_inv | apply optInv_some)
    | with_reducible exact optInv_none
    | simp only [canon_mk]
    | split

theorem writeBlockReg_inv (s : State) (fn : Nat) (r : Reg) (v : Nat) (hs : Canon s) :
    OptInv (s.writeBlockReg fn r v) := by
  unfold State.writeBlockReg
  repeat' first
    | (with_reducible first | assumption | apply setDie_inv | apply setStack_inv)
    | (with_reducible first | apply setCore_inv | apply andThen_inv | apply writeDomCtl_inv)
    | (with_reducible first | apply setDom_inv | apply writeParCtl_inv | apply setPart_inv)
    | (with_reducible first | apply optInv_some | exact optInv_none)
    | simp only [canon_mk]
    | split

theorem regWrite_inv (s : State) (fn : Nat) (r : Reg) (v : Nat) (hs : Canon s) : OptInv (s.regWrite fn r v) := by
  unfold State.regWrite
  repeat' first
    | (with_reducible first | assumption | apply writeCtxReg_inv | apply writeQueueReg_inv)
    | with_reducible apply writeBlockReg_inv
    | split

theorem execRegisterWrite_inv (fn : Nat) (reg : Reg) (value : W64) (s : State) (hs : Canon s) :
    OutInv (execRegisterWrite fn reg value s) := by
  unfold execRegisterWrite
  repeat' first
    | (with_reducible first | assumption | apply refuseWrite_inv | apply regWrite_inv)
    | with_reducible apply outInv_next
    | refine inv_of_some (by assumption) ?_
    | split

theorem reboot_inv (s : State) (hs : Canon s) : Canon s.reboot := ⟨hs.1, rfl, rfl⟩

theorem execFundamentalReset_inv (bad : Nat) (s : State) (hs : Canon s) : OutInv (execFundamentalReset bad s) := by
  unfold execFundamentalReset
  repeat' first
    | (with_reducible first | assumption | apply reboot_inv | apply setPhase_inv)
    | with_reducible apply outInv_next
    | simp only [canon_mk]
    | split

theorem restartScrubs_inv (s : State) (hs : Canon s) : Canon s.restartScrubs := by
  unfold State.restartScrubs
  repeat' first
    | (with_reducible first | assumption | apply setDie_inv | refine inv_foldl ?_ ?_)
    | intro _
    | simp only [canon_mk]
    | split

theorem tearAll_inv (s : State) (cs : List (Nat × Ctx)) (hs : Canon s) : Canon (s.tearAll cs) := by
  unfold State.tearAll
  repeat' first
    | (with_reducible first | assumption | apply tearDown_inv | refine inv_foldl ?_ ?_)
    | intro _
    | split

theorem resetVf_inv (s : State) (f : Nat) (hs : Canon s) : Canon (s.resetVf f) := by
  unfold State.resetVf
  repeat' first
    | (with_reducible first | assumption | apply tearAll_inv | apply restartScrubs_inv)
    | with_reducible apply setVf_inv

theorem resetPf_inv (s : State) (hs : Canon s) : Canon s.resetPf := by
  unfold State.resetPf
  repeat' first
    | (with_reducible first | assumption | apply tearAll_inv | apply restartScrubs_inv)
    | simp only [canon_mk]

theorem execVfReset_inv (f : Nat) (s : State) (hs : Canon s) : OutInv (execVfReset f s) := by
  unfold execVfReset
  repeat' first
    | (with_reducible first | assumption | apply resetVf_inv | apply outInv_next)
    | simp only [canon_mk]
    | split

theorem execPfReset_inv (s : State) (hs : Canon s) : OutInv (execPfReset s) := by
  unfold execPfReset
  repeat' first
    | (with_reducible first | assumption | apply resetPf_inv | apply outInv_next)
    | simp only [canon_mk]
    | split

theorem execBringupReady_inv (s : State) (hs : Canon s) : OutInv (execBringupReady s) := by
  unfold execBringupReady
  repeat' first
    | (with_reducible first | assumption | apply setPhase_inv | apply resetPf_inv)
    | (with_reducible first | apply resetVf_inv | apply outInv_next | refine inv_foldl ?_ ?_)
    | intro _
    | simp only [canon_mk]
    | split

theorem execIdeStreamKeyed_inv (f : Nat) (secure : Bool) (s : State) (hs : Canon s) :
    OutInv (execIdeStreamKeyed f secure s) := by
  unfold execIdeStreamKeyed
  repeat' first
    | (with_reducible first | assumption | apply setVf_inv | apply outInv_next)
    | split

theorem eccError_inv (s : State) (at_ : EccAt) (bad : Bool) (hs : Canon s) : Canon (s.eccError at_ bad) := by
  unfold State.eccError
  repeat' first
    | (with_reducible first | assumption | apply unitError_inv | apply countErr_inv)
    | (with_reducible first | apply killLanes_inv | apply setCore_inv)
    | simp only [canon_mk]
    | split

theorem evictL1_inv (s : State) (core vline : Nat) (hs : Canon s) : Canon (s.evictL1 core vline) := by
  unfold State.evictL1
  repeat' first
    | with_reducible assumption
    | simp only [canon_mk]

theorem evictTlb_inv (s : State) (stack vnum : Nat) (hs : Canon s) : Canon (s.evictTlb stack vnum) := by
  unfold State.evictTlb
  repeat' first
    | with_reducible assumption
    | simp only [canon_mk]

theorem evictL2_inv (s : State) (line : Nat) (hs : Canon s) : Canon (s.evictL2 line) := by
  unfold State.evictL2
  repeat' first
    | (with_reducible first | assumption | apply dropL2_inv)
    | split

theorem hostStore_inv (s : State) (pa : Nat) (bs : List Byte) (hs : Canon s) : Canon (s.hostStore pa bs) := by
  unfold State.hostStore
  repeat' first
    | (with_reducible first | assumption | apply writeMem_inv | apply putBytes_inv)
    | simp only [canon_mk]
    | split

theorem due_inv (s : State) (l : List Instr) (hs : Canon s) : Canon (s.due l) := by
  unfold State.due
  repeat' first
    | with_reducible assumption
    | simp only [canon_mk]

theorem tickHead_inv (s : State) (hs : Canon s) : Canon s.tickHead := by
  unfold State.tickHead
  repeat' first
    | (with_reducible first | assumption | apply due_inv)
    | simp only [canon_mk]

theorem tickStack_inv (s : State) (k : Nat) (hs : Canon s) : Canon (s.tickStack k) := by
  unfold State.tickStack
  repeat' first
    | (with_reducible first | assumption | apply setStack_inv | apply due_inv)
    | simp only [canon_mk]
    | split

theorem tickAwl_inv (s : State) (d : Nat) (hs : Canon s) : Canon (s.tickAwl d) := by
  unfold State.tickAwl
  repeat' first
    | (with_reducible first | assumption | apply setDie_inv | apply due_inv)

theorem tickRef_inv (s : State) (d : Nat) (hs : Canon s) : Canon (s.tickRef d) := by
  unfold State.tickRef
  repeat' first
    | (with_reducible first | assumption | apply setDie_inv | apply due_inv)

theorem tickLink_inv (s : State) (k : Nat) (hs : Canon s) : Canon (s.tickLink k) := by
  unfold State.tickLink
  repeat' first
    | (with_reducible first | assumption | apply setLink_inv | apply due_inv)

theorem tickChan_inv (s : State) (c : Nat) (hs : Canon s) : Canon (s.tickChan c) := by
  unfold State.tickChan
  repeat' first
    | (with_reducible first | assumption | apply setChan_inv | apply due_inv)

theorem tick_inv (s : State) (c : ClockId) (hs : Canon s) : Canon (s.tick c) := by
  unfold State.tick
  repeat' first
    | (with_reducible first | assumption | apply tickHead_inv | apply tickStack_inv)
    | (with_reducible first | apply tickAwl_inv | apply tickRef_inv | apply tickLink_inv)
    | with_reducible apply tickChan_inv
    | split

theorem branchTo_inv (s : State) (e : Env) (offset : W32) (hs : Canon s) : Canon (s.branchTo e offset) := by
  unfold State.branchTo
  repeat' first
    | (with_reducible first | assumption | apply setPc_inv | apply faultAt_inv)
    | split

theorem jumpTo_inv (s : State) (e : Env) (a : Nat) (hs : Canon s) : Canon (s.jumpTo e a) := by
  unfold State.jumpTo
  repeat' first
    | (with_reducible first | assumption | apply faultAt_inv | apply setPc_inv)
    | split

theorem execBra_inv (o : Fields) (s : State) (hs : Canon s) : OutInv (execBra o s) := by
  unfold execBra
  repeat' first
    | (with_reducible first | assumption | apply issue_inv | apply branchTo_inv)
    | intro _

theorem execBrx_inv (o : Fields) (s : State) (hs : Canon s) : OutInv (execBrx o s) := by
  unfold execBrx
  repeat' first
    | (with_reducible first | assumption | apply issue_inv | apply jumpTo_inv)
    | intro _

theorem execCall_inv (o : Fields) (s : State) (hs : Canon s) : OutInv (execCall o s) := by
  unfold execCall
  repeat' first
    | (with_reducible first | assumption | apply issue_inv | apply branchTo_inv | apply putS_inv)
    | intro _

theorem execCallx_inv (o : Fields) (s : State) (hs : Canon s) : OutInv (execCallx o s) := by
  unfold execCallx
  repeat' first
    | (with_reducible first | assumption | apply issue_inv | apply jumpTo_inv | apply putS_inv)
    | intro _

theorem execRet_inv (o : Fields) (s : State) (hs : Canon s) : OutInv (execRet o s) := by
  unfold execRet
  repeat' first
    | (with_reducible first | assumption | apply issue_inv | apply jumpTo_inv)
    | intro _

theorem execBru_inv (all : Bool) (o : Fields) (s : State) (hs : Canon s) : OutInv (execBru all o s) := by
  unfold execBru
  repeat' first
    | (with_reducible first | assumption | apply issue_inv | apply pairAbort_inv)
    | with_reducible apply branchTo_inv
    | intro _
    | split

theorem pushOther_inv (s : State) (e : Env) (g : Group) (y : PcSlot) (index : Nat) (hs : Canon s) :
    Canon (s.pushOther e g y index) := by
  unfold State.pushOther
  repeat' first
    | (with_reducible first | assumption | apply faultAt_inv | apply fresh_inv)
    | with_reducible apply onIssuer_inv
    | simp only [canon_mk]
    | split

theorem execDbr_inv (o : Fields) (s : State) (hs : Canon s) : OutInv (execDbr o s) := by
  unfold execDbr
  repeat' first
    | (with_reducible first | assumption | apply issue_inv | apply pairAbort_inv)
    | (with_reducible first | apply branchTo_inv | apply pushOther_inv | apply onIssuer_inv)
    | with_reducible apply faultAt_inv
    | intro _
    | split

theorem execRcv_inv (o : Fields) (s : State) (hs : Canon s) : OutInv (execRcv o s) := by
  unfold execRcv
  repeat' first
    | (with_reducible first | assumption | apply issue_inv | apply settleArrival_inv)
    | (with_reducible first | apply merge_inv | apply hold_inv)
    | intro _
    | simp only [canon_mk]
    | split

theorem execLoop_inv (o : Fields) (s : State) (hs : Canon s) : OutInv (execLoop o s) := by
  unfold execLoop
  repeat' first
    | (with_reducible first | assumption | apply issue_inv | apply putS_inv | apply branchTo_inv)
    | intro _
    | simp only [canon_mk]
    | split

theorem execExit_inv (o : Fields) (s : State) (hs : Canon s) : OutInv (execExit o s) := by
  unfold execExit
  repeat' first
    | (with_reducible first | assumption | apply issue_inv | apply settleSlots_inv)
    | with_reducible apply onIssuer_inv
    | intro _

theorem execYield_inv (o : Fields) (s : State) (hs : Canon s) : OutInv (execYield o s) := by
  unfold execYield
  repeat' first
    | (with_reducible first | assumption | apply issue_inv | apply onIssuer_inv)
    | intro _

theorem execNop_inv (o : Fields) (s : State) (hs : Canon s) : OutInv (execNop o s) := by
  unfold execNop
  repeat' first
    | (with_reducible first | assumption | apply issue_inv)
    | intro _

theorem execUnassignedOpcode_inv (raw : BitVec 96) (s : State) (hs : Canon s) :
    OutInv (execUnassignedOpcode raw s) := by
  unfold execUnassignedOpcode
  repeat' first
    | (with_reducible first | assumption | apply faultAt_inv | apply charge_inv)
    | (with_reducible first | apply outInv_next | apply outInv_fault)
    | split

theorem putTile_inv (s : State) (core tile off : Nat) (bs : List Byte) (hs : Canon s) : Canon (s.putTile core tile off bs) :=
  canon_tile _ hs (wf_putRange _ _ _ hs.2.2)

theorem poisonTile_inv (s : State) (ctx core tile : Nat) (hs : Canon s) : Canon (s.poisonTile ctx core tile) := by
  unfold State.poisonTile
  repeat' first
    | (with_reducible first | assumption | apply countErrCtx_inv)
    | simp only [canon_mk]

theorem cleanTile_inv (s : State) (core tile : Nat) (hs : Canon s) : Canon (s.cleanTile core tile) := by
  unfold State.cleanTile
  repeat' first
    | with_reducible assumption
    | simp only [canon_mk]

theorem countIssue_inv (s : State) (core ctx : Nat) (hs : Canon s) : Canon (s.countIssue core ctx) := by
  unfold State.countIssue
  repeat' first
    | (with_reducible first | assumption | apply setCore_inv | apply countMat_inv)
    | simp only [canon_mk]
    | split

theorem acceptOne_inv (s : State) (e : Env) (m : MatOp) (a : Nat) (hs : Canon s) : Canon (s.acceptOne e m a) := by
  unfold State.acceptOne
  repeat' first
    | (with_reducible first | assumption | apply fresh_inv | apply countIssue_inv)
    | simp only [canon_mk]
    | split

theorem execGang_inv (o : Fields) (s : State) (hs : Canon s) : OutInv (execGang o s) := by
  unfold execGang
  repeat' first
    | (with_reducible first | assumption | apply issue_inv | apply faultAt_inv)
    | with_reducible apply onIssuer_inv
    | intro _
    | simp only [canon_mk]
    | split

theorem execMma_inv (o : Fields) (s : State) (hs : Canon s) : OutInv (execMma o s) := by
  unfold execMma
  repeat' first
    | (with_reducible first | assumption | apply issue_inv | apply faultAt_inv)
    | (with_reducible first | apply onIssuer_inv | apply countIssue_inv | apply hold_inv)
    | intro _
    | simp only [canon_mk]
    | split

theorem execMzero_inv (o : Fields) (s : State) (hs : Canon s) : OutInv (execMzero o s) := by
  unfold execMzero
  repeat' first
    | (with_reducible first | assumption | apply issue_inv | apply charge_inv)
    | with_reducible apply acceptOne_inv
    | intro _

theorem issueBlock_inv (i : Instr) (o : Fields) (view mem : Ty) (s : State) (hs : Canon s) :
    OutInv (issueBlock i o view mem s) := by
  unfold issueBlock
  repeat' first
    | (with_reducible first | assumption | apply issue_inv | apply faultAt_inv | apply charge_inv)
    | with_reducible apply acceptOne_inv
    | intro _
    | simp only [canon_mk]
    | split

theorem execMld_inv (o : Fields) (s : State) (hs : Canon s) : OutInv (execMld o s) := by
  unfold execMld
  repeat' first
    | (with_reducible first | assumption | apply issueBlock_inv)

theorem execMst_inv (o : Fields) (s : State) (hs : Canon s) : OutInv (execMst o s) := by
  unfold execMst
  repeat' first
    | (with_reducible first | assumption | apply issueBlock_inv)

theorem execMmov_inv (o : Fields) (s : State) (hs : Canon s) : OutInv (execMmov o s) := by
  unfold execMmov
  repeat' first
    | (with_reducible first | assumption | apply issue_inv | apply pairAbort_inv)
    | (with_reducible first | apply charge_inv | apply acceptOne_inv)
    | intro _
    | simp only [canon_mk]
    | split

theorem execMfence_inv (o : Fields) (s : State) (hs : Canon s) : OutInv (execMfence o s) := by
  unfold execMfence
  repeat' first
    | (with_reducible first | assumption | apply issue_inv | apply onIssuer_inv)
    | intro _

theorem execMwait_inv (o : Fields) (s : State) (hs : Canon s) : OutInv (execMwait o s) := by
  unfold execMwait
  repeat' first
    | (with_reducible first | assumption | apply issue_inv | apply holdUntil_inv)
    | intro _

theorem pastCinch_inv (s : State) (core slot x seq : Nat) (hs : Canon s) : Canon (s.pastCinch core slot x seq) := by
  unfold State.pastCinch
  repeat' first
    | (with_reducible first | assumption | apply modGroup_inv | apply recheck_inv)

theorem execCinchRelease_inv (core slot : Nat) (s : State) (hs : Canon s) :
    OutInv (execCinchRelease core slot s) := by
  unfold execCinchRelease
  repeat' first
    | (with_reducible first | assumption | apply abortKernel_inv | apply fresh_inv)
    | (with_reducible first | apply pastCinch_inv | apply outInv_next | refine inv_foldl ?_ ?_)
    | intro _
    | simp only [canon_mk]
    | split

theorem matAbort_inv (s : State) (m : MatOp) (c : Cause) (addr : Nat) (hs : Canon s) :
    Canon (s.matAbort m c addr) := by
  unfold State.matAbort
  repeat' first
    | (with_reducible first | assumption | apply abortKernel_inv)

theorem matFault_inv (s : State) (id : Nat) (m : MatOp) (lo : Nat) (f : Nat × Nat × Nat × Nat × Option Cause) (hs :
    Canon s) : Canon (s.matFault id m lo f) := by
  unfold State.matFault
  repeat' first
    | (with_reducible first | assumption | apply matAbort_inv)
    | simp only [canon_mk]
    | split

theorem matSectors_inv (s : State) (m : MatOp) (sp : Bool) (pm : PageMap) (secs : List Nat) (hs : Canon s) :
    Canon (s.matSectors m sp pm secs) := by
  unfold State.matSectors
  repeat' first
    | (with_reducible first | assumption | apply charge_inv | apply touchRange_inv)
    | with_reducible refine inv_foldl ?_ ?_
    | intro _
    | split

theorem readAgain_inv (s : State) (m : MatOp) (hs : Canon s) : Canon (s.readAgain m) := by
  unfold State.readAgain
  repeat' first
    | (with_reducible first | assumption | apply touchRange_inv | refine inv_foldl ?_ ?_)
    | intro _

theorem fetchMma_inv (s : State) (id : Nat) (m : MatOp) (o : Fields) (hs : Canon s) : Canon (s.fetchMma id m o) := by
  unfold State.fetchMma
  repeat' first
    | (with_reducible first | assumption | apply walkMap_inv | apply matFault_inv)
    | (with_reducible first | apply matAbort_inv | apply matSectors_inv | apply touchL2_inv)
    | with_reducible refine inv_foldl ?_ ?_
    | intro _
    | refine inv_of_snd (by assumption) ?_
    | simp only [canon_mk]
    | split

theorem fetchBlock_inv (s : State) (id : Nat) (m : MatOp) (o : Fields) (load : Bool) (view mem : Ty) (hs : Canon s) :
    Canon (s.fetchBlock id m o load view mem) := by
  unfold State.fetchBlock
  repeat' first
    | (with_reducible first | assumption | apply walkMap_inv | apply matFault_inv)
    | (with_reducible first | apply matAbort_inv | apply matSectors_inv)
    | refine inv_of_snd (by assumption) ?_
    | simp only [canon_mk]
    | split

theorem execMatrixFetchComplete_inv (id : Nat) (s : State) (hs : Canon s) :
    OutInv (execMatrixFetchComplete id s) := by
  unfold execMatrixFetchComplete
  repeat' first
    | (with_reducible first | assumption | apply fetchMma_inv | apply fetchBlock_inv)
    | with_reducible apply outInv_next
    | simp only [canon_mk]
    | split

theorem computeMma_inv (s : State) (m : MatOp) (o : Fields) (hs : Canon s) : Canon (s.computeMma m o) := by
  unfold State.computeMma
  repeat' first
    | (with_reducible first | assumption | apply charge_inv | apply readAgain_inv)
    | (with_reducible first | apply putTile_inv | apply poisonTile_inv | apply modMember_inv)
    | (with_reducible first | refine inv_foldl ?_ ?_ | refine inv_foldl1 ?_ ?_)
    | intro _
    | simp only [canon_mk]
    | split

theorem computeMzero_inv (s : State) (m : MatOp) (o : Fields) (hs : Canon s) : Canon (s.computeMzero m o) := by
  unfold State.computeMzero
  repeat' first
    | (with_reducible first | assumption | apply cleanTile_inv | apply putTile_inv)
    | with_reducible refine inv_foldl ?_ ?_
    | intro _

theorem computeMld_inv (s : State) (m : MatOp) (o : Fields) (hs : Canon s) : Canon (s.computeMld m o) := by
  unfold State.computeMld
  repeat' first
    | (with_reducible first | assumption | apply readAgain_inv | apply putTile_inv)
    | (with_reducible first | apply poisonTile_inv | apply cleanTile_inv | refine inv_foldl ?_ ?_)
    | intro _
    | split

theorem computeMst_inv (s : State) (m : MatOp) (o : Fields) (hs : Canon s) : Canon (s.computeMst m o) := by
  unfold State.computeMst
  repeat' first
    | (with_reducible first | assumption | apply sramPoisonAfter_inv | apply touchSram_inv)
    | (with_reducible first | apply l1DropRange_inv | apply touchRange_inv | apply putSram_inv)
    | (with_reducible first | apply putGlobal_inv | apply countErrCtx_inv | apply modMember_inv)
    | (with_reducible first | refine inv_foldl ?_ ?_ | refine inv_foldl1 ?_ ?_)
    | intro _
    | split

theorem computeMmov_inv (s : State) (m : MatOp) (o : Fields) (hs : Canon s) : Canon (s.computeMmov m o) := by
  unfold State.computeMmov
  repeat' first
    | (with_reducible first | assumption | apply putTile_inv | apply killLanes_inv)
    | (with_reducible first | apply countErrCtx_inv | apply charge_inv | apply writeName_inv)
    | with_reducible refine inv_foldl ?_ ?_
    | intro _
    | simp only [canon_mk]
    | split

theorem execMatrixComputeComplete_inv (id : Nat) (s : State) (hs : Canon s) :
    OutInv (execMatrixComputeComplete id s) := by
  unfold execMatrixComputeComplete
  repeat' first
    | (with_reducible first | assumption | apply computeMma_inv | apply computeMzero_inv)
    | (with_reducible first | apply computeMld_inv | apply computeMst_inv | apply computeMmov_inv)
    | (with_reducible first | apply tryRetireTeam_inv | apply outInv_next)
    | simp only [canon_mk]
    | split

theorem fetchLeaf_inv (s : State) (p : Payer) (core va : Nat) (hs : Canon s) : Canon (s.fetchLeaf p core va).2 := by
  unfold State.fetchLeaf
  repeat' first
    | (with_reducible first | assumption | apply translate_inv)
    | refine inv_of_snd (by assumption) ?_
    | split

theorem fetchHere_inv (s : State) (p : Payer) (core va : Nat) (hs : Canon s) : Canon (s.fetchHere p core va).2 := by
  unfold State.fetchHere
  repeat' first
    | (with_reducible first | assumption | apply fetchLeaf_inv)
    | refine inv_of_snd (by assumption) ?_
    | split

theorem fetchLine_inv (s : State) (p : Payer) (core va : Nat) (hs : Canon s) : Canon (s.fetchLine p core va).2 := by
  unfold State.fetchLine
  repeat' first
    | (with_reducible first | assumption | apply fetchHere_inv | apply draw_inv)
    | split

theorem lineImage_inv (s : State) (me : Issuer) (n : Nat) (hs : Canon s) : Canon (s.lineImage me n).2 := by
  unfold State.lineImage
  repeat' first
    | (with_reducible first | assumption | apply setGroup_inv | apply setCore_inv)
    | with_reducible apply unitError_inv
    | simp only [canon_mk]
    | split

theorem fetchAhead_inv (s : State) (core slot pcs half : Nat) (hs : Canon s) :
    Canon (s.fetchAhead core slot pcs half) := by
  unfold State.fetchAhead
  repeat' first
    | (with_reducible first | assumption | apply setGroup_inv)
    | simp only [canon_mk]
    | split

theorem fetchWait_inv (s : State) (me : Issuer) (g : Group) (t : Team) (ps : PcSlot) (c d l : Nat) (hs : Canon s) :
    Canon (s.fetchWait me g t ps c d l) := by
  unfold State.fetchWait
  repeat' first
    | (with_reducible first | assumption | apply fresh_inv | apply onIssuer_inv)
    | simp only [canon_mk]

theorem peek_inv (s : State) (me : Issuer) (hs : Canon s) : Canon (s.peek me).2 := by
  unfold State.peek
  repeat' first
    | (with_reducible first | assumption | apply fetchLine_inv | apply fetchWait_inv)
    | with_reducible apply lineImage_inv
    | refine inv_of_snd (by assumption) ?_
    | simp only [canon_mk]
    | split

theorem look_inv (s : State) (core slot : Nat) (hs : Canon s) : Canon (s.look core slot).2 := by
  unfold State.look
  repeat' first
    | (with_reducible first | assumption | apply recheck_inv | apply peek_inv)
    | refine inv_of_snd (by assumption) ?_
    | simp only [canon_mk]
    | split

theorem scan_inv (s : State) (core : Nat) (x3 : List Nat) (hs : Canon s) : Canon (s.scan core x3).2 := by
  induction x3 generalizing s core with
  | nil => exact hs
  | cons a r ih =>
    unfold State.scan
    repeat' first
      | (with_reducible first | assumption | apply setGroup_inv | apply look_inv)
      | (with_reducible first | apply countMat_inv | apply ih)
      | refine inv_of_snd (by assumption) ?_
      | simp only [canon_mk]
      | split

theorem selected_inv (s : State) (core slot : Nat) (hs : Canon s) : Canon (s.selected core slot) := by
  unfold State.selected
  repeat' first
    | (with_reducible first | assumption | apply setCore_inv | apply setStack_inv)

theorem pairReads_inv (s : State) (me : Issuer) (i j : Instr) (hs : Canon s) : Canon (s.pairReads me i j) := by
  unfold State.pairReads
  repeat' first
    | (with_reducible first | assumption | apply setGroup_inv | apply busyFor_inv)
    | simp only [canon_mk]
    | split

theorem stopAt_inv (s : State) (me : Issuer) (c : Cause) (second : Bool) (hs : Canon s) :
    Canon (s.stopAt me c second) := by
  unfold State.stopAt
  repeat' first
    | (with_reducible first | assumption | apply faultAt_inv | apply charge_inv)
    | split

theorem runPair_inv (he : ∀ i s, Canon s → OutInv (exec i s)) (me : Issuer) (i j : Instr) (s : State) (hs : Canon s) :
    OutInv (runPair me i j s) := by
  have h1 := he i _ (pairReads_inv s me i j hs)
  unfold runPair; split
  · rename_i e
    have h2 := inv_of_next e h1
    split
    · exact outInv_next h2
    · split
      · rename_i e2
        have h3 := inv_of_next e2 (he j _ h2)
        exact outInv_next h3
      · exact he j _ h2
  · exact h1

theorem runAct_inv (he : ∀ i s, Canon s → OutInv (exec i s)) (me : Issuer) (a : Act) (s : State) (hs : Canon s) :
    OutInv (runAct me a s) := by
  unfold runAct
  extract_lets s1
  have h1 : Canon s1 := hs
  split
  · exact he _ _ h1
  · exact runPair_inv he _ _ _ _ h1
  · exact outInv_next (stopAt_inv _ _ _ _ h1)

theorem runQuarter_inv (he : ∀ i s, Canon s → OutInv (exec i s)) (core q : Nat) (s : State) (hs : Canon s) :
    OutInv (runQuarter core q s) := by
  unfold runQuarter
  extract_lets c busy
  split
  · exact outInv_next hs
  · split
    · exact outInv_next (setCore_inv _ _ _ hs)
    · split
      · exact outInv_next hs
      · split <;> rename_i e <;> have h := inv_of_snd e (scan_inv _ _ _ hs)
        · exact outInv_next h
        · exact runAct_inv he _ _ _ (selected_inv _ _ _ h)

theorem runHead_inv (he : ∀ i s, Canon s → OutInv (exec i s)) (q : Nat) (s : State) (hs : Canon s) : OutInv (runHead q s) := by
  unfold runHead
  split <;> rename_i e <;> have h := inv_of_snd e (findCommand_inv s q hs)
  · exact outInv_next h
  · exact outInv_next (setQueue_inv _ _ _ h)
  · exact outInv_next (setQueue_inv _ _ _ h)
  · exact outInv_next (malformedCmd_inv _ _ h)
  · exact he _ _ h

theorem runWrite_inv (he : ∀ i s, Canon s → OutInv (exec i s)) (fn off : Nat) (v : W64) (s : State) (hs : Canon s) :
    OutInv (runWrite fn off v s) := by
  unfold runWrite; split
  · exact he _ _ hs
  · refine outInv_next ?_; split
    · exact refuseWrite_inv _ _ hs
    · exact hs

theorem runRead_inv (fn off : Nat) (s : State) (hs : Canon s) : Canon (runRead fn off s) := by
  unfold runRead
  repeat' first
    | (with_reducible first | assumption | apply regRead_inv | apply send_inv)
    | split

theorem takeMove_inv (s : State) (hs : Canon s) : Canon s.takeMove.2 := by
  unfold State.takeMove
  repeat' first
    | with_reducible assumption
    | simp only [canon_mk]
    | split

end Sys2Proof.Laws
end

