-- ==== Sys2Proof/Laws/Register.lean ====
section
/-! SUPPORT. What the shared forms of register instructions do when they are ready: scalar, predicate, vector and
floating results, and the results put in flight. -/

namespace Sys2Proof.Laws

open Sys2Proof Sys2Proof.Machine

theorem issuedOnly_congr {i : Instr} {e : Env} {s t : State} {f g : Group → Group} (h : IssuedOnly i e s t f)
    (hfg : ∀ x, f x = g x) : IssuedOnly i e s t g := by
  obtain rfl : f = g := funext hfg
  exact h

theorem issuedOnly_putS {i : Instr} {e : Env} {s t : State} {f : Group → Group} (h : IssuedOnly i e s t f) (n x : Nat) :
    IssuedOnly i e s (t.putS e n x) fun g => (f g).writeScal n (BitVec.ofNat 64 x) := issuedOnly_onIssuer h _

theorem issuedOnly_putP {i : Instr} {e : Env} {s t : State} {f : Group → Group} (h : IssuedOnly i e s t f) (n : Nat)
    (x : W32) : IssuedOnly i e s (t.putP e n x) fun g => (f g).writePred n x := by
  unfold State.putP Group.writePred
  split
  · exact h
  · exact issuedOnly_onIssuer h _

theorem issuedOnly_laneCost {i : Instr} {e : Env} {s t : State} {f : Group → Group} (h : IssuedOnly i e s t f)
    (ev k : Nat) : IssuedOnly i e s (t.laneCost e ev k) f := issuedOnly_charge h _ _ _

theorem issuedOnly_orFlags {i : Instr} {e : Env} {s t : State} {f : Group → Group} (h : IssuedOnly i e s t f)
    (fl : FFlags) : IssuedOnly i e s (t.orFlags e fl) fun g => { f g with fflags := (f g).fflags ||| fl } := by
  unfold State.orFlags
  split
  · subst_vars; exact issuedOnly_congr h fun g => by simp
  · exact issuedOnly_onIssuer h _

/-- A scalar result under R137. -/
theorem issueS_ready {i : Instr} {s : State} {e : Env} (h : Ready i s e) (f : Env → Int) :
    ∃ t, issueS i e.o s f = .next t ∧ IssuedOnly i e s t fun g =>
      if e.takes then g.writeScal e.o.dst.toNat (BitVec.ofNat 64 (scalOut e.o.ty (f e))) else g := by
  refine ⟨_, issue_ready h _, ?_⟩
  cases e.takes
  · exact atIssue_only s i e
  · exact issuedOnly_putS (atIssue_only s i e) _ _

/-- Lane `l` of a predicate written for the lanes of `m` (R91). -/
theorem mergeBits_lane (old m : W32) (f : Nat → Bool) (l : Nat) (h : l < 32) :
    (mergeBits old m f).getLsbD l = if m.getLsbD l then f l else old.getLsbD l := by
  have hm : ∀ n, n ≤ 32 → ((List.range n).foldl (fun m l => if f l then m ||| (1#32 <<< l) else m) (0 : W32)).getLsbD l =
      (decide (l < n) && f l) := by
    intro n
    induction n with
    | zero => simp
    | succ n ih =>
      intro hn
      rw [List.range_succ, List.foldl_append]
      simp only [List.foldl_cons, List.foldl_nil]
      have := ih (by omega)
      split
      · rename_i hf
        rw [BitVec.getLsbD_or, this, BitVec.getLsbD_shiftLeft]
        by_cases e : l = n
        · subst e; simp [hf, h]
        · by_cases e2 : l < n
          · have e3 : l < n + 1 := by omega
            have e4 : ¬ (l = n) := e
            have e5 : ¬ (n ≤ l) := by omega
            simp [e2, e3, e5]
          · have : ¬ l < n + 1 := by omega
            simp [e2, this]; intro; omega
      · rename_i hf
        rw [this]
        by_cases e : l = n
        · subst e; simp [hf]
        · have : (l < n) = (l < n + 1) := by simp; omega
          simp [this]
  have := hm 32 (by omega)
  simp only [mergeBits, maskOf, BitVec.getLsbD_or, BitVec.getLsbD_and, BitVec.getLsbD_not, this]
  cases m.getLsbD l <;> simp [h]

/-- A predicate result for the active lanes (R91, R178). -/
theorem issuedOnly_putPLanes {i : Instr} {e : Env} {s t : State} {f : Group → Group} (h : IssuedOnly i e s t f)
    (n : Nat) (x : Nat → Bool) :
    ∃ p : W32, (∀ l, l < 32 → p.getLsbD l = if e.run.getLsbD l then x l else (e.g.predReg n).getLsbD l) ∧
      IssuedOnly i e s (t.putPLanes e n e.run x) fun g => (f g).writePred n p :=
  ⟨_, fun l hl => mergeBits_lane _ _ _ l hl, issuedOnly_putP h _ _⟩

theorem issueP_ready {i : Instr} {s : State} {e : Env} (h : Ready i s e) (f : Env → W32) :
    ∃ t p, issueP i e.o s f = .next t ∧
      (∀ l, l < 32 → p.getLsbD l = if e.run.getLsbD l then (f e).getLsbD l else (e.g.predReg e.o.dst.toNat).getLsbD l) ∧
      IssuedOnly i e s t fun g => g.writePred e.o.dst.toNat p := by
  obtain ⟨p, hp, hi⟩ := issuedOnly_putPLanes (atIssue_only s i e) e.o.dst.toNat fun l => (f e).getLsbD l
  exact ⟨_, p, issue_ready h _, hp, hi⟩

/-- A vector result for the active lanes (R167, R172). -/
theorem issueV_ready {i : Instr} {s : State} {e : Env} {now : Group} (h : Ready i s e)
    (hg : s.group? e.me.core e.me.slot = some now) (ev k : Nat) (wide : Bool) (f : Env → Nat → Nat)
    (hfit : e.run ≠ 0 → e.room (e.issued i s.pair.isSome now).v (resultNames e.o.dst.toNat wide)) :
    ∃ t v', issueV i e.o s ev k wide f = .next t ∧
      VecWrite e.o.dst.toNat wide e.run (f e) (e.issued i s.pair.isSome now).v v' ∧
      IssuedOnly i e s t fun g => { g with v := v' } := by
  have team : (id (e.issued i s.pair.isSome now)).team = now.team := by
    simp only [id, Env.issued, Group.setSlot]; split <;> rfl
  obtain ⟨v', hv, hi⟩ := issuedOnly_putV (issuedOnly_laneCost (atIssue_only s i e) ev k) h.issuer hg team
    e.o.dst.toNat wide e.run (f e) hfit
  exact ⟨_, v', issue_ready h _, hv, hi⟩

/-- A floating vector result with its flags (R62, R167). -/
theorem issueF_ready {i : Instr} {s : State} {e : Env} {now : Group} (h : Ready i s e)
    (hg : s.group? e.me.core e.me.slot = some now) (ev k : Nat) (wide : Bool) (f : Env → Nat → Nat × FFlags)
    (hfit : e.run ≠ 0 → e.room (e.issued i s.pair.isSome now).v (resultNames e.o.dst.toNat wide)) :
    ∃ t v', issueF i e.o s ev k wide f = .next t ∧
      VecWrite e.o.dst.toNat wide e.run (fun l => (f e l).1) (e.issued i s.pair.isSome now).v v' ∧
      IssuedOnly i e s t fun g => { g with v := v', fflags := g.fflags ||| orOver e.run fun l => (f e l).2 } := by
  have team : ({ id (e.issued i s.pair.isSome now) with
      fflags := (id (e.issued i s.pair.isSome now)).fflags ||| orOver e.run fun l => (f e l).2 } : Group).team = now.team := by
    simp only [id, Env.issued, Group.setSlot]; split <;> rfl
  obtain ⟨v', hv, hi⟩ := issuedOnly_putV
    (issuedOnly_laneCost (issuedOnly_orFlags (atIssue_only s i e) (orOver e.run fun l => (f e l).2)) ev k) h.issuer hg team
    e.o.dst.toNat wide e.run (fun l => (f e l).1) hfit
  exact ⟨_, v', issue_ready h _, hv, hi⟩

/-! ## Results and accesses in flight -/

@[simp] theorem issued_tag (e : Env) (i : Instr) (b : Bool) (g : Group) : (e.issued i b g).tag = g.tag := by
  simp only [Env.issued, Group.setSlot]; split <;> rfl

@[simp] theorem issued_team (e : Env) (i : Instr) (b : Bool) (g : Group) : (e.issued i b g).team = g.team := by
  simp only [Env.issued, Group.setSlot]; split <;> rfl

@[simp] theorem issued_seen (e : Env) (i : Instr) (b : Bool) (g : Group) :
    ((e.issued i b g).slotAt e.me.pcs).seen = (g.slotAt e.me.pcs).seen := by
  simp only [Env.issued, Group.setSlot, Group.slotAt]; split <;> rfl

/-- Putting an access that has a lane or a result in flight raises its path counter (R77), and its slot's next access follows
it (R225). -/
theorem issuedOnly_launch {i : Instr} {e : Env} {s t : State} {now : Group} (h : IssuedOnly i e s t id)
    (hg : s.group? e.me.core e.me.slot = some now) (a : Access) (hd : a.left ≠ 0 ∨ a.dst.isSome = true) :
    IssuedOnly i e
      (s.withAccess (t.lookL1 { a with
        core := e.me.core, slot := e.me.slot, pcs := e.me.pcs, tag := now.tag, team := now.team, gidx := e.g.idx, kid := e.kid,
        ctx := e.team.ctx, pc := e.pc, prior := (now.slotAt e.me.pcs).seen, done := false }))
      (t.launchAcc e a)
      fun g => match a.path with
        | some p => (g.after e.me.pcs s).raised p
        | none => g.after e.me.pcs s := by
  have hgt : t.group? e.me.core e.me.slot = some (e.issued i s.pair.isSome now) := by rw [h.group, hg]; rfl
  have hacc : t.acc = s.acc := (congrArg State.acc h.charged.beside :)
  have hnext : t.next = s.next := (congrArg State.next h.charged.beside :)
  have hdone : (a.left == 0 && a.dst.isNone) = false := by
    rcases hd with hd | hd
    · have : (a.left == 0) = false := by simpa using hd
      rw [this]; rfl
    · cases ha : a.dst <;> simp_all
  unfold State.launchAcc
  have look (x : Access) : State.lookL1 { t with next := s.next + 1 } x = t.lookL1 x := rfl
  rw [hgt]
  simp only [State.fresh, issued_tag, issued_team, issued_seen, hdone, hnext, look]
  generalize hb : State.lookL1 _ _ = b
  have hb' : b = t.lookL1 { a with
      core := e.me.core, slot := e.me.slot, pcs := e.me.pcs, tag := now.tag, team := now.team, gidx := e.g.idx, kid := e.kid,
      ctx := e.team.ctx, pc := e.pc, prior := (now.slotAt e.me.pcs).seen, done := false } := hb.symm
  have hp : b.path = a.path := by rw [hb']; rfl
  have hdn : b.done = false := by rw [hb']; rfl
  have h1 : IssuedOnly i e (s.withAccess b) { t with next := s.next + 1, acc := t.acc.put s.next b } id := by
    refine ⟨⟨?_, h.charged.ctxs, h.charged.teams, h.charged.stks, h.charged.cores⟩, h.others, h.group⟩
    have := congrArg (fun u : State => { u with next := s.next + 1, acc := s.acc.put s.next b }) h.charged.beside
    rw [hacc]; exact this
  have h2 := issuedOnly_onIssuer h1 fun g => g.after e.me.pcs s
  have hs : (fun g : Group => g.setSlot e.me.pcs
      (({ t with next := s.next + 1 } : State).seenAfter (g.slotAt e.me.pcs) s.next)) = fun g => g.after e.me.pcs s := by
    funext g; simp only [Group.after, State.seenAfter, hacc]
  rw [hs, hp, hdn]
  cases a.path with
  | none => exact h2
  | some p => exact issuedOnly_onIssuer h2 fun g => g.raised p

/-- A deferred function puts its result in flight (R73, R170). -/
theorem issueDeferred_ready {i : Instr} {s : State} {e : Env} {now : Group} (h : Ready i s e)
    (hg : s.group? e.me.core e.me.slot = some now) (f : Env → Nat → Nat × FFlags) :
    ∃ t, issueDeferred i e.o s f = .next t ∧
      IssuedOnly i e (s.withAccess { e.access now with
        space := .sfu, op := .load, ty := e.o.ty, dst := some e.o.dst.toNat, lanes := e.run
        got := (lanesOf e.run).map fun l => (l, [(f e l).1])
        raised := orOver e.run fun l => (f e l).2 }) t fun g => g.after e.me.pcs s :=
  ⟨_, issue_ready h _, issuedOnly_launch
    (issuedOnly_laneCost (atIssue_only s i e) (if e.o.ty == .f64 then 9 else 8) 1) hg
    { core := 0, slot := 0, pcs := 0, tag := 0, team := 0, ctx := 0, space := .sfu, op := .load, ty := e.o.ty,
      dst := some e.o.dst.toNat, lanes := e.run,
      got := (lanesOf e.run).map fun l => (l, [(f e l).1])
      raised := orOver e.run fun l => (f e l).2 } (.inr rfl)⟩

end Sys2Proof.Laws
end

