-- ==== Sys2Proof/Laws/State.lean ====
section
/-! SUPPORT. What each update of the state leaves as it was, and what it writes: one lemma a field and update. -/

namespace Sys2Proof.Laws

open Sys2Proof Sys2Proof.Machine

/-! ## An entry after its update -/

@[simp] theorem setCore_coreSt (s : State) (k j : Nat) (x) : (s.setCore k x).coreSt j = if j = k then x else s.coreSt j :=
  get_set _ _ _ _ _

@[simp] theorem setStack_stackSt (s : State) (k j : Nat) (x) : (s.setStack k x).stackSt j = if j = k then x else s.stackSt j :=
  get_set _ _ _ _ _

@[simp] theorem setDie_dieSt (s : State) (k j : Nat) (x) : (s.setDie k x).dieSt j = if j = k then x else s.dieSt j :=
  get_set _ _ _ _ _

@[simp] theorem setCtx_ctx (s : State) (k j : Nat) (x) : (s.setCtx k x).ctx j = if j = k then x else s.ctx j :=
  get_set _ _ _ _ _

@[simp] theorem setQueue_queue (s : State) (k j : Nat) (x) : (s.setQueue k x).queue j = if j = k then x else s.queue j :=
  get_set _ _ _ _ _

@[simp] theorem setLink_link (s : State) (k j : Nat) (x) : (s.setLink k x).link j = if j = k then x else s.link j :=
  get_set _ _ _ _ _

@[simp] theorem setDom_dom (s : State) (k j : Nat) (x) : (s.setDom k x).dom j = if j = k then x else s.dom j :=
  get_set _ _ _ _ _

@[simp] theorem setVf_vf (s : State) (k j : Nat) (x) : (s.setVf k x).vf j = if j = k then x else s.vf j :=
  get_set _ _ _ _ _

@[simp] theorem setChan_chan (s : State) (k j : Nat) (x) : (s.setChan k x).chan j = if j = k then x else s.chan j :=
  get_set _ _ _ _ _

@[simp] theorem setRing_ring (s : State) (k j : Nat) (x) : (s.setRing k x).ring j = if j = k then x else s.ring j :=
  get_set _ _ _ _ _

@[simp] theorem setScore_scoreOf (s : State) (k j : Nat) (x) : (s.setScore k x).scoreOf j = if j = k then x else s.scoreOf j :=
  get_set _ _ _ _ _

@[simp] theorem setKern_kern (s : State) (k j : Nat) (x) : (s.setKern k x).kern j = if j = k then x else s.kern j :=
  get_put _ _ _ _ _

@[simp] theorem setTeam_team (s : State) (k j : Nat) (x) : (s.setTeam k x).team j = if j = k then x else s.team j :=
  get_put _ _ _ _ _

@[simp] theorem setPart_part (s : State) (k j : Nat) (x : Part) :
    (s.setPart k x).part j = if j = k then x else s.part j := by
  simp only [State.setPart, State.part]; exact get_put _ _ _ _ _

/-! ## setCore -/

@[simp] theorem setCore_stackSt (s : State) (k : Nat) (x) (j : Nat) : (s.setCore k x).stackSt j = s.stackSt j := rfl
@[simp] theorem setCore_dieSt (s : State) (k : Nat) (x) (j : Nat) : (s.setCore k x).dieSt j = s.dieSt j := rfl
@[simp] theorem setCore_ctx (s : State) (k : Nat) (x) (j : Nat) : (s.setCore k x).ctx j = s.ctx j := rfl
@[simp] theorem setCore_queue (s : State) (k : Nat) (x) (j : Nat) : (s.setCore k x).queue j = s.queue j := rfl
@[simp] theorem setCore_link (s : State) (k : Nat) (x) (j : Nat) : (s.setCore k x).link j = s.link j := rfl
@[simp] theorem setCore_dom (s : State) (k : Nat) (x) (j : Nat) : (s.setCore k x).dom j = s.dom j := rfl
@[simp] theorem setCore_vf (s : State) (k : Nat) (x) (j : Nat) : (s.setCore k x).vf j = s.vf j := rfl
@[simp] theorem setCore_chan (s : State) (k : Nat) (x) (j : Nat) : (s.setCore k x).chan j = s.chan j := rfl
@[simp] theorem setCore_ring (s : State) (k : Nat) (x) (j : Nat) : (s.setCore k x).ring j = s.ring j := rfl
@[simp] theorem setCore_scoreOf (s : State) (k : Nat) (x) (j : Nat) : (s.setCore k x).scoreOf j = s.scoreOf j := rfl
@[simp] theorem setCore_kern (s : State) (k : Nat) (x) (j : Nat) : (s.setCore k x).kern j = s.kern j := rfl
@[simp] theorem setCore_team (s : State) (k : Nat) (x) (j : Nat) : (s.setCore k x).team j = s.team j := rfl
@[simp] theorem setCore_part (s : State) (k : Nat) (x) (j : Nat) : (s.setCore k x).part j = s.part j := rfl
@[simp] theorem setCore_agenda (s : State) (k : Nat) (x) : (s.setCore k x).agenda = s.agenda := rfl
@[simp] theorem setCore_cur (s : State) (k : Nat) (x) : (s.setCore k x).cur = s.cur := rfl
@[simp] theorem setCore_pair (s : State) (k : Nat) (x) : (s.setCore k x).pair = s.pair := rfl
@[simp] theorem setCore_free (s : State) (k : Nat) (x) : (s.setCore k x).free = s.free := rfl
@[simp] theorem setCore_next (s : State) (k : Nat) (x) : (s.setCore k x).next = s.next := rfl
@[simp] theorem setCore_groups (s : State) (k : Nat) (x) : (s.setCore k x).groups = s.groups := rfl
@[simp] theorem setCore_acc (s : State) (k : Nat) (x) : (s.setCore k x).acc = s.acc := rfl
@[simp] theorem setCore_mats (s : State) (k : Nat) (x) : (s.setCore k x).mats = s.mats := rfl
@[simp] theorem setCore_copies (s : State) (k : Nat) (x) : (s.setCore k x).copies = s.copies := rfl
@[simp] theorem setCore_colls (s : State) (k : Nat) (x) : (s.setCore k x).colls = s.colls := rfl
@[simp] theorem setCore_teams (s : State) (k : Nat) (x) : (s.setCore k x).teams = s.teams := rfl
@[simp] theorem setCore_kernels (s : State) (k : Nat) (x) : (s.setCore k x).kernels = s.kernels := rfl
@[simp] theorem setCore_mem (s : State) (k : Nat) (x) : (s.setCore k x).mem = s.mem := rfl
@[simp] theorem setCore_sram (s : State) (k : Nat) (x) : (s.setCore k x).sram = s.sram := rfl
@[simp] theorem setCore_tile (s : State) (k : Nat) (x) : (s.setCore k x).tile = s.tile := rfl
@[simp] theorem setCore_poison (s : State) (k : Nat) (x) : (s.setCore k x).poison = s.poison := rfl
@[simp] theorem setCore_sramPoison (s : State) (k : Nat) (x) : (s.setCore k x).sramPoison = s.sramPoison := rfl
@[simp] theorem setCore_tilePoison (s : State) (k : Nat) (x) : (s.setCore k x).tilePoison = s.tilePoison := rfl
@[simp] theorem setCore_l1 (s : State) (k : Nat) (x) : (s.setCore k x).l1 = s.l1 := rfl
@[simp] theorem setCore_tlb (s : State) (k : Nat) (x) : (s.setCore k x).tlb = s.tlb := rfl
@[simp] theorem setCore_l2 (s : State) (k : Nat) (x) : (s.setCore k x).l2 = s.l2 := rfl
@[simp] theorem setCore_stks (s : State) (k : Nat) (x) : (s.setCore k x).stks = s.stks := rfl
@[simp] theorem setCore_dies (s : State) (k : Nat) (x) : (s.setCore k x).dies = s.dies := rfl
@[simp] theorem setCore_regEvents (s : State) (k : Nat) (x) : (s.setCore k x).regEvents = s.regEvents := rfl
@[simp] theorem setCore_matStall (s : State) (k : Nat) (x) : (s.setCore k x).matStall = s.matStall := rfl
@[simp] theorem setCore_allow (s : State) (k : Nat) (x) : (s.setCore k x).allow = s.allow := rfl
@[simp] theorem setCore_ctxs (s : State) (k : Nat) (x) : (s.setCore k x).ctxs = s.ctxs := rfl
@[simp] theorem setCore_queues (s : State) (k : Nat) (x) : (s.setCore k x).queues = s.queues := rfl
@[simp] theorem setCore_sets (s : State) (k : Nat) (x) : (s.setCore k x).sets = s.sets := rfl
@[simp] theorem setCore_lastDie (s : State) (k : Nat) (x) : (s.setCore k x).lastDie = s.lastDie := rfl
@[simp] theorem setCore_rot (s : State) (k : Nat) (x) : (s.setCore k x).rot = s.rot := rfl
@[simp] theorem setCore_headClock (s : State) (k : Nat) (x) : (s.setCore k x).headClock = s.headClock := rfl
@[simp] theorem setCore_replies (s : State) (k : Nat) (x) : (s.setCore k x).replies = s.replies := rfl
@[simp] theorem setCore_dbarHeld (s : State) (k : Nat) (x) : (s.setCore k x).dbarHeld = s.dbarHeld := rfl
@[simp] theorem setCore_rings (s : State) (k : Nat) (x) : (s.setCore k x).rings = s.rings := rfl
@[simp] theorem setCore_invals (s : State) (k : Nat) (x) : (s.setCore k x).invals = s.invals := rfl
@[simp] theorem setCore_migrs (s : State) (k : Nat) (x) : (s.setCore k x).migrs = s.migrs := rfl
@[simp] theorem setCore_links (s : State) (k : Nat) (x) : (s.setCore k x).links = s.links := rfl
@[simp] theorem setCore_heldFlits (s : State) (k : Nat) (x) : (s.setCore k x).heldFlits = s.heldFlits := rfl
@[simp] theorem setCore_routes (s : State) (k : Nat) (x) : (s.setCore k x).routes = s.routes := rfl
@[simp] theorem setCore_doms (s : State) (k : Nat) (x) : (s.setCore k x).doms = s.doms := rfl
@[simp] theorem setCore_parts (s : State) (k : Nat) (x) : (s.setCore k x).parts = s.parts := rfl
@[simp] theorem setCore_chans (s : State) (k : Nat) (x) : (s.setCore k x).chans = s.chans := rfl
@[simp] theorem setCore_vfs (s : State) (k : Nat) (x) : (s.setCore k x).vfs = s.vfs := rfl
@[simp] theorem setCore_errs (s : State) (k : Nat) (x) : (s.setCore k x).errs = s.errs := rfl
@[simp] theorem setCore_scores (s : State) (k : Nat) (x) : (s.setCore k x).scores = s.scores := rfl
@[simp] theorem setCore_cap (s : State) (k : Nat) (x) : (s.setCore k x).cap = s.cap := rfl
@[simp] theorem setCore_share (s : State) (k : Nat) (x) : (s.setCore k x).share = s.share := rfl
@[simp] theorem setCore_snpSeq (s : State) (k : Nat) (x) : (s.setCore k x).snpSeq = s.snpSeq := rfl
@[simp] theorem setCore_snpAddr (s : State) (k : Nat) (x) : (s.setCore k x).snpAddr = s.snpAddr := rfl
@[simp] theorem setCore_snap (s : State) (k : Nat) (x) : (s.setCore k x).snap = s.snap := rfl
@[simp] theorem setCore_log (s : State) (k : Nat) (x) : (s.setCore k x).log = s.log := rfl
@[simp] theorem setCore_logHeld (s : State) (k : Nat) (x) : (s.setCore k x).logHeld = s.logHeld := rfl
@[simp] theorem setCore_logSeq (s : State) (k : Nat) (x) : (s.setCore k x).logSeq = s.logSeq := rfl
@[simp] theorem setCore_rndKind (s : State) (k : Nat) (x) : (s.setCore k x).rndKind = s.rndKind := rfl
@[simp] theorem setCore_rndPhase (s : State) (k : Nat) (x) : (s.setCore k x).rndPhase = s.rndPhase := rfl
@[simp] theorem setCore_resets (s : State) (k : Nat) (x) : (s.setCore k x).resets = s.resets := rfl
@[simp] theorem setCore_expSeq (s : State) (k : Nat) (x) : (s.setCore k x).expSeq = s.expSeq := rfl
@[simp] theorem setCore_sweeps (s : State) (k : Nat) (x) : (s.setCore k x).sweeps = s.sweeps := rfl
@[simp] theorem setCore_touched (s : State) (k : Nat) (x) : (s.setCore k x).touched = s.touched := rfl
@[simp] theorem setCore_keys (s : State) (k : Nat) (x) : (s.setCore k x).keys = s.keys := rfl
@[simp] theorem setCore_keyIds (s : State) (k : Nat) (x) : (s.setCore k x).keyIds = s.keyIds := rfl
@[simp] theorem setCore_sealKey (s : State) (k : Nat) (x) : (s.setCore k x).sealKey = s.sealKey := rfl
@[simp] theorem setCore_stackCopy (s : State) (k : Nat) (x) : (s.setCore k x).stackCopy = s.stackCopy := rfl
@[simp] theorem setCore_outbox (s : State) (k : Nat) (x) : (s.setCore k x).outbox = s.outbox := rfl
@[simp] theorem setCore_irqs (s : State) (k : Nat) (x) : (s.setCore k x).irqs = s.irqs := rfl

/-! ## setStack -/

@[simp] theorem setStack_coreSt (s : State) (k : Nat) (x) (j : Nat) : (s.setStack k x).coreSt j = s.coreSt j := rfl
@[simp] theorem setStack_dieSt (s : State) (k : Nat) (x) (j : Nat) : (s.setStack k x).dieSt j = s.dieSt j := rfl
@[simp] theorem setStack_ctx (s : State) (k : Nat) (x) (j : Nat) : (s.setStack k x).ctx j = s.ctx j := rfl
@[simp] theorem setStack_queue (s : State) (k : Nat) (x) (j : Nat) : (s.setStack k x).queue j = s.queue j := rfl
@[simp] theorem setStack_link (s : State) (k : Nat) (x) (j : Nat) : (s.setStack k x).link j = s.link j := rfl
@[simp] theorem setStack_dom (s : State) (k : Nat) (x) (j : Nat) : (s.setStack k x).dom j = s.dom j := rfl
@[simp] theorem setStack_vf (s : State) (k : Nat) (x) (j : Nat) : (s.setStack k x).vf j = s.vf j := rfl
@[simp] theorem setStack_chan (s : State) (k : Nat) (x) (j : Nat) : (s.setStack k x).chan j = s.chan j := rfl
@[simp] theorem setStack_ring (s : State) (k : Nat) (x) (j : Nat) : (s.setStack k x).ring j = s.ring j := rfl
@[simp] theorem setStack_scoreOf (s : State) (k : Nat) (x) (j : Nat) : (s.setStack k x).scoreOf j = s.scoreOf j := rfl
@[simp] theorem setStack_kern (s : State) (k : Nat) (x) (j : Nat) : (s.setStack k x).kern j = s.kern j := rfl
@[simp] theorem setStack_team (s : State) (k : Nat) (x) (j : Nat) : (s.setStack k x).team j = s.team j := rfl
@[simp] theorem setStack_part (s : State) (k : Nat) (x) (j : Nat) : (s.setStack k x).part j = s.part j := rfl
@[simp] theorem setStack_agenda (s : State) (k : Nat) (x) : (s.setStack k x).agenda = s.agenda := rfl
@[simp] theorem setStack_cur (s : State) (k : Nat) (x) : (s.setStack k x).cur = s.cur := rfl
@[simp] theorem setStack_pair (s : State) (k : Nat) (x) : (s.setStack k x).pair = s.pair := rfl
@[simp] theorem setStack_free (s : State) (k : Nat) (x) : (s.setStack k x).free = s.free := rfl
@[simp] theorem setStack_next (s : State) (k : Nat) (x) : (s.setStack k x).next = s.next := rfl
@[simp] theorem setStack_groups (s : State) (k : Nat) (x) : (s.setStack k x).groups = s.groups := rfl
@[simp] theorem setStack_acc (s : State) (k : Nat) (x) : (s.setStack k x).acc = s.acc := rfl
@[simp] theorem setStack_mats (s : State) (k : Nat) (x) : (s.setStack k x).mats = s.mats := rfl
@[simp] theorem setStack_copies (s : State) (k : Nat) (x) : (s.setStack k x).copies = s.copies := rfl
@[simp] theorem setStack_colls (s : State) (k : Nat) (x) : (s.setStack k x).colls = s.colls := rfl
@[simp] theorem setStack_teams (s : State) (k : Nat) (x) : (s.setStack k x).teams = s.teams := rfl
@[simp] theorem setStack_kernels (s : State) (k : Nat) (x) : (s.setStack k x).kernels = s.kernels := rfl
@[simp] theorem setStack_mem (s : State) (k : Nat) (x) : (s.setStack k x).mem = s.mem := rfl
@[simp] theorem setStack_sram (s : State) (k : Nat) (x) : (s.setStack k x).sram = s.sram := rfl
@[simp] theorem setStack_tile (s : State) (k : Nat) (x) : (s.setStack k x).tile = s.tile := rfl
@[simp] theorem setStack_poison (s : State) (k : Nat) (x) : (s.setStack k x).poison = s.poison := rfl
@[simp] theorem setStack_sramPoison (s : State) (k : Nat) (x) : (s.setStack k x).sramPoison = s.sramPoison := rfl
@[simp] theorem setStack_tilePoison (s : State) (k : Nat) (x) : (s.setStack k x).tilePoison = s.tilePoison := rfl
@[simp] theorem setStack_l1 (s : State) (k : Nat) (x) : (s.setStack k x).l1 = s.l1 := rfl
@[simp] theorem setStack_tlb (s : State) (k : Nat) (x) : (s.setStack k x).tlb = s.tlb := rfl
@[simp] theorem setStack_l2 (s : State) (k : Nat) (x) : (s.setStack k x).l2 = s.l2 := rfl
@[simp] theorem setStack_cores (s : State) (k : Nat) (x) : (s.setStack k x).cores = s.cores := rfl
@[simp] theorem setStack_dies (s : State) (k : Nat) (x) : (s.setStack k x).dies = s.dies := rfl
@[simp] theorem setStack_regEvents (s : State) (k : Nat) (x) : (s.setStack k x).regEvents = s.regEvents := rfl
@[simp] theorem setStack_matStall (s : State) (k : Nat) (x) : (s.setStack k x).matStall = s.matStall := rfl
@[simp] theorem setStack_allow (s : State) (k : Nat) (x) : (s.setStack k x).allow = s.allow := rfl
@[simp] theorem setStack_ctxs (s : State) (k : Nat) (x) : (s.setStack k x).ctxs = s.ctxs := rfl
@[simp] theorem setStack_queues (s : State) (k : Nat) (x) : (s.setStack k x).queues = s.queues := rfl
@[simp] theorem setStack_sets (s : State) (k : Nat) (x) : (s.setStack k x).sets = s.sets := rfl
@[simp] theorem setStack_lastDie (s : State) (k : Nat) (x) : (s.setStack k x).lastDie = s.lastDie := rfl
@[simp] theorem setStack_rot (s : State) (k : Nat) (x) : (s.setStack k x).rot = s.rot := rfl
@[simp] theorem setStack_headClock (s : State) (k : Nat) (x) : (s.setStack k x).headClock = s.headClock := rfl
@[simp] theorem setStack_replies (s : State) (k : Nat) (x) : (s.setStack k x).replies = s.replies := rfl
@[simp] theorem setStack_dbarHeld (s : State) (k : Nat) (x) : (s.setStack k x).dbarHeld = s.dbarHeld := rfl
@[simp] theorem setStack_rings (s : State) (k : Nat) (x) : (s.setStack k x).rings = s.rings := rfl
@[simp] theorem setStack_invals (s : State) (k : Nat) (x) : (s.setStack k x).invals = s.invals := rfl
@[simp] theorem setStack_migrs (s : State) (k : Nat) (x) : (s.setStack k x).migrs = s.migrs := rfl
@[simp] theorem setStack_links (s : State) (k : Nat) (x) : (s.setStack k x).links = s.links := rfl
@[simp] theorem setStack_heldFlits (s : State) (k : Nat) (x) : (s.setStack k x).heldFlits = s.heldFlits := rfl
@[simp] theorem setStack_routes (s : State) (k : Nat) (x) : (s.setStack k x).routes = s.routes := rfl
@[simp] theorem setStack_doms (s : State) (k : Nat) (x) : (s.setStack k x).doms = s.doms := rfl
@[simp] theorem setStack_parts (s : State) (k : Nat) (x) : (s.setStack k x).parts = s.parts := rfl
@[simp] theorem setStack_chans (s : State) (k : Nat) (x) : (s.setStack k x).chans = s.chans := rfl
@[simp] theorem setStack_vfs (s : State) (k : Nat) (x) : (s.setStack k x).vfs = s.vfs := rfl
@[simp] theorem setStack_errs (s : State) (k : Nat) (x) : (s.setStack k x).errs = s.errs := rfl
@[simp] theorem setStack_scores (s : State) (k : Nat) (x) : (s.setStack k x).scores = s.scores := rfl
@[simp] theorem setStack_cap (s : State) (k : Nat) (x) : (s.setStack k x).cap = s.cap := rfl
@[simp] theorem setStack_share (s : State) (k : Nat) (x) : (s.setStack k x).share = s.share := rfl
@[simp] theorem setStack_snpSeq (s : State) (k : Nat) (x) : (s.setStack k x).snpSeq = s.snpSeq := rfl
@[simp] theorem setStack_snpAddr (s : State) (k : Nat) (x) : (s.setStack k x).snpAddr = s.snpAddr := rfl
@[simp] theorem setStack_snap (s : State) (k : Nat) (x) : (s.setStack k x).snap = s.snap := rfl
@[simp] theorem setStack_log (s : State) (k : Nat) (x) : (s.setStack k x).log = s.log := rfl
@[simp] theorem setStack_logHeld (s : State) (k : Nat) (x) : (s.setStack k x).logHeld = s.logHeld := rfl
@[simp] theorem setStack_logSeq (s : State) (k : Nat) (x) : (s.setStack k x).logSeq = s.logSeq := rfl
@[simp] theorem setStack_rndKind (s : State) (k : Nat) (x) : (s.setStack k x).rndKind = s.rndKind := rfl
@[simp] theorem setStack_rndPhase (s : State) (k : Nat) (x) : (s.setStack k x).rndPhase = s.rndPhase := rfl
@[simp] theorem setStack_resets (s : State) (k : Nat) (x) : (s.setStack k x).resets = s.resets := rfl
@[simp] theorem setStack_expSeq (s : State) (k : Nat) (x) : (s.setStack k x).expSeq = s.expSeq := rfl
@[simp] theorem setStack_sweeps (s : State) (k : Nat) (x) : (s.setStack k x).sweeps = s.sweeps := rfl
@[simp] theorem setStack_touched (s : State) (k : Nat) (x) : (s.setStack k x).touched = s.touched := rfl
@[simp] theorem setStack_keys (s : State) (k : Nat) (x) : (s.setStack k x).keys = s.keys := rfl
@[simp] theorem setStack_keyIds (s : State) (k : Nat) (x) : (s.setStack k x).keyIds = s.keyIds := rfl
@[simp] theorem setStack_sealKey (s : State) (k : Nat) (x) : (s.setStack k x).sealKey = s.sealKey := rfl
@[simp] theorem setStack_stackCopy (s : State) (k : Nat) (x) : (s.setStack k x).stackCopy = s.stackCopy := rfl
@[simp] theorem setStack_outbox (s : State) (k : Nat) (x) : (s.setStack k x).outbox = s.outbox := rfl
@[simp] theorem setStack_irqs (s : State) (k : Nat) (x) : (s.setStack k x).irqs = s.irqs := rfl

/-! ## setDie -/

@[simp] theorem setDie_coreSt (s : State) (k : Nat) (x) (j : Nat) : (s.setDie k x).coreSt j = s.coreSt j := rfl
@[simp] theorem setDie_stackSt (s : State) (k : Nat) (x) (j : Nat) : (s.setDie k x).stackSt j = s.stackSt j := rfl
@[simp] theorem setDie_ctx (s : State) (k : Nat) (x) (j : Nat) : (s.setDie k x).ctx j = s.ctx j := rfl
@[simp] theorem setDie_queue (s : State) (k : Nat) (x) (j : Nat) : (s.setDie k x).queue j = s.queue j := rfl
@[simp] theorem setDie_link (s : State) (k : Nat) (x) (j : Nat) : (s.setDie k x).link j = s.link j := rfl
@[simp] theorem setDie_dom (s : State) (k : Nat) (x) (j : Nat) : (s.setDie k x).dom j = s.dom j := rfl
@[simp] theorem setDie_vf (s : State) (k : Nat) (x) (j : Nat) : (s.setDie k x).vf j = s.vf j := rfl
@[simp] theorem setDie_chan (s : State) (k : Nat) (x) (j : Nat) : (s.setDie k x).chan j = s.chan j := rfl
@[simp] theorem setDie_ring (s : State) (k : Nat) (x) (j : Nat) : (s.setDie k x).ring j = s.ring j := rfl
@[simp] theorem setDie_scoreOf (s : State) (k : Nat) (x) (j : Nat) : (s.setDie k x).scoreOf j = s.scoreOf j := rfl
@[simp] theorem setDie_kern (s : State) (k : Nat) (x) (j : Nat) : (s.setDie k x).kern j = s.kern j := rfl
@[simp] theorem setDie_team (s : State) (k : Nat) (x) (j : Nat) : (s.setDie k x).team j = s.team j := rfl
@[simp] theorem setDie_part (s : State) (k : Nat) (x) (j : Nat) : (s.setDie k x).part j = s.part j := rfl
@[simp] theorem setDie_agenda (s : State) (k : Nat) (x) : (s.setDie k x).agenda = s.agenda := rfl
@[simp] theorem setDie_cur (s : State) (k : Nat) (x) : (s.setDie k x).cur = s.cur := rfl
@[simp] theorem setDie_pair (s : State) (k : Nat) (x) : (s.setDie k x).pair = s.pair := rfl
@[simp] theorem setDie_free (s : State) (k : Nat) (x) : (s.setDie k x).free = s.free := rfl
@[simp] theorem setDie_next (s : State) (k : Nat) (x) : (s.setDie k x).next = s.next := rfl
@[simp] theorem setDie_groups (s : State) (k : Nat) (x) : (s.setDie k x).groups = s.groups := rfl
@[simp] theorem setDie_acc (s : State) (k : Nat) (x) : (s.setDie k x).acc = s.acc := rfl
@[simp] theorem setDie_mats (s : State) (k : Nat) (x) : (s.setDie k x).mats = s.mats := rfl
@[simp] theorem setDie_copies (s : State) (k : Nat) (x) : (s.setDie k x).copies = s.copies := rfl
@[simp] theorem setDie_colls (s : State) (k : Nat) (x) : (s.setDie k x).colls = s.colls := rfl
@[simp] theorem setDie_teams (s : State) (k : Nat) (x) : (s.setDie k x).teams = s.teams := rfl
@[simp] theorem setDie_kernels (s : State) (k : Nat) (x) : (s.setDie k x).kernels = s.kernels := rfl
@[simp] theorem setDie_mem (s : State) (k : Nat) (x) : (s.setDie k x).mem = s.mem := rfl
@[simp] theorem setDie_sram (s : State) (k : Nat) (x) : (s.setDie k x).sram = s.sram := rfl
@[simp] theorem setDie_tile (s : State) (k : Nat) (x) : (s.setDie k x).tile = s.tile := rfl
@[simp] theorem setDie_poison (s : State) (k : Nat) (x) : (s.setDie k x).poison = s.poison := rfl
@[simp] theorem setDie_sramPoison (s : State) (k : Nat) (x) : (s.setDie k x).sramPoison = s.sramPoison := rfl
@[simp] theorem setDie_tilePoison (s : State) (k : Nat) (x) : (s.setDie k x).tilePoison = s.tilePoison := rfl
@[simp] theorem setDie_l1 (s : State) (k : Nat) (x) : (s.setDie k x).l1 = s.l1 := rfl
@[simp] theorem setDie_tlb (s : State) (k : Nat) (x) : (s.setDie k x).tlb = s.tlb := rfl
@[simp] theorem setDie_l2 (s : State) (k : Nat) (x) : (s.setDie k x).l2 = s.l2 := rfl
@[simp] theorem setDie_cores (s : State) (k : Nat) (x) : (s.setDie k x).cores = s.cores := rfl
@[simp] theorem setDie_stks (s : State) (k : Nat) (x) : (s.setDie k x).stks = s.stks := rfl
@[simp] theorem setDie_regEvents (s : State) (k : Nat) (x) : (s.setDie k x).regEvents = s.regEvents := rfl
@[simp] theorem setDie_matStall (s : State) (k : Nat) (x) : (s.setDie k x).matStall = s.matStall := rfl
@[simp] theorem setDie_allow (s : State) (k : Nat) (x) : (s.setDie k x).allow = s.allow := rfl
@[simp] theorem setDie_ctxs (s : State) (k : Nat) (x) : (s.setDie k x).ctxs = s.ctxs := rfl
@[simp] theorem setDie_queues (s : State) (k : Nat) (x) : (s.setDie k x).queues = s.queues := rfl
@[simp] theorem setDie_sets (s : State) (k : Nat) (x) : (s.setDie k x).sets = s.sets := rfl
@[simp] theorem setDie_lastDie (s : State) (k : Nat) (x) : (s.setDie k x).lastDie = s.lastDie := rfl
@[simp] theorem setDie_rot (s : State) (k : Nat) (x) : (s.setDie k x).rot = s.rot := rfl
@[simp] theorem setDie_headClock (s : State) (k : Nat) (x) : (s.setDie k x).headClock = s.headClock := rfl
@[simp] theorem setDie_replies (s : State) (k : Nat) (x) : (s.setDie k x).replies = s.replies := rfl
@[simp] theorem setDie_dbarHeld (s : State) (k : Nat) (x) : (s.setDie k x).dbarHeld = s.dbarHeld := rfl
@[simp] theorem setDie_rings (s : State) (k : Nat) (x) : (s.setDie k x).rings = s.rings := rfl
@[simp] theorem setDie_invals (s : State) (k : Nat) (x) : (s.setDie k x).invals = s.invals := rfl
@[simp] theorem setDie_migrs (s : State) (k : Nat) (x) : (s.setDie k x).migrs = s.migrs := rfl
@[simp] theorem setDie_links (s : State) (k : Nat) (x) : (s.setDie k x).links = s.links := rfl
@[simp] theorem setDie_heldFlits (s : State) (k : Nat) (x) : (s.setDie k x).heldFlits = s.heldFlits := rfl
@[simp] theorem setDie_routes (s : State) (k : Nat) (x) : (s.setDie k x).routes = s.routes := rfl
@[simp] theorem setDie_doms (s : State) (k : Nat) (x) : (s.setDie k x).doms = s.doms := rfl
@[simp] theorem setDie_parts (s : State) (k : Nat) (x) : (s.setDie k x).parts = s.parts := rfl
@[simp] theorem setDie_chans (s : State) (k : Nat) (x) : (s.setDie k x).chans = s.chans := rfl
@[simp] theorem setDie_vfs (s : State) (k : Nat) (x) : (s.setDie k x).vfs = s.vfs := rfl
@[simp] theorem setDie_errs (s : State) (k : Nat) (x) : (s.setDie k x).errs = s.errs := rfl
@[simp] theorem setDie_scores (s : State) (k : Nat) (x) : (s.setDie k x).scores = s.scores := rfl
@[simp] theorem setDie_cap (s : State) (k : Nat) (x) : (s.setDie k x).cap = s.cap := rfl
@[simp] theorem setDie_share (s : State) (k : Nat) (x) : (s.setDie k x).share = s.share := rfl
@[simp] theorem setDie_snpSeq (s : State) (k : Nat) (x) : (s.setDie k x).snpSeq = s.snpSeq := rfl
@[simp] theorem setDie_snpAddr (s : State) (k : Nat) (x) : (s.setDie k x).snpAddr = s.snpAddr := rfl
@[simp] theorem setDie_snap (s : State) (k : Nat) (x) : (s.setDie k x).snap = s.snap := rfl
@[simp] theorem setDie_log (s : State) (k : Nat) (x) : (s.setDie k x).log = s.log := rfl
@[simp] theorem setDie_logHeld (s : State) (k : Nat) (x) : (s.setDie k x).logHeld = s.logHeld := rfl
@[simp] theorem setDie_logSeq (s : State) (k : Nat) (x) : (s.setDie k x).logSeq = s.logSeq := rfl
@[simp] theorem setDie_rndKind (s : State) (k : Nat) (x) : (s.setDie k x).rndKind = s.rndKind := rfl
@[simp] theorem setDie_rndPhase (s : State) (k : Nat) (x) : (s.setDie k x).rndPhase = s.rndPhase := rfl
@[simp] theorem setDie_resets (s : State) (k : Nat) (x) : (s.setDie k x).resets = s.resets := rfl
@[simp] theorem setDie_expSeq (s : State) (k : Nat) (x) : (s.setDie k x).expSeq = s.expSeq := rfl
@[simp] theorem setDie_sweeps (s : State) (k : Nat) (x) : (s.setDie k x).sweeps = s.sweeps := rfl
@[simp] theorem setDie_touched (s : State) (k : Nat) (x) : (s.setDie k x).touched = s.touched := rfl
@[simp] theorem setDie_keys (s : State) (k : Nat) (x) : (s.setDie k x).keys = s.keys := rfl
@[simp] theorem setDie_keyIds (s : State) (k : Nat) (x) : (s.setDie k x).keyIds = s.keyIds := rfl
@[simp] theorem setDie_sealKey (s : State) (k : Nat) (x) : (s.setDie k x).sealKey = s.sealKey := rfl
@[simp] theorem setDie_stackCopy (s : State) (k : Nat) (x) : (s.setDie k x).stackCopy = s.stackCopy := rfl
@[simp] theorem setDie_outbox (s : State) (k : Nat) (x) : (s.setDie k x).outbox = s.outbox := rfl
@[simp] theorem setDie_irqs (s : State) (k : Nat) (x) : (s.setDie k x).irqs = s.irqs := rfl

/-! ## setCtx -/

@[simp] theorem setCtx_coreSt (s : State) (k : Nat) (x) (j : Nat) : (s.setCtx k x).coreSt j = s.coreSt j := rfl
@[simp] theorem setCtx_stackSt (s : State) (k : Nat) (x) (j : Nat) : (s.setCtx k x).stackSt j = s.stackSt j := rfl
@[simp] theorem setCtx_dieSt (s : State) (k : Nat) (x) (j : Nat) : (s.setCtx k x).dieSt j = s.dieSt j := rfl
@[simp] theorem setCtx_queue (s : State) (k : Nat) (x) (j : Nat) : (s.setCtx k x).queue j = s.queue j := rfl
@[simp] theorem setCtx_link (s : State) (k : Nat) (x) (j : Nat) : (s.setCtx k x).link j = s.link j := rfl
@[simp] theorem setCtx_dom (s : State) (k : Nat) (x) (j : Nat) : (s.setCtx k x).dom j = s.dom j := rfl
@[simp] theorem setCtx_vf (s : State) (k : Nat) (x) (j : Nat) : (s.setCtx k x).vf j = s.vf j := rfl
@[simp] theorem setCtx_chan (s : State) (k : Nat) (x) (j : Nat) : (s.setCtx k x).chan j = s.chan j := rfl
@[simp] theorem setCtx_ring (s : State) (k : Nat) (x) (j : Nat) : (s.setCtx k x).ring j = s.ring j := rfl
@[simp] theorem setCtx_scoreOf (s : State) (k : Nat) (x) (j : Nat) : (s.setCtx k x).scoreOf j = s.scoreOf j := rfl
@[simp] theorem setCtx_kern (s : State) (k : Nat) (x) (j : Nat) : (s.setCtx k x).kern j = s.kern j := rfl
@[simp] theorem setCtx_team (s : State) (k : Nat) (x) (j : Nat) : (s.setCtx k x).team j = s.team j := rfl
@[simp] theorem setCtx_part (s : State) (k : Nat) (x) (j : Nat) : (s.setCtx k x).part j = s.part j := rfl
@[simp] theorem setCtx_agenda (s : State) (k : Nat) (x) : (s.setCtx k x).agenda = s.agenda := rfl
@[simp] theorem setCtx_cur (s : State) (k : Nat) (x) : (s.setCtx k x).cur = s.cur := rfl
@[simp] theorem setCtx_pair (s : State) (k : Nat) (x) : (s.setCtx k x).pair = s.pair := rfl
@[simp] theorem setCtx_free (s : State) (k : Nat) (x) : (s.setCtx k x).free = s.free := rfl
@[simp] theorem setCtx_next (s : State) (k : Nat) (x) : (s.setCtx k x).next = s.next := rfl
@[simp] theorem setCtx_groups (s : State) (k : Nat) (x) : (s.setCtx k x).groups = s.groups := rfl
@[simp] theorem setCtx_acc (s : State) (k : Nat) (x) : (s.setCtx k x).acc = s.acc := rfl
@[simp] theorem setCtx_mats (s : State) (k : Nat) (x) : (s.setCtx k x).mats = s.mats := rfl
@[simp] theorem setCtx_copies (s : State) (k : Nat) (x) : (s.setCtx k x).copies = s.copies := rfl
@[simp] theorem setCtx_colls (s : State) (k : Nat) (x) : (s.setCtx k x).colls = s.colls := rfl
@[simp] theorem setCtx_teams (s : State) (k : Nat) (x) : (s.setCtx k x).teams = s.teams := rfl
@[simp] theorem setCtx_kernels (s : State) (k : Nat) (x) : (s.setCtx k x).kernels = s.kernels := rfl
@[simp] theorem setCtx_mem (s : State) (k : Nat) (x) : (s.setCtx k x).mem = s.mem := rfl
@[simp] theorem setCtx_sram (s : State) (k : Nat) (x) : (s.setCtx k x).sram = s.sram := rfl
@[simp] theorem setCtx_tile (s : State) (k : Nat) (x) : (s.setCtx k x).tile = s.tile := rfl
@[simp] theorem setCtx_poison (s : State) (k : Nat) (x) : (s.setCtx k x).poison = s.poison := rfl
@[simp] theorem setCtx_sramPoison (s : State) (k : Nat) (x) : (s.setCtx k x).sramPoison = s.sramPoison := rfl
@[simp] theorem setCtx_tilePoison (s : State) (k : Nat) (x) : (s.setCtx k x).tilePoison = s.tilePoison := rfl
@[simp] theorem setCtx_l1 (s : State) (k : Nat) (x) : (s.setCtx k x).l1 = s.l1 := rfl
@[simp] theorem setCtx_tlb (s : State) (k : Nat) (x) : (s.setCtx k x).tlb = s.tlb := rfl
@[simp] theorem setCtx_l2 (s : State) (k : Nat) (x) : (s.setCtx k x).l2 = s.l2 := rfl
@[simp] theorem setCtx_cores (s : State) (k : Nat) (x) : (s.setCtx k x).cores = s.cores := rfl
@[simp] theorem setCtx_stks (s : State) (k : Nat) (x) : (s.setCtx k x).stks = s.stks := rfl
@[simp] theorem setCtx_dies (s : State) (k : Nat) (x) : (s.setCtx k x).dies = s.dies := rfl
@[simp] theorem setCtx_regEvents (s : State) (k : Nat) (x) : (s.setCtx k x).regEvents = s.regEvents := rfl
@[simp] theorem setCtx_matStall (s : State) (k : Nat) (x) : (s.setCtx k x).matStall = s.matStall := rfl
@[simp] theorem setCtx_allow (s : State) (k : Nat) (x) : (s.setCtx k x).allow = s.allow := rfl
@[simp] theorem setCtx_queues (s : State) (k : Nat) (x) : (s.setCtx k x).queues = s.queues := rfl
@[simp] theorem setCtx_sets (s : State) (k : Nat) (x) : (s.setCtx k x).sets = s.sets := rfl
@[simp] theorem setCtx_lastDie (s : State) (k : Nat) (x) : (s.setCtx k x).lastDie = s.lastDie := rfl
@[simp] theorem setCtx_rot (s : State) (k : Nat) (x) : (s.setCtx k x).rot = s.rot := rfl
@[simp] theorem setCtx_headClock (s : State) (k : Nat) (x) : (s.setCtx k x).headClock = s.headClock := rfl
@[simp] theorem setCtx_replies (s : State) (k : Nat) (x) : (s.setCtx k x).replies = s.replies := rfl
@[simp] theorem setCtx_dbarHeld (s : State) (k : Nat) (x) : (s.setCtx k x).dbarHeld = s.dbarHeld := rfl
@[simp] theorem setCtx_rings (s : State) (k : Nat) (x) : (s.setCtx k x).rings = s.rings := rfl
@[simp] theorem setCtx_invals (s : State) (k : Nat) (x) : (s.setCtx k x).invals = s.invals := rfl
@[simp] theorem setCtx_migrs (s : State) (k : Nat) (x) : (s.setCtx k x).migrs = s.migrs := rfl
@[simp] theorem setCtx_links (s : State) (k : Nat) (x) : (s.setCtx k x).links = s.links := rfl
@[simp] theorem setCtx_heldFlits (s : State) (k : Nat) (x) : (s.setCtx k x).heldFlits = s.heldFlits := rfl
@[simp] theorem setCtx_routes (s : State) (k : Nat) (x) : (s.setCtx k x).routes = s.routes := rfl
@[simp] theorem setCtx_doms (s : State) (k : Nat) (x) : (s.setCtx k x).doms = s.doms := rfl
@[simp] theorem setCtx_parts (s : State) (k : Nat) (x) : (s.setCtx k x).parts = s.parts := rfl
@[simp] theorem setCtx_chans (s : State) (k : Nat) (x) : (s.setCtx k x).chans = s.chans := rfl
@[simp] theorem setCtx_vfs (s : State) (k : Nat) (x) : (s.setCtx k x).vfs = s.vfs := rfl
@[simp] theorem setCtx_errs (s : State) (k : Nat) (x) : (s.setCtx k x).errs = s.errs := rfl
@[simp] theorem setCtx_scores (s : State) (k : Nat) (x) : (s.setCtx k x).scores = s.scores := rfl
@[simp] theorem setCtx_cap (s : State) (k : Nat) (x) : (s.setCtx k x).cap = s.cap := rfl
@[simp] theorem setCtx_share (s : State) (k : Nat) (x) : (s.setCtx k x).share = s.share := rfl
@[simp] theorem setCtx_snpSeq (s : State) (k : Nat) (x) : (s.setCtx k x).snpSeq = s.snpSeq := rfl
@[simp] theorem setCtx_snpAddr (s : State) (k : Nat) (x) : (s.setCtx k x).snpAddr = s.snpAddr := rfl
@[simp] theorem setCtx_snap (s : State) (k : Nat) (x) : (s.setCtx k x).snap = s.snap := rfl
@[simp] theorem setCtx_log (s : State) (k : Nat) (x) : (s.setCtx k x).log = s.log := rfl
@[simp] theorem setCtx_logHeld (s : State) (k : Nat) (x) : (s.setCtx k x).logHeld = s.logHeld := rfl
@[simp] theorem setCtx_logSeq (s : State) (k : Nat) (x) : (s.setCtx k x).logSeq = s.logSeq := rfl
@[simp] theorem setCtx_rndKind (s : State) (k : Nat) (x) : (s.setCtx k x).rndKind = s.rndKind := rfl
@[simp] theorem setCtx_rndPhase (s : State) (k : Nat) (x) : (s.setCtx k x).rndPhase = s.rndPhase := rfl
@[simp] theorem setCtx_resets (s : State) (k : Nat) (x) : (s.setCtx k x).resets = s.resets := rfl
@[simp] theorem setCtx_expSeq (s : State) (k : Nat) (x) : (s.setCtx k x).expSeq = s.expSeq := rfl
@[simp] theorem setCtx_sweeps (s : State) (k : Nat) (x) : (s.setCtx k x).sweeps = s.sweeps := rfl
@[simp] theorem setCtx_touched (s : State) (k : Nat) (x) : (s.setCtx k x).touched = s.touched := rfl
@[simp] theorem setCtx_keys (s : State) (k : Nat) (x) : (s.setCtx k x).keys = s.keys := rfl
@[simp] theorem setCtx_keyIds (s : State) (k : Nat) (x) : (s.setCtx k x).keyIds = s.keyIds := rfl
@[simp] theorem setCtx_sealKey (s : State) (k : Nat) (x) : (s.setCtx k x).sealKey = s.sealKey := rfl
@[simp] theorem setCtx_stackCopy (s : State) (k : Nat) (x) : (s.setCtx k x).stackCopy = s.stackCopy := rfl
@[simp] theorem setCtx_outbox (s : State) (k : Nat) (x) : (s.setCtx k x).outbox = s.outbox := rfl
@[simp] theorem setCtx_irqs (s : State) (k : Nat) (x) : (s.setCtx k x).irqs = s.irqs := rfl

/-! ## setQueue -/

@[simp] theorem setQueue_coreSt (s : State) (k : Nat) (x) (j : Nat) : (s.setQueue k x).coreSt j = s.coreSt j := rfl
@[simp] theorem setQueue_stackSt (s : State) (k : Nat) (x) (j : Nat) : (s.setQueue k x).stackSt j = s.stackSt j := rfl
@[simp] theorem setQueue_dieSt (s : State) (k : Nat) (x) (j : Nat) : (s.setQueue k x).dieSt j = s.dieSt j := rfl
@[simp] theorem setQueue_ctx (s : State) (k : Nat) (x) (j : Nat) : (s.setQueue k x).ctx j = s.ctx j := rfl
@[simp] theorem setQueue_link (s : State) (k : Nat) (x) (j : Nat) : (s.setQueue k x).link j = s.link j := rfl
@[simp] theorem setQueue_dom (s : State) (k : Nat) (x) (j : Nat) : (s.setQueue k x).dom j = s.dom j := rfl
@[simp] theorem setQueue_vf (s : State) (k : Nat) (x) (j : Nat) : (s.setQueue k x).vf j = s.vf j := rfl
@[simp] theorem setQueue_chan (s : State) (k : Nat) (x) (j : Nat) : (s.setQueue k x).chan j = s.chan j := rfl
@[simp] theorem setQueue_ring (s : State) (k : Nat) (x) (j : Nat) : (s.setQueue k x).ring j = s.ring j := rfl
@[simp] theorem setQueue_scoreOf (s : State) (k : Nat) (x) (j : Nat) : (s.setQueue k x).scoreOf j = s.scoreOf j := rfl
@[simp] theorem setQueue_kern (s : State) (k : Nat) (x) (j : Nat) : (s.setQueue k x).kern j = s.kern j := rfl
@[simp] theorem setQueue_team (s : State) (k : Nat) (x) (j : Nat) : (s.setQueue k x).team j = s.team j := rfl
@[simp] theorem setQueue_part (s : State) (k : Nat) (x) (j : Nat) : (s.setQueue k x).part j = s.part j := rfl
@[simp] theorem setQueue_agenda (s : State) (k : Nat) (x) : (s.setQueue k x).agenda = s.agenda := rfl
@[simp] theorem setQueue_cur (s : State) (k : Nat) (x) : (s.setQueue k x).cur = s.cur := rfl
@[simp] theorem setQueue_pair (s : State) (k : Nat) (x) : (s.setQueue k x).pair = s.pair := rfl
@[simp] theorem setQueue_free (s : State) (k : Nat) (x) : (s.setQueue k x).free = s.free := rfl
@[simp] theorem setQueue_next (s : State) (k : Nat) (x) : (s.setQueue k x).next = s.next := rfl
@[simp] theorem setQueue_groups (s : State) (k : Nat) (x) : (s.setQueue k x).groups = s.groups := rfl
@[simp] theorem setQueue_acc (s : State) (k : Nat) (x) : (s.setQueue k x).acc = s.acc := rfl
@[simp] theorem setQueue_mats (s : State) (k : Nat) (x) : (s.setQueue k x).mats = s.mats := rfl
@[simp] theorem setQueue_copies (s : State) (k : Nat) (x) : (s.setQueue k x).copies = s.copies := rfl
@[simp] theorem setQueue_colls (s : State) (k : Nat) (x) : (s.setQueue k x).colls = s.colls := rfl
@[simp] theorem setQueue_teams (s : State) (k : Nat) (x) : (s.setQueue k x).teams = s.teams := rfl
@[simp] theorem setQueue_kernels (s : State) (k : Nat) (x) : (s.setQueue k x).kernels = s.kernels := rfl
@[simp] theorem setQueue_mem (s : State) (k : Nat) (x) : (s.setQueue k x).mem = s.mem := rfl
@[simp] theorem setQueue_sram (s : State) (k : Nat) (x) : (s.setQueue k x).sram = s.sram := rfl
@[simp] theorem setQueue_tile (s : State) (k : Nat) (x) : (s.setQueue k x).tile = s.tile := rfl
@[simp] theorem setQueue_poison (s : State) (k : Nat) (x) : (s.setQueue k x).poison = s.poison := rfl
@[simp] theorem setQueue_sramPoison (s : State) (k : Nat) (x) : (s.setQueue k x).sramPoison = s.sramPoison := rfl
@[simp] theorem setQueue_tilePoison (s : State) (k : Nat) (x) : (s.setQueue k x).tilePoison = s.tilePoison := rfl
@[simp] theorem setQueue_l1 (s : State) (k : Nat) (x) : (s.setQueue k x).l1 = s.l1 := rfl
@[simp] theorem setQueue_tlb (s : State) (k : Nat) (x) : (s.setQueue k x).tlb = s.tlb := rfl
@[simp] theorem setQueue_l2 (s : State) (k : Nat) (x) : (s.setQueue k x).l2 = s.l2 := rfl
@[simp] theorem setQueue_cores (s : State) (k : Nat) (x) : (s.setQueue k x).cores = s.cores := rfl
@[simp] theorem setQueue_stks (s : State) (k : Nat) (x) : (s.setQueue k x).stks = s.stks := rfl
@[simp] theorem setQueue_dies (s : State) (k : Nat) (x) : (s.setQueue k x).dies = s.dies := rfl
@[simp] theorem setQueue_regEvents (s : State) (k : Nat) (x) : (s.setQueue k x).regEvents = s.regEvents := rfl
@[simp] theorem setQueue_matStall (s : State) (k : Nat) (x) : (s.setQueue k x).matStall = s.matStall := rfl
@[simp] theorem setQueue_allow (s : State) (k : Nat) (x) : (s.setQueue k x).allow = s.allow := rfl
@[simp] theorem setQueue_ctxs (s : State) (k : Nat) (x) : (s.setQueue k x).ctxs = s.ctxs := rfl
@[simp] theorem setQueue_sets (s : State) (k : Nat) (x) : (s.setQueue k x).sets = s.sets := rfl
@[simp] theorem setQueue_lastDie (s : State) (k : Nat) (x) : (s.setQueue k x).lastDie = s.lastDie := rfl
@[simp] theorem setQueue_rot (s : State) (k : Nat) (x) : (s.setQueue k x).rot = s.rot := rfl
@[simp] theorem setQueue_headClock (s : State) (k : Nat) (x) : (s.setQueue k x).headClock = s.headClock := rfl
@[simp] theorem setQueue_replies (s : State) (k : Nat) (x) : (s.setQueue k x).replies = s.replies := rfl
@[simp] theorem setQueue_dbarHeld (s : State) (k : Nat) (x) : (s.setQueue k x).dbarHeld = s.dbarHeld := rfl
@[simp] theorem setQueue_rings (s : State) (k : Nat) (x) : (s.setQueue k x).rings = s.rings := rfl
@[simp] theorem setQueue_invals (s : State) (k : Nat) (x) : (s.setQueue k x).invals = s.invals := rfl
@[simp] theorem setQueue_migrs (s : State) (k : Nat) (x) : (s.setQueue k x).migrs = s.migrs := rfl
@[simp] theorem setQueue_links (s : State) (k : Nat) (x) : (s.setQueue k x).links = s.links := rfl
@[simp] theorem setQueue_heldFlits (s : State) (k : Nat) (x) : (s.setQueue k x).heldFlits = s.heldFlits := rfl
@[simp] theorem setQueue_routes (s : State) (k : Nat) (x) : (s.setQueue k x).routes = s.routes := rfl
@[simp] theorem setQueue_doms (s : State) (k : Nat) (x) : (s.setQueue k x).doms = s.doms := rfl
@[simp] theorem setQueue_parts (s : State) (k : Nat) (x) : (s.setQueue k x).parts = s.parts := rfl
@[simp] theorem setQueue_chans (s : State) (k : Nat) (x) : (s.setQueue k x).chans = s.chans := rfl
@[simp] theorem setQueue_vfs (s : State) (k : Nat) (x) : (s.setQueue k x).vfs = s.vfs := rfl
@[simp] theorem setQueue_errs (s : State) (k : Nat) (x) : (s.setQueue k x).errs = s.errs := rfl
@[simp] theorem setQueue_scores (s : State) (k : Nat) (x) : (s.setQueue k x).scores = s.scores := rfl
@[simp] theorem setQueue_cap (s : State) (k : Nat) (x) : (s.setQueue k x).cap = s.cap := rfl
@[simp] theorem setQueue_share (s : State) (k : Nat) (x) : (s.setQueue k x).share = s.share := rfl
@[simp] theorem setQueue_snpSeq (s : State) (k : Nat) (x) : (s.setQueue k x).snpSeq = s.snpSeq := rfl
@[simp] theorem setQueue_snpAddr (s : State) (k : Nat) (x) : (s.setQueue k x).snpAddr = s.snpAddr := rfl
@[simp] theorem setQueue_snap (s : State) (k : Nat) (x) : (s.setQueue k x).snap = s.snap := rfl
@[simp] theorem setQueue_log (s : State) (k : Nat) (x) : (s.setQueue k x).log = s.log := rfl
@[simp] theorem setQueue_logHeld (s : State) (k : Nat) (x) : (s.setQueue k x).logHeld = s.logHeld := rfl
@[simp] theorem setQueue_logSeq (s : State) (k : Nat) (x) : (s.setQueue k x).logSeq = s.logSeq := rfl
@[simp] theorem setQueue_rndKind (s : State) (k : Nat) (x) : (s.setQueue k x).rndKind = s.rndKind := rfl
@[simp] theorem setQueue_rndPhase (s : State) (k : Nat) (x) : (s.setQueue k x).rndPhase = s.rndPhase := rfl
@[simp] theorem setQueue_resets (s : State) (k : Nat) (x) : (s.setQueue k x).resets = s.resets := rfl
@[simp] theorem setQueue_expSeq (s : State) (k : Nat) (x) : (s.setQueue k x).expSeq = s.expSeq := rfl
@[simp] theorem setQueue_sweeps (s : State) (k : Nat) (x) : (s.setQueue k x).sweeps = s.sweeps := rfl
@[simp] theorem setQueue_touched (s : State) (k : Nat) (x) : (s.setQueue k x).touched = s.touched := rfl
@[simp] theorem setQueue_keys (s : State) (k : Nat) (x) : (s.setQueue k x).keys = s.keys := rfl
@[simp] theorem setQueue_keyIds (s : State) (k : Nat) (x) : (s.setQueue k x).keyIds = s.keyIds := rfl
@[simp] theorem setQueue_sealKey (s : State) (k : Nat) (x) : (s.setQueue k x).sealKey = s.sealKey := rfl
@[simp] theorem setQueue_stackCopy (s : State) (k : Nat) (x) : (s.setQueue k x).stackCopy = s.stackCopy := rfl
@[simp] theorem setQueue_outbox (s : State) (k : Nat) (x) : (s.setQueue k x).outbox = s.outbox := rfl
@[simp] theorem setQueue_irqs (s : State) (k : Nat) (x) : (s.setQueue k x).irqs = s.irqs := rfl

/-! ## setLink -/

@[simp] theorem setLink_coreSt (s : State) (k : Nat) (x) (j : Nat) : (s.setLink k x).coreSt j = s.coreSt j := rfl
@[simp] theorem setLink_stackSt (s : State) (k : Nat) (x) (j : Nat) : (s.setLink k x).stackSt j = s.stackSt j := rfl
@[simp] theorem setLink_dieSt (s : State) (k : Nat) (x) (j : Nat) : (s.setLink k x).dieSt j = s.dieSt j := rfl
@[simp] theorem setLink_ctx (s : State) (k : Nat) (x) (j : Nat) : (s.setLink k x).ctx j = s.ctx j := rfl
@[simp] theorem setLink_queue (s : State) (k : Nat) (x) (j : Nat) : (s.setLink k x).queue j = s.queue j := rfl
@[simp] theorem setLink_dom (s : State) (k : Nat) (x) (j : Nat) : (s.setLink k x).dom j = s.dom j := rfl
@[simp] theorem setLink_vf (s : State) (k : Nat) (x) (j : Nat) : (s.setLink k x).vf j = s.vf j := rfl
@[simp] theorem setLink_chan (s : State) (k : Nat) (x) (j : Nat) : (s.setLink k x).chan j = s.chan j := rfl
@[simp] theorem setLink_ring (s : State) (k : Nat) (x) (j : Nat) : (s.setLink k x).ring j = s.ring j := rfl
@[simp] theorem setLink_scoreOf (s : State) (k : Nat) (x) (j : Nat) : (s.setLink k x).scoreOf j = s.scoreOf j := rfl
@[simp] theorem setLink_kern (s : State) (k : Nat) (x) (j : Nat) : (s.setLink k x).kern j = s.kern j := rfl
@[simp] theorem setLink_team (s : State) (k : Nat) (x) (j : Nat) : (s.setLink k x).team j = s.team j := rfl
@[simp] theorem setLink_part (s : State) (k : Nat) (x) (j : Nat) : (s.setLink k x).part j = s.part j := rfl
@[simp] theorem setLink_agenda (s : State) (k : Nat) (x) : (s.setLink k x).agenda = s.agenda := rfl
@[simp] theorem setLink_cur (s : State) (k : Nat) (x) : (s.setLink k x).cur = s.cur := rfl
@[simp] theorem setLink_pair (s : State) (k : Nat) (x) : (s.setLink k x).pair = s.pair := rfl
@[simp] theorem setLink_free (s : State) (k : Nat) (x) : (s.setLink k x).free = s.free := rfl
@[simp] theorem setLink_next (s : State) (k : Nat) (x) : (s.setLink k x).next = s.next := rfl
@[simp] theorem setLink_groups (s : State) (k : Nat) (x) : (s.setLink k x).groups = s.groups := rfl
@[simp] theorem setLink_acc (s : State) (k : Nat) (x) : (s.setLink k x).acc = s.acc := rfl
@[simp] theorem setLink_mats (s : State) (k : Nat) (x) : (s.setLink k x).mats = s.mats := rfl
@[simp] theorem setLink_copies (s : State) (k : Nat) (x) : (s.setLink k x).copies = s.copies := rfl
@[simp] theorem setLink_colls (s : State) (k : Nat) (x) : (s.setLink k x).colls = s.colls := rfl
@[simp] theorem setLink_teams (s : State) (k : Nat) (x) : (s.setLink k x).teams = s.teams := rfl
@[simp] theorem setLink_kernels (s : State) (k : Nat) (x) : (s.setLink k x).kernels = s.kernels := rfl
@[simp] theorem setLink_mem (s : State) (k : Nat) (x) : (s.setLink k x).mem = s.mem := rfl
@[simp] theorem setLink_sram (s : State) (k : Nat) (x) : (s.setLink k x).sram = s.sram := rfl
@[simp] theorem setLink_tile (s : State) (k : Nat) (x) : (s.setLink k x).tile = s.tile := rfl
@[simp] theorem setLink_poison (s : State) (k : Nat) (x) : (s.setLink k x).poison = s.poison := rfl
@[simp] theorem setLink_sramPoison (s : State) (k : Nat) (x) : (s.setLink k x).sramPoison = s.sramPoison := rfl
@[simp] theorem setLink_tilePoison (s : State) (k : Nat) (x) : (s.setLink k x).tilePoison = s.tilePoison := rfl
@[simp] theorem setLink_l1 (s : State) (k : Nat) (x) : (s.setLink k x).l1 = s.l1 := rfl
@[simp] theorem setLink_tlb (s : State) (k : Nat) (x) : (s.setLink k x).tlb = s.tlb := rfl
@[simp] theorem setLink_l2 (s : State) (k : Nat) (x) : (s.setLink k x).l2 = s.l2 := rfl
@[simp] theorem setLink_cores (s : State) (k : Nat) (x) : (s.setLink k x).cores = s.cores := rfl
@[simp] theorem setLink_stks (s : State) (k : Nat) (x) : (s.setLink k x).stks = s.stks := rfl
@[simp] theorem setLink_dies (s : State) (k : Nat) (x) : (s.setLink k x).dies = s.dies := rfl
@[simp] theorem setLink_regEvents (s : State) (k : Nat) (x) : (s.setLink k x).regEvents = s.regEvents := rfl
@[simp] theorem setLink_matStall (s : State) (k : Nat) (x) : (s.setLink k x).matStall = s.matStall := rfl
@[simp] theorem setLink_allow (s : State) (k : Nat) (x) : (s.setLink k x).allow = s.allow := rfl
@[simp] theorem setLink_ctxs (s : State) (k : Nat) (x) : (s.setLink k x).ctxs = s.ctxs := rfl
@[simp] theorem setLink_queues (s : State) (k : Nat) (x) : (s.setLink k x).queues = s.queues := rfl
@[simp] theorem setLink_sets (s : State) (k : Nat) (x) : (s.setLink k x).sets = s.sets := rfl
@[simp] theorem setLink_lastDie (s : State) (k : Nat) (x) : (s.setLink k x).lastDie = s.lastDie := rfl
@[simp] theorem setLink_rot (s : State) (k : Nat) (x) : (s.setLink k x).rot = s.rot := rfl
@[simp] theorem setLink_headClock (s : State) (k : Nat) (x) : (s.setLink k x).headClock = s.headClock := rfl
@[simp] theorem setLink_replies (s : State) (k : Nat) (x) : (s.setLink k x).replies = s.replies := rfl
@[simp] theorem setLink_dbarHeld (s : State) (k : Nat) (x) : (s.setLink k x).dbarHeld = s.dbarHeld := rfl
@[simp] theorem setLink_rings (s : State) (k : Nat) (x) : (s.setLink k x).rings = s.rings := rfl
@[simp] theorem setLink_invals (s : State) (k : Nat) (x) : (s.setLink k x).invals = s.invals := rfl
@[simp] theorem setLink_migrs (s : State) (k : Nat) (x) : (s.setLink k x).migrs = s.migrs := rfl
@[simp] theorem setLink_heldFlits (s : State) (k : Nat) (x) : (s.setLink k x).heldFlits = s.heldFlits := rfl
@[simp] theorem setLink_routes (s : State) (k : Nat) (x) : (s.setLink k x).routes = s.routes := rfl
@[simp] theorem setLink_doms (s : State) (k : Nat) (x) : (s.setLink k x).doms = s.doms := rfl
@[simp] theorem setLink_parts (s : State) (k : Nat) (x) : (s.setLink k x).parts = s.parts := rfl
@[simp] theorem setLink_chans (s : State) (k : Nat) (x) : (s.setLink k x).chans = s.chans := rfl
@[simp] theorem setLink_vfs (s : State) (k : Nat) (x) : (s.setLink k x).vfs = s.vfs := rfl
@[simp] theorem setLink_errs (s : State) (k : Nat) (x) : (s.setLink k x).errs = s.errs := rfl
@[simp] theorem setLink_scores (s : State) (k : Nat) (x) : (s.setLink k x).scores = s.scores := rfl
@[simp] theorem setLink_cap (s : State) (k : Nat) (x) : (s.setLink k x).cap = s.cap := rfl
@[simp] theorem setLink_share (s : State) (k : Nat) (x) : (s.setLink k x).share = s.share := rfl
@[simp] theorem setLink_snpSeq (s : State) (k : Nat) (x) : (s.setLink k x).snpSeq = s.snpSeq := rfl
@[simp] theorem setLink_snpAddr (s : State) (k : Nat) (x) : (s.setLink k x).snpAddr = s.snpAddr := rfl
@[simp] theorem setLink_snap (s : State) (k : Nat) (x) : (s.setLink k x).snap = s.snap := rfl
@[simp] theorem setLink_log (s : State) (k : Nat) (x) : (s.setLink k x).log = s.log := rfl
@[simp] theorem setLink_logHeld (s : State) (k : Nat) (x) : (s.setLink k x).logHeld = s.logHeld := rfl
@[simp] theorem setLink_logSeq (s : State) (k : Nat) (x) : (s.setLink k x).logSeq = s.logSeq := rfl
@[simp] theorem setLink_rndKind (s : State) (k : Nat) (x) : (s.setLink k x).rndKind = s.rndKind := rfl
@[simp] theorem setLink_rndPhase (s : State) (k : Nat) (x) : (s.setLink k x).rndPhase = s.rndPhase := rfl
@[simp] theorem setLink_resets (s : State) (k : Nat) (x) : (s.setLink k x).resets = s.resets := rfl
@[simp] theorem setLink_expSeq (s : State) (k : Nat) (x) : (s.setLink k x).expSeq = s.expSeq := rfl
@[simp] theorem setLink_sweeps (s : State) (k : Nat) (x) : (s.setLink k x).sweeps = s.sweeps := rfl
@[simp] theorem setLink_touched (s : State) (k : Nat) (x) : (s.setLink k x).touched = s.touched := rfl
@[simp] theorem setLink_keys (s : State) (k : Nat) (x) : (s.setLink k x).keys = s.keys := rfl
@[simp] theorem setLink_keyIds (s : State) (k : Nat) (x) : (s.setLink k x).keyIds = s.keyIds := rfl
@[simp] theorem setLink_sealKey (s : State) (k : Nat) (x) : (s.setLink k x).sealKey = s.sealKey := rfl
@[simp] theorem setLink_stackCopy (s : State) (k : Nat) (x) : (s.setLink k x).stackCopy = s.stackCopy := rfl
@[simp] theorem setLink_outbox (s : State) (k : Nat) (x) : (s.setLink k x).outbox = s.outbox := rfl
@[simp] theorem setLink_irqs (s : State) (k : Nat) (x) : (s.setLink k x).irqs = s.irqs := rfl

/-! ## setDom -/

@[simp] theorem setDom_coreSt (s : State) (k : Nat) (x) (j : Nat) : (s.setDom k x).coreSt j = s.coreSt j := rfl
@[simp] theorem setDom_stackSt (s : State) (k : Nat) (x) (j : Nat) : (s.setDom k x).stackSt j = s.stackSt j := rfl
@[simp] theorem setDom_dieSt (s : State) (k : Nat) (x) (j : Nat) : (s.setDom k x).dieSt j = s.dieSt j := rfl
@[simp] theorem setDom_ctx (s : State) (k : Nat) (x) (j : Nat) : (s.setDom k x).ctx j = s.ctx j := rfl
@[simp] theorem setDom_queue (s : State) (k : Nat) (x) (j : Nat) : (s.setDom k x).queue j = s.queue j := rfl
@[simp] theorem setDom_link (s : State) (k : Nat) (x) (j : Nat) : (s.setDom k x).link j = s.link j := rfl
@[simp] theorem setDom_vf (s : State) (k : Nat) (x) (j : Nat) : (s.setDom k x).vf j = s.vf j := rfl
@[simp] theorem setDom_chan (s : State) (k : Nat) (x) (j : Nat) : (s.setDom k x).chan j = s.chan j := rfl
@[simp] theorem setDom_ring (s : State) (k : Nat) (x) (j : Nat) : (s.setDom k x).ring j = s.ring j := rfl
@[simp] theorem setDom_scoreOf (s : State) (k : Nat) (x) (j : Nat) : (s.setDom k x).scoreOf j = s.scoreOf j := rfl
@[simp] theorem setDom_kern (s : State) (k : Nat) (x) (j : Nat) : (s.setDom k x).kern j = s.kern j := rfl
@[simp] theorem setDom_team (s : State) (k : Nat) (x) (j : Nat) : (s.setDom k x).team j = s.team j := rfl
@[simp] theorem setDom_part (s : State) (k : Nat) (x) (j : Nat) : (s.setDom k x).part j = s.part j := rfl
@[simp] theorem setDom_agenda (s : State) (k : Nat) (x) : (s.setDom k x).agenda = s.agenda := rfl
@[simp] theorem setDom_cur (s : State) (k : Nat) (x) : (s.setDom k x).cur = s.cur := rfl
@[simp] theorem setDom_pair (s : State) (k : Nat) (x) : (s.setDom k x).pair = s.pair := rfl
@[simp] theorem setDom_free (s : State) (k : Nat) (x) : (s.setDom k x).free = s.free := rfl
@[simp] theorem setDom_next (s : State) (k : Nat) (x) : (s.setDom k x).next = s.next := rfl
@[simp] theorem setDom_groups (s : State) (k : Nat) (x) : (s.setDom k x).groups = s.groups := rfl
@[simp] theorem setDom_acc (s : State) (k : Nat) (x) : (s.setDom k x).acc = s.acc := rfl
@[simp] theorem setDom_mats (s : State) (k : Nat) (x) : (s.setDom k x).mats = s.mats := rfl
@[simp] theorem setDom_copies (s : State) (k : Nat) (x) : (s.setDom k x).copies = s.copies := rfl
@[simp] theorem setDom_colls (s : State) (k : Nat) (x) : (s.setDom k x).colls = s.colls := rfl
@[simp] theorem setDom_teams (s : State) (k : Nat) (x) : (s.setDom k x).teams = s.teams := rfl
@[simp] theorem setDom_kernels (s : State) (k : Nat) (x) : (s.setDom k x).kernels = s.kernels := rfl
@[simp] theorem setDom_mem (s : State) (k : Nat) (x) : (s.setDom k x).mem = s.mem := rfl
@[simp] theorem setDom_sram (s : State) (k : Nat) (x) : (s.setDom k x).sram = s.sram := rfl
@[simp] theorem setDom_tile (s : State) (k : Nat) (x) : (s.setDom k x).tile = s.tile := rfl
@[simp] theorem setDom_poison (s : State) (k : Nat) (x) : (s.setDom k x).poison = s.poison := rfl
@[simp] theorem setDom_sramPoison (s : State) (k : Nat) (x) : (s.setDom k x).sramPoison = s.sramPoison := rfl
@[simp] theorem setDom_tilePoison (s : State) (k : Nat) (x) : (s.setDom k x).tilePoison = s.tilePoison := rfl
@[simp] theorem setDom_l1 (s : State) (k : Nat) (x) : (s.setDom k x).l1 = s.l1 := rfl
@[simp] theorem setDom_tlb (s : State) (k : Nat) (x) : (s.setDom k x).tlb = s.tlb := rfl
@[simp] theorem setDom_l2 (s : State) (k : Nat) (x) : (s.setDom k x).l2 = s.l2 := rfl
@[simp] theorem setDom_cores (s : State) (k : Nat) (x) : (s.setDom k x).cores = s.cores := rfl
@[simp] theorem setDom_stks (s : State) (k : Nat) (x) : (s.setDom k x).stks = s.stks := rfl
@[simp] theorem setDom_dies (s : State) (k : Nat) (x) : (s.setDom k x).dies = s.dies := rfl
@[simp] theorem setDom_regEvents (s : State) (k : Nat) (x) : (s.setDom k x).regEvents = s.regEvents := rfl
@[simp] theorem setDom_matStall (s : State) (k : Nat) (x) : (s.setDom k x).matStall = s.matStall := rfl
@[simp] theorem setDom_allow (s : State) (k : Nat) (x) : (s.setDom k x).allow = s.allow := rfl
@[simp] theorem setDom_ctxs (s : State) (k : Nat) (x) : (s.setDom k x).ctxs = s.ctxs := rfl
@[simp] theorem setDom_queues (s : State) (k : Nat) (x) : (s.setDom k x).queues = s.queues := rfl
@[simp] theorem setDom_sets (s : State) (k : Nat) (x) : (s.setDom k x).sets = s.sets := rfl
@[simp] theorem setDom_lastDie (s : State) (k : Nat) (x) : (s.setDom k x).lastDie = s.lastDie := rfl
@[simp] theorem setDom_rot (s : State) (k : Nat) (x) : (s.setDom k x).rot = s.rot := rfl
@[simp] theorem setDom_headClock (s : State) (k : Nat) (x) : (s.setDom k x).headClock = s.headClock := rfl
@[simp] theorem setDom_replies (s : State) (k : Nat) (x) : (s.setDom k x).replies = s.replies := rfl
@[simp] theorem setDom_dbarHeld (s : State) (k : Nat) (x) : (s.setDom k x).dbarHeld = s.dbarHeld := rfl
@[simp] theorem setDom_rings (s : State) (k : Nat) (x) : (s.setDom k x).rings = s.rings := rfl
@[simp] theorem setDom_invals (s : State) (k : Nat) (x) : (s.setDom k x).invals = s.invals := rfl
@[simp] theorem setDom_migrs (s : State) (k : Nat) (x) : (s.setDom k x).migrs = s.migrs := rfl
@[simp] theorem setDom_links (s : State) (k : Nat) (x) : (s.setDom k x).links = s.links := rfl
@[simp] theorem setDom_heldFlits (s : State) (k : Nat) (x) : (s.setDom k x).heldFlits = s.heldFlits := rfl
@[simp] theorem setDom_routes (s : State) (k : Nat) (x) : (s.setDom k x).routes = s.routes := rfl
@[simp] theorem setDom_parts (s : State) (k : Nat) (x) : (s.setDom k x).parts = s.parts := rfl
@[simp] theorem setDom_chans (s : State) (k : Nat) (x) : (s.setDom k x).chans = s.chans := rfl
@[simp] theorem setDom_vfs (s : State) (k : Nat) (x) : (s.setDom k x).vfs = s.vfs := rfl
@[simp] theorem setDom_errs (s : State) (k : Nat) (x) : (s.setDom k x).errs = s.errs := rfl
@[simp] theorem setDom_scores (s : State) (k : Nat) (x) : (s.setDom k x).scores = s.scores := rfl
@[simp] theorem setDom_cap (s : State) (k : Nat) (x) : (s.setDom k x).cap = s.cap := rfl
@[simp] theorem setDom_share (s : State) (k : Nat) (x) : (s.setDom k x).share = s.share := rfl
@[simp] theorem setDom_snpSeq (s : State) (k : Nat) (x) : (s.setDom k x).snpSeq = s.snpSeq := rfl
@[simp] theorem setDom_snpAddr (s : State) (k : Nat) (x) : (s.setDom k x).snpAddr = s.snpAddr := rfl
@[simp] theorem setDom_snap (s : State) (k : Nat) (x) : (s.setDom k x).snap = s.snap := rfl
@[simp] theorem setDom_log (s : State) (k : Nat) (x) : (s.setDom k x).log = s.log := rfl
@[simp] theorem setDom_logHeld (s : State) (k : Nat) (x) : (s.setDom k x).logHeld = s.logHeld := rfl
@[simp] theorem setDom_logSeq (s : State) (k : Nat) (x) : (s.setDom k x).logSeq = s.logSeq := rfl
@[simp] theorem setDom_rndKind (s : State) (k : Nat) (x) : (s.setDom k x).rndKind = s.rndKind := rfl
@[simp] theorem setDom_rndPhase (s : State) (k : Nat) (x) : (s.setDom k x).rndPhase = s.rndPhase := rfl
@[simp] theorem setDom_resets (s : State) (k : Nat) (x) : (s.setDom k x).resets = s.resets := rfl
@[simp] theorem setDom_expSeq (s : State) (k : Nat) (x) : (s.setDom k x).expSeq = s.expSeq := rfl
@[simp] theorem setDom_sweeps (s : State) (k : Nat) (x) : (s.setDom k x).sweeps = s.sweeps := rfl
@[simp] theorem setDom_touched (s : State) (k : Nat) (x) : (s.setDom k x).touched = s.touched := rfl
@[simp] theorem setDom_keys (s : State) (k : Nat) (x) : (s.setDom k x).keys = s.keys := rfl
@[simp] theorem setDom_keyIds (s : State) (k : Nat) (x) : (s.setDom k x).keyIds = s.keyIds := rfl
@[simp] theorem setDom_sealKey (s : State) (k : Nat) (x) : (s.setDom k x).sealKey = s.sealKey := rfl
@[simp] theorem setDom_stackCopy (s : State) (k : Nat) (x) : (s.setDom k x).stackCopy = s.stackCopy := rfl
@[simp] theorem setDom_outbox (s : State) (k : Nat) (x) : (s.setDom k x).outbox = s.outbox := rfl
@[simp] theorem setDom_irqs (s : State) (k : Nat) (x) : (s.setDom k x).irqs = s.irqs := rfl

/-! ## setVf -/

@[simp] theorem setVf_coreSt (s : State) (k : Nat) (x) (j : Nat) : (s.setVf k x).coreSt j = s.coreSt j := rfl
@[simp] theorem setVf_stackSt (s : State) (k : Nat) (x) (j : Nat) : (s.setVf k x).stackSt j = s.stackSt j := rfl
@[simp] theorem setVf_dieSt (s : State) (k : Nat) (x) (j : Nat) : (s.setVf k x).dieSt j = s.dieSt j := rfl
@[simp] theorem setVf_ctx (s : State) (k : Nat) (x) (j : Nat) : (s.setVf k x).ctx j = s.ctx j := rfl
@[simp] theorem setVf_queue (s : State) (k : Nat) (x) (j : Nat) : (s.setVf k x).queue j = s.queue j := rfl
@[simp] theorem setVf_link (s : State) (k : Nat) (x) (j : Nat) : (s.setVf k x).link j = s.link j := rfl
@[simp] theorem setVf_dom (s : State) (k : Nat) (x) (j : Nat) : (s.setVf k x).dom j = s.dom j := rfl
@[simp] theorem setVf_chan (s : State) (k : Nat) (x) (j : Nat) : (s.setVf k x).chan j = s.chan j := rfl
@[simp] theorem setVf_ring (s : State) (k : Nat) (x) (j : Nat) : (s.setVf k x).ring j = s.ring j := rfl
@[simp] theorem setVf_scoreOf (s : State) (k : Nat) (x) (j : Nat) : (s.setVf k x).scoreOf j = s.scoreOf j := rfl
@[simp] theorem setVf_kern (s : State) (k : Nat) (x) (j : Nat) : (s.setVf k x).kern j = s.kern j := rfl
@[simp] theorem setVf_team (s : State) (k : Nat) (x) (j : Nat) : (s.setVf k x).team j = s.team j := rfl
@[simp] theorem setVf_part (s : State) (k : Nat) (x) (j : Nat) : (s.setVf k x).part j = s.part j := rfl
@[simp] theorem setVf_agenda (s : State) (k : Nat) (x) : (s.setVf k x).agenda = s.agenda := rfl
@[simp] theorem setVf_cur (s : State) (k : Nat) (x) : (s.setVf k x).cur = s.cur := rfl
@[simp] theorem setVf_pair (s : State) (k : Nat) (x) : (s.setVf k x).pair = s.pair := rfl
@[simp] theorem setVf_free (s : State) (k : Nat) (x) : (s.setVf k x).free = s.free := rfl
@[simp] theorem setVf_next (s : State) (k : Nat) (x) : (s.setVf k x).next = s.next := rfl
@[simp] theorem setVf_groups (s : State) (k : Nat) (x) : (s.setVf k x).groups = s.groups := rfl
@[simp] theorem setVf_acc (s : State) (k : Nat) (x) : (s.setVf k x).acc = s.acc := rfl
@[simp] theorem setVf_mats (s : State) (k : Nat) (x) : (s.setVf k x).mats = s.mats := rfl
@[simp] theorem setVf_copies (s : State) (k : Nat) (x) : (s.setVf k x).copies = s.copies := rfl
@[simp] theorem setVf_colls (s : State) (k : Nat) (x) : (s.setVf k x).colls = s.colls := rfl
@[simp] theorem setVf_teams (s : State) (k : Nat) (x) : (s.setVf k x).teams = s.teams := rfl
@[simp] theorem setVf_kernels (s : State) (k : Nat) (x) : (s.setVf k x).kernels = s.kernels := rfl
@[simp] theorem setVf_mem (s : State) (k : Nat) (x) : (s.setVf k x).mem = s.mem := rfl
@[simp] theorem setVf_sram (s : State) (k : Nat) (x) : (s.setVf k x).sram = s.sram := rfl
@[simp] theorem setVf_tile (s : State) (k : Nat) (x) : (s.setVf k x).tile = s.tile := rfl
@[simp] theorem setVf_poison (s : State) (k : Nat) (x) : (s.setVf k x).poison = s.poison := rfl
@[simp] theorem setVf_sramPoison (s : State) (k : Nat) (x) : (s.setVf k x).sramPoison = s.sramPoison := rfl
@[simp] theorem setVf_tilePoison (s : State) (k : Nat) (x) : (s.setVf k x).tilePoison = s.tilePoison := rfl
@[simp] theorem setVf_l1 (s : State) (k : Nat) (x) : (s.setVf k x).l1 = s.l1 := rfl
@[simp] theorem setVf_tlb (s : State) (k : Nat) (x) : (s.setVf k x).tlb = s.tlb := rfl
@[simp] theorem setVf_l2 (s : State) (k : Nat) (x) : (s.setVf k x).l2 = s.l2 := rfl
@[simp] theorem setVf_cores (s : State) (k : Nat) (x) : (s.setVf k x).cores = s.cores := rfl
@[simp] theorem setVf_stks (s : State) (k : Nat) (x) : (s.setVf k x).stks = s.stks := rfl
@[simp] theorem setVf_dies (s : State) (k : Nat) (x) : (s.setVf k x).dies = s.dies := rfl
@[simp] theorem setVf_regEvents (s : State) (k : Nat) (x) : (s.setVf k x).regEvents = s.regEvents := rfl
@[simp] theorem setVf_matStall (s : State) (k : Nat) (x) : (s.setVf k x).matStall = s.matStall := rfl
@[simp] theorem setVf_allow (s : State) (k : Nat) (x) : (s.setVf k x).allow = s.allow := rfl
@[simp] theorem setVf_ctxs (s : State) (k : Nat) (x) : (s.setVf k x).ctxs = s.ctxs := rfl
@[simp] theorem setVf_queues (s : State) (k : Nat) (x) : (s.setVf k x).queues = s.queues := rfl
@[simp] theorem setVf_sets (s : State) (k : Nat) (x) : (s.setVf k x).sets = s.sets := rfl
@[simp] theorem setVf_lastDie (s : State) (k : Nat) (x) : (s.setVf k x).lastDie = s.lastDie := rfl
@[simp] theorem setVf_rot (s : State) (k : Nat) (x) : (s.setVf k x).rot = s.rot := rfl
@[simp] theorem setVf_headClock (s : State) (k : Nat) (x) : (s.setVf k x).headClock = s.headClock := rfl
@[simp] theorem setVf_replies (s : State) (k : Nat) (x) : (s.setVf k x).replies = s.replies := rfl
@[simp] theorem setVf_dbarHeld (s : State) (k : Nat) (x) : (s.setVf k x).dbarHeld = s.dbarHeld := rfl
@[simp] theorem setVf_rings (s : State) (k : Nat) (x) : (s.setVf k x).rings = s.rings := rfl
@[simp] theorem setVf_invals (s : State) (k : Nat) (x) : (s.setVf k x).invals = s.invals := rfl
@[simp] theorem setVf_migrs (s : State) (k : Nat) (x) : (s.setVf k x).migrs = s.migrs := rfl
@[simp] theorem setVf_links (s : State) (k : Nat) (x) : (s.setVf k x).links = s.links := rfl
@[simp] theorem setVf_heldFlits (s : State) (k : Nat) (x) : (s.setVf k x).heldFlits = s.heldFlits := rfl
@[simp] theorem setVf_routes (s : State) (k : Nat) (x) : (s.setVf k x).routes = s.routes := rfl
@[simp] theorem setVf_doms (s : State) (k : Nat) (x) : (s.setVf k x).doms = s.doms := rfl
@[simp] theorem setVf_parts (s : State) (k : Nat) (x) : (s.setVf k x).parts = s.parts := rfl
@[simp] theorem setVf_chans (s : State) (k : Nat) (x) : (s.setVf k x).chans = s.chans := rfl
@[simp] theorem setVf_errs (s : State) (k : Nat) (x) : (s.setVf k x).errs = s.errs := rfl
@[simp] theorem setVf_scores (s : State) (k : Nat) (x) : (s.setVf k x).scores = s.scores := rfl
@[simp] theorem setVf_cap (s : State) (k : Nat) (x) : (s.setVf k x).cap = s.cap := rfl
@[simp] theorem setVf_share (s : State) (k : Nat) (x) : (s.setVf k x).share = s.share := rfl
@[simp] theorem setVf_snpSeq (s : State) (k : Nat) (x) : (s.setVf k x).snpSeq = s.snpSeq := rfl
@[simp] theorem setVf_snpAddr (s : State) (k : Nat) (x) : (s.setVf k x).snpAddr = s.snpAddr := rfl
@[simp] theorem setVf_snap (s : State) (k : Nat) (x) : (s.setVf k x).snap = s.snap := rfl
@[simp] theorem setVf_log (s : State) (k : Nat) (x) : (s.setVf k x).log = s.log := rfl
@[simp] theorem setVf_logHeld (s : State) (k : Nat) (x) : (s.setVf k x).logHeld = s.logHeld := rfl
@[simp] theorem setVf_logSeq (s : State) (k : Nat) (x) : (s.setVf k x).logSeq = s.logSeq := rfl
@[simp] theorem setVf_rndKind (s : State) (k : Nat) (x) : (s.setVf k x).rndKind = s.rndKind := rfl
@[simp] theorem setVf_rndPhase (s : State) (k : Nat) (x) : (s.setVf k x).rndPhase = s.rndPhase := rfl
@[simp] theorem setVf_resets (s : State) (k : Nat) (x) : (s.setVf k x).resets = s.resets := rfl
@[simp] theorem setVf_expSeq (s : State) (k : Nat) (x) : (s.setVf k x).expSeq = s.expSeq := rfl
@[simp] theorem setVf_sweeps (s : State) (k : Nat) (x) : (s.setVf k x).sweeps = s.sweeps := rfl
@[simp] theorem setVf_touched (s : State) (k : Nat) (x) : (s.setVf k x).touched = s.touched := rfl
@[simp] theorem setVf_keys (s : State) (k : Nat) (x) : (s.setVf k x).keys = s.keys := rfl
@[simp] theorem setVf_keyIds (s : State) (k : Nat) (x) : (s.setVf k x).keyIds = s.keyIds := rfl
@[simp] theorem setVf_sealKey (s : State) (k : Nat) (x) : (s.setVf k x).sealKey = s.sealKey := rfl
@[simp] theorem setVf_stackCopy (s : State) (k : Nat) (x) : (s.setVf k x).stackCopy = s.stackCopy := rfl
@[simp] theorem setVf_outbox (s : State) (k : Nat) (x) : (s.setVf k x).outbox = s.outbox := rfl
@[simp] theorem setVf_irqs (s : State) (k : Nat) (x) : (s.setVf k x).irqs = s.irqs := rfl

/-! ## setChan -/

@[simp] theorem setChan_coreSt (s : State) (k : Nat) (x) (j : Nat) : (s.setChan k x).coreSt j = s.coreSt j := rfl
@[simp] theorem setChan_stackSt (s : State) (k : Nat) (x) (j : Nat) : (s.setChan k x).stackSt j = s.stackSt j := rfl
@[simp] theorem setChan_dieSt (s : State) (k : Nat) (x) (j : Nat) : (s.setChan k x).dieSt j = s.dieSt j := rfl
@[simp] theorem setChan_ctx (s : State) (k : Nat) (x) (j : Nat) : (s.setChan k x).ctx j = s.ctx j := rfl
@[simp] theorem setChan_queue (s : State) (k : Nat) (x) (j : Nat) : (s.setChan k x).queue j = s.queue j := rfl
@[simp] theorem setChan_link (s : State) (k : Nat) (x) (j : Nat) : (s.setChan k x).link j = s.link j := rfl
@[simp] theorem setChan_dom (s : State) (k : Nat) (x) (j : Nat) : (s.setChan k x).dom j = s.dom j := rfl
@[simp] theorem setChan_vf (s : State) (k : Nat) (x) (j : Nat) : (s.setChan k x).vf j = s.vf j := rfl
@[simp] theorem setChan_ring (s : State) (k : Nat) (x) (j : Nat) : (s.setChan k x).ring j = s.ring j := rfl
@[simp] theorem setChan_scoreOf (s : State) (k : Nat) (x) (j : Nat) : (s.setChan k x).scoreOf j = s.scoreOf j := rfl
@[simp] theorem setChan_kern (s : State) (k : Nat) (x) (j : Nat) : (s.setChan k x).kern j = s.kern j := rfl
@[simp] theorem setChan_team (s : State) (k : Nat) (x) (j : Nat) : (s.setChan k x).team j = s.team j := rfl
@[simp] theorem setChan_part (s : State) (k : Nat) (x) (j : Nat) : (s.setChan k x).part j = s.part j := rfl
@[simp] theorem setChan_agenda (s : State) (k : Nat) (x) : (s.setChan k x).agenda = s.agenda := rfl
@[simp] theorem setChan_cur (s : State) (k : Nat) (x) : (s.setChan k x).cur = s.cur := rfl
@[simp] theorem setChan_pair (s : State) (k : Nat) (x) : (s.setChan k x).pair = s.pair := rfl
@[simp] theorem setChan_free (s : State) (k : Nat) (x) : (s.setChan k x).free = s.free := rfl
@[simp] theorem setChan_next (s : State) (k : Nat) (x) : (s.setChan k x).next = s.next := rfl
@[simp] theorem setChan_groups (s : State) (k : Nat) (x) : (s.setChan k x).groups = s.groups := rfl
@[simp] theorem setChan_acc (s : State) (k : Nat) (x) : (s.setChan k x).acc = s.acc := rfl
@[simp] theorem setChan_mats (s : State) (k : Nat) (x) : (s.setChan k x).mats = s.mats := rfl
@[simp] theorem setChan_copies (s : State) (k : Nat) (x) : (s.setChan k x).copies = s.copies := rfl
@[simp] theorem setChan_colls (s : State) (k : Nat) (x) : (s.setChan k x).colls = s.colls := rfl
@[simp] theorem setChan_teams (s : State) (k : Nat) (x) : (s.setChan k x).teams = s.teams := rfl
@[simp] theorem setChan_kernels (s : State) (k : Nat) (x) : (s.setChan k x).kernels = s.kernels := rfl
@[simp] theorem setChan_mem (s : State) (k : Nat) (x) : (s.setChan k x).mem = s.mem := rfl
@[simp] theorem setChan_sram (s : State) (k : Nat) (x) : (s.setChan k x).sram = s.sram := rfl
@[simp] theorem setChan_tile (s : State) (k : Nat) (x) : (s.setChan k x).tile = s.tile := rfl
@[simp] theorem setChan_poison (s : State) (k : Nat) (x) : (s.setChan k x).poison = s.poison := rfl
@[simp] theorem setChan_sramPoison (s : State) (k : Nat) (x) : (s.setChan k x).sramPoison = s.sramPoison := rfl
@[simp] theorem setChan_tilePoison (s : State) (k : Nat) (x) : (s.setChan k x).tilePoison = s.tilePoison := rfl
@[simp] theorem setChan_l1 (s : State) (k : Nat) (x) : (s.setChan k x).l1 = s.l1 := rfl
@[simp] theorem setChan_tlb (s : State) (k : Nat) (x) : (s.setChan k x).tlb = s.tlb := rfl
@[simp] theorem setChan_l2 (s : State) (k : Nat) (x) : (s.setChan k x).l2 = s.l2 := rfl
@[simp] theorem setChan_cores (s : State) (k : Nat) (x) : (s.setChan k x).cores = s.cores := rfl
@[simp] theorem setChan_stks (s : State) (k : Nat) (x) : (s.setChan k x).stks = s.stks := rfl
@[simp] theorem setChan_dies (s : State) (k : Nat) (x) : (s.setChan k x).dies = s.dies := rfl
@[simp] theorem setChan_regEvents (s : State) (k : Nat) (x) : (s.setChan k x).regEvents = s.regEvents := rfl
@[simp] theorem setChan_matStall (s : State) (k : Nat) (x) : (s.setChan k x).matStall = s.matStall := rfl
@[simp] theorem setChan_allow (s : State) (k : Nat) (x) : (s.setChan k x).allow = s.allow := rfl
@[simp] theorem setChan_ctxs (s : State) (k : Nat) (x) : (s.setChan k x).ctxs = s.ctxs := rfl
@[simp] theorem setChan_queues (s : State) (k : Nat) (x) : (s.setChan k x).queues = s.queues := rfl
@[simp] theorem setChan_sets (s : State) (k : Nat) (x) : (s.setChan k x).sets = s.sets := rfl
@[simp] theorem setChan_lastDie (s : State) (k : Nat) (x) : (s.setChan k x).lastDie = s.lastDie := rfl
@[simp] theorem setChan_rot (s : State) (k : Nat) (x) : (s.setChan k x).rot = s.rot := rfl
@[simp] theorem setChan_headClock (s : State) (k : Nat) (x) : (s.setChan k x).headClock = s.headClock := rfl
@[simp] theorem setChan_replies (s : State) (k : Nat) (x) : (s.setChan k x).replies = s.replies := rfl
@[simp] theorem setChan_dbarHeld (s : State) (k : Nat) (x) : (s.setChan k x).dbarHeld = s.dbarHeld := rfl
@[simp] theorem setChan_rings (s : State) (k : Nat) (x) : (s.setChan k x).rings = s.rings := rfl
@[simp] theorem setChan_invals (s : State) (k : Nat) (x) : (s.setChan k x).invals = s.invals := rfl
@[simp] theorem setChan_migrs (s : State) (k : Nat) (x) : (s.setChan k x).migrs = s.migrs := rfl
@[simp] theorem setChan_links (s : State) (k : Nat) (x) : (s.setChan k x).links = s.links := rfl
@[simp] theorem setChan_heldFlits (s : State) (k : Nat) (x) : (s.setChan k x).heldFlits = s.heldFlits := rfl
@[simp] theorem setChan_routes (s : State) (k : Nat) (x) : (s.setChan k x).routes = s.routes := rfl
@[simp] theorem setChan_doms (s : State) (k : Nat) (x) : (s.setChan k x).doms = s.doms := rfl
@[simp] theorem setChan_parts (s : State) (k : Nat) (x) : (s.setChan k x).parts = s.parts := rfl
@[simp] theorem setChan_vfs (s : State) (k : Nat) (x) : (s.setChan k x).vfs = s.vfs := rfl
@[simp] theorem setChan_errs (s : State) (k : Nat) (x) : (s.setChan k x).errs = s.errs := rfl
@[simp] theorem setChan_scores (s : State) (k : Nat) (x) : (s.setChan k x).scores = s.scores := rfl
@[simp] theorem setChan_cap (s : State) (k : Nat) (x) : (s.setChan k x).cap = s.cap := rfl
@[simp] theorem setChan_share (s : State) (k : Nat) (x) : (s.setChan k x).share = s.share := rfl
@[simp] theorem setChan_snpSeq (s : State) (k : Nat) (x) : (s.setChan k x).snpSeq = s.snpSeq := rfl
@[simp] theorem setChan_snpAddr (s : State) (k : Nat) (x) : (s.setChan k x).snpAddr = s.snpAddr := rfl
@[simp] theorem setChan_snap (s : State) (k : Nat) (x) : (s.setChan k x).snap = s.snap := rfl
@[simp] theorem setChan_log (s : State) (k : Nat) (x) : (s.setChan k x).log = s.log := rfl
@[simp] theorem setChan_logHeld (s : State) (k : Nat) (x) : (s.setChan k x).logHeld = s.logHeld := rfl
@[simp] theorem setChan_logSeq (s : State) (k : Nat) (x) : (s.setChan k x).logSeq = s.logSeq := rfl
@[simp] theorem setChan_rndKind (s : State) (k : Nat) (x) : (s.setChan k x).rndKind = s.rndKind := rfl
@[simp] theorem setChan_rndPhase (s : State) (k : Nat) (x) : (s.setChan k x).rndPhase = s.rndPhase := rfl
@[simp] theorem setChan_resets (s : State) (k : Nat) (x) : (s.setChan k x).resets = s.resets := rfl
@[simp] theorem setChan_expSeq (s : State) (k : Nat) (x) : (s.setChan k x).expSeq = s.expSeq := rfl
@[simp] theorem setChan_sweeps (s : State) (k : Nat) (x) : (s.setChan k x).sweeps = s.sweeps := rfl
@[simp] theorem setChan_touched (s : State) (k : Nat) (x) : (s.setChan k x).touched = s.touched := rfl
@[simp] theorem setChan_keys (s : State) (k : Nat) (x) : (s.setChan k x).keys = s.keys := rfl
@[simp] theorem setChan_keyIds (s : State) (k : Nat) (x) : (s.setChan k x).keyIds = s.keyIds := rfl
@[simp] theorem setChan_sealKey (s : State) (k : Nat) (x) : (s.setChan k x).sealKey = s.sealKey := rfl
@[simp] theorem setChan_stackCopy (s : State) (k : Nat) (x) : (s.setChan k x).stackCopy = s.stackCopy := rfl
@[simp] theorem setChan_outbox (s : State) (k : Nat) (x) : (s.setChan k x).outbox = s.outbox := rfl
@[simp] theorem setChan_irqs (s : State) (k : Nat) (x) : (s.setChan k x).irqs = s.irqs := rfl

/-! ## setRing -/

@[simp] theorem setRing_coreSt (s : State) (k : Nat) (x) (j : Nat) : (s.setRing k x).coreSt j = s.coreSt j := rfl
@[simp] theorem setRing_stackSt (s : State) (k : Nat) (x) (j : Nat) : (s.setRing k x).stackSt j = s.stackSt j := rfl
@[simp] theorem setRing_dieSt (s : State) (k : Nat) (x) (j : Nat) : (s.setRing k x).dieSt j = s.dieSt j := rfl
@[simp] theorem setRing_ctx (s : State) (k : Nat) (x) (j : Nat) : (s.setRing k x).ctx j = s.ctx j := rfl
@[simp] theorem setRing_queue (s : State) (k : Nat) (x) (j : Nat) : (s.setRing k x).queue j = s.queue j := rfl
@[simp] theorem setRing_link (s : State) (k : Nat) (x) (j : Nat) : (s.setRing k x).link j = s.link j := rfl
@[simp] theorem setRing_dom (s : State) (k : Nat) (x) (j : Nat) : (s.setRing k x).dom j = s.dom j := rfl
@[simp] theorem setRing_vf (s : State) (k : Nat) (x) (j : Nat) : (s.setRing k x).vf j = s.vf j := rfl
@[simp] theorem setRing_chan (s : State) (k : Nat) (x) (j : Nat) : (s.setRing k x).chan j = s.chan j := rfl
@[simp] theorem setRing_scoreOf (s : State) (k : Nat) (x) (j : Nat) : (s.setRing k x).scoreOf j = s.scoreOf j := rfl
@[simp] theorem setRing_kern (s : State) (k : Nat) (x) (j : Nat) : (s.setRing k x).kern j = s.kern j := rfl
@[simp] theorem setRing_team (s : State) (k : Nat) (x) (j : Nat) : (s.setRing k x).team j = s.team j := rfl
@[simp] theorem setRing_part (s : State) (k : Nat) (x) (j : Nat) : (s.setRing k x).part j = s.part j := rfl
@[simp] theorem setRing_agenda (s : State) (k : Nat) (x) : (s.setRing k x).agenda = s.agenda := rfl
@[simp] theorem setRing_cur (s : State) (k : Nat) (x) : (s.setRing k x).cur = s.cur := rfl
@[simp] theorem setRing_pair (s : State) (k : Nat) (x) : (s.setRing k x).pair = s.pair := rfl
@[simp] theorem setRing_free (s : State) (k : Nat) (x) : (s.setRing k x).free = s.free := rfl
@[simp] theorem setRing_next (s : State) (k : Nat) (x) : (s.setRing k x).next = s.next := rfl
@[simp] theorem setRing_groups (s : State) (k : Nat) (x) : (s.setRing k x).groups = s.groups := rfl
@[simp] theorem setRing_acc (s : State) (k : Nat) (x) : (s.setRing k x).acc = s.acc := rfl
@[simp] theorem setRing_mats (s : State) (k : Nat) (x) : (s.setRing k x).mats = s.mats := rfl
@[simp] theorem setRing_copies (s : State) (k : Nat) (x) : (s.setRing k x).copies = s.copies := rfl
@[simp] theorem setRing_colls (s : State) (k : Nat) (x) : (s.setRing k x).colls = s.colls := rfl
@[simp] theorem setRing_teams (s : State) (k : Nat) (x) : (s.setRing k x).teams = s.teams := rfl
@[simp] theorem setRing_kernels (s : State) (k : Nat) (x) : (s.setRing k x).kernels = s.kernels := rfl
@[simp] theorem setRing_mem (s : State) (k : Nat) (x) : (s.setRing k x).mem = s.mem := rfl
@[simp] theorem setRing_sram (s : State) (k : Nat) (x) : (s.setRing k x).sram = s.sram := rfl
@[simp] theorem setRing_tile (s : State) (k : Nat) (x) : (s.setRing k x).tile = s.tile := rfl
@[simp] theorem setRing_poison (s : State) (k : Nat) (x) : (s.setRing k x).poison = s.poison := rfl
@[simp] theorem setRing_sramPoison (s : State) (k : Nat) (x) : (s.setRing k x).sramPoison = s.sramPoison := rfl
@[simp] theorem setRing_tilePoison (s : State) (k : Nat) (x) : (s.setRing k x).tilePoison = s.tilePoison := rfl
@[simp] theorem setRing_l1 (s : State) (k : Nat) (x) : (s.setRing k x).l1 = s.l1 := rfl
@[simp] theorem setRing_tlb (s : State) (k : Nat) (x) : (s.setRing k x).tlb = s.tlb := rfl
@[simp] theorem setRing_l2 (s : State) (k : Nat) (x) : (s.setRing k x).l2 = s.l2 := rfl
@[simp] theorem setRing_cores (s : State) (k : Nat) (x) : (s.setRing k x).cores = s.cores := rfl
@[simp] theorem setRing_stks (s : State) (k : Nat) (x) : (s.setRing k x).stks = s.stks := rfl
@[simp] theorem setRing_dies (s : State) (k : Nat) (x) : (s.setRing k x).dies = s.dies := rfl
@[simp] theorem setRing_regEvents (s : State) (k : Nat) (x) : (s.setRing k x).regEvents = s.regEvents := rfl
@[simp] theorem setRing_matStall (s : State) (k : Nat) (x) : (s.setRing k x).matStall = s.matStall := rfl
@[simp] theorem setRing_allow (s : State) (k : Nat) (x) : (s.setRing k x).allow = s.allow := rfl
@[simp] theorem setRing_ctxs (s : State) (k : Nat) (x) : (s.setRing k x).ctxs = s.ctxs := rfl
@[simp] theorem setRing_queues (s : State) (k : Nat) (x) : (s.setRing k x).queues = s.queues := rfl
@[simp] theorem setRing_sets (s : State) (k : Nat) (x) : (s.setRing k x).sets = s.sets := rfl
@[simp] theorem setRing_lastDie (s : State) (k : Nat) (x) : (s.setRing k x).lastDie = s.lastDie := rfl
@[simp] theorem setRing_rot (s : State) (k : Nat) (x) : (s.setRing k x).rot = s.rot := rfl
@[simp] theorem setRing_headClock (s : State) (k : Nat) (x) : (s.setRing k x).headClock = s.headClock := rfl
@[simp] theorem setRing_replies (s : State) (k : Nat) (x) : (s.setRing k x).replies = s.replies := rfl
@[simp] theorem setRing_dbarHeld (s : State) (k : Nat) (x) : (s.setRing k x).dbarHeld = s.dbarHeld := rfl
@[simp] theorem setRing_invals (s : State) (k : Nat) (x) : (s.setRing k x).invals = s.invals := rfl
@[simp] theorem setRing_migrs (s : State) (k : Nat) (x) : (s.setRing k x).migrs = s.migrs := rfl
@[simp] theorem setRing_links (s : State) (k : Nat) (x) : (s.setRing k x).links = s.links := rfl
@[simp] theorem setRing_heldFlits (s : State) (k : Nat) (x) : (s.setRing k x).heldFlits = s.heldFlits := rfl
@[simp] theorem setRing_routes (s : State) (k : Nat) (x) : (s.setRing k x).routes = s.routes := rfl
@[simp] theorem setRing_doms (s : State) (k : Nat) (x) : (s.setRing k x).doms = s.doms := rfl
@[simp] theorem setRing_parts (s : State) (k : Nat) (x) : (s.setRing k x).parts = s.parts := rfl
@[simp] theorem setRing_chans (s : State) (k : Nat) (x) : (s.setRing k x).chans = s.chans := rfl
@[simp] theorem setRing_vfs (s : State) (k : Nat) (x) : (s.setRing k x).vfs = s.vfs := rfl
@[simp] theorem setRing_errs (s : State) (k : Nat) (x) : (s.setRing k x).errs = s.errs := rfl
@[simp] theorem setRing_scores (s : State) (k : Nat) (x) : (s.setRing k x).scores = s.scores := rfl
@[simp] theorem setRing_cap (s : State) (k : Nat) (x) : (s.setRing k x).cap = s.cap := rfl
@[simp] theorem setRing_share (s : State) (k : Nat) (x) : (s.setRing k x).share = s.share := rfl
@[simp] theorem setRing_snpSeq (s : State) (k : Nat) (x) : (s.setRing k x).snpSeq = s.snpSeq := rfl
@[simp] theorem setRing_snpAddr (s : State) (k : Nat) (x) : (s.setRing k x).snpAddr = s.snpAddr := rfl
@[simp] theorem setRing_snap (s : State) (k : Nat) (x) : (s.setRing k x).snap = s.snap := rfl
@[simp] theorem setRing_log (s : State) (k : Nat) (x) : (s.setRing k x).log = s.log := rfl
@[simp] theorem setRing_logHeld (s : State) (k : Nat) (x) : (s.setRing k x).logHeld = s.logHeld := rfl
@[simp] theorem setRing_logSeq (s : State) (k : Nat) (x) : (s.setRing k x).logSeq = s.logSeq := rfl
@[simp] theorem setRing_rndKind (s : State) (k : Nat) (x) : (s.setRing k x).rndKind = s.rndKind := rfl
@[simp] theorem setRing_rndPhase (s : State) (k : Nat) (x) : (s.setRing k x).rndPhase = s.rndPhase := rfl
@[simp] theorem setRing_resets (s : State) (k : Nat) (x) : (s.setRing k x).resets = s.resets := rfl
@[simp] theorem setRing_expSeq (s : State) (k : Nat) (x) : (s.setRing k x).expSeq = s.expSeq := rfl
@[simp] theorem setRing_sweeps (s : State) (k : Nat) (x) : (s.setRing k x).sweeps = s.sweeps := rfl
@[simp] theorem setRing_touched (s : State) (k : Nat) (x) : (s.setRing k x).touched = s.touched := rfl
@[simp] theorem setRing_keys (s : State) (k : Nat) (x) : (s.setRing k x).keys = s.keys := rfl
@[simp] theorem setRing_keyIds (s : State) (k : Nat) (x) : (s.setRing k x).keyIds = s.keyIds := rfl
@[simp] theorem setRing_sealKey (s : State) (k : Nat) (x) : (s.setRing k x).sealKey = s.sealKey := rfl
@[simp] theorem setRing_stackCopy (s : State) (k : Nat) (x) : (s.setRing k x).stackCopy = s.stackCopy := rfl
@[simp] theorem setRing_outbox (s : State) (k : Nat) (x) : (s.setRing k x).outbox = s.outbox := rfl
@[simp] theorem setRing_irqs (s : State) (k : Nat) (x) : (s.setRing k x).irqs = s.irqs := rfl

/-! ## setScore -/

@[simp] theorem setScore_coreSt (s : State) (k : Nat) (x) (j : Nat) : (s.setScore k x).coreSt j = s.coreSt j := rfl
@[simp] theorem setScore_stackSt (s : State) (k : Nat) (x) (j : Nat) : (s.setScore k x).stackSt j = s.stackSt j := rfl
@[simp] theorem setScore_dieSt (s : State) (k : Nat) (x) (j : Nat) : (s.setScore k x).dieSt j = s.dieSt j := rfl
@[simp] theorem setScore_ctx (s : State) (k : Nat) (x) (j : Nat) : (s.setScore k x).ctx j = s.ctx j := rfl
@[simp] theorem setScore_queue (s : State) (k : Nat) (x) (j : Nat) : (s.setScore k x).queue j = s.queue j := rfl
@[simp] theorem setScore_link (s : State) (k : Nat) (x) (j : Nat) : (s.setScore k x).link j = s.link j := rfl
@[simp] theorem setScore_dom (s : State) (k : Nat) (x) (j : Nat) : (s.setScore k x).dom j = s.dom j := rfl
@[simp] theorem setScore_vf (s : State) (k : Nat) (x) (j : Nat) : (s.setScore k x).vf j = s.vf j := rfl
@[simp] theorem setScore_chan (s : State) (k : Nat) (x) (j : Nat) : (s.setScore k x).chan j = s.chan j := rfl
@[simp] theorem setScore_ring (s : State) (k : Nat) (x) (j : Nat) : (s.setScore k x).ring j = s.ring j := rfl
@[simp] theorem setScore_kern (s : State) (k : Nat) (x) (j : Nat) : (s.setScore k x).kern j = s.kern j := rfl
@[simp] theorem setScore_team (s : State) (k : Nat) (x) (j : Nat) : (s.setScore k x).team j = s.team j := rfl
@[simp] theorem setScore_part (s : State) (k : Nat) (x) (j : Nat) : (s.setScore k x).part j = s.part j := rfl
@[simp] theorem setScore_agenda (s : State) (k : Nat) (x) : (s.setScore k x).agenda = s.agenda := rfl
@[simp] theorem setScore_cur (s : State) (k : Nat) (x) : (s.setScore k x).cur = s.cur := rfl
@[simp] theorem setScore_pair (s : State) (k : Nat) (x) : (s.setScore k x).pair = s.pair := rfl
@[simp] theorem setScore_free (s : State) (k : Nat) (x) : (s.setScore k x).free = s.free := rfl
@[simp] theorem setScore_next (s : State) (k : Nat) (x) : (s.setScore k x).next = s.next := rfl
@[simp] theorem setScore_groups (s : State) (k : Nat) (x) : (s.setScore k x).groups = s.groups := rfl
@[simp] theorem setScore_acc (s : State) (k : Nat) (x) : (s.setScore k x).acc = s.acc := rfl
@[simp] theorem setScore_mats (s : State) (k : Nat) (x) : (s.setScore k x).mats = s.mats := rfl
@[simp] theorem setScore_copies (s : State) (k : Nat) (x) : (s.setScore k x).copies = s.copies := rfl
@[simp] theorem setScore_colls (s : State) (k : Nat) (x) : (s.setScore k x).colls = s.colls := rfl
@[simp] theorem setScore_teams (s : State) (k : Nat) (x) : (s.setScore k x).teams = s.teams := rfl
@[simp] theorem setScore_kernels (s : State) (k : Nat) (x) : (s.setScore k x).kernels = s.kernels := rfl
@[simp] theorem setScore_mem (s : State) (k : Nat) (x) : (s.setScore k x).mem = s.mem := rfl
@[simp] theorem setScore_sram (s : State) (k : Nat) (x) : (s.setScore k x).sram = s.sram := rfl
@[simp] theorem setScore_tile (s : State) (k : Nat) (x) : (s.setScore k x).tile = s.tile := rfl
@[simp] theorem setScore_poison (s : State) (k : Nat) (x) : (s.setScore k x).poison = s.poison := rfl
@[simp] theorem setScore_sramPoison (s : State) (k : Nat) (x) : (s.setScore k x).sramPoison = s.sramPoison := rfl
@[simp] theorem setScore_tilePoison (s : State) (k : Nat) (x) : (s.setScore k x).tilePoison = s.tilePoison := rfl
@[simp] theorem setScore_l1 (s : State) (k : Nat) (x) : (s.setScore k x).l1 = s.l1 := rfl
@[simp] theorem setScore_tlb (s : State) (k : Nat) (x) : (s.setScore k x).tlb = s.tlb := rfl
@[simp] theorem setScore_l2 (s : State) (k : Nat) (x) : (s.setScore k x).l2 = s.l2 := rfl
@[simp] theorem setScore_cores (s : State) (k : Nat) (x) : (s.setScore k x).cores = s.cores := rfl
@[simp] theorem setScore_stks (s : State) (k : Nat) (x) : (s.setScore k x).stks = s.stks := rfl
@[simp] theorem setScore_dies (s : State) (k : Nat) (x) : (s.setScore k x).dies = s.dies := rfl
@[simp] theorem setScore_regEvents (s : State) (k : Nat) (x) : (s.setScore k x).regEvents = s.regEvents := rfl
@[simp] theorem setScore_matStall (s : State) (k : Nat) (x) : (s.setScore k x).matStall = s.matStall := rfl
@[simp] theorem setScore_allow (s : State) (k : Nat) (x) : (s.setScore k x).allow = s.allow := rfl
@[simp] theorem setScore_ctxs (s : State) (k : Nat) (x) : (s.setScore k x).ctxs = s.ctxs := rfl
@[simp] theorem setScore_queues (s : State) (k : Nat) (x) : (s.setScore k x).queues = s.queues := rfl
@[simp] theorem setScore_sets (s : State) (k : Nat) (x) : (s.setScore k x).sets = s.sets := rfl
@[simp] theorem setScore_lastDie (s : State) (k : Nat) (x) : (s.setScore k x).lastDie = s.lastDie := rfl
@[simp] theorem setScore_rot (s : State) (k : Nat) (x) : (s.setScore k x).rot = s.rot := rfl
@[simp] theorem setScore_headClock (s : State) (k : Nat) (x) : (s.setScore k x).headClock = s.headClock := rfl
@[simp] theorem setScore_replies (s : State) (k : Nat) (x) : (s.setScore k x).replies = s.replies := rfl
@[simp] theorem setScore_dbarHeld (s : State) (k : Nat) (x) : (s.setScore k x).dbarHeld = s.dbarHeld := rfl
@[simp] theorem setScore_rings (s : State) (k : Nat) (x) : (s.setScore k x).rings = s.rings := rfl
@[simp] theorem setScore_invals (s : State) (k : Nat) (x) : (s.setScore k x).invals = s.invals := rfl
@[simp] theorem setScore_migrs (s : State) (k : Nat) (x) : (s.setScore k x).migrs = s.migrs := rfl
@[simp] theorem setScore_links (s : State) (k : Nat) (x) : (s.setScore k x).links = s.links := rfl
@[simp] theorem setScore_heldFlits (s : State) (k : Nat) (x) : (s.setScore k x).heldFlits = s.heldFlits := rfl
@[simp] theorem setScore_routes (s : State) (k : Nat) (x) : (s.setScore k x).routes = s.routes := rfl
@[simp] theorem setScore_doms (s : State) (k : Nat) (x) : (s.setScore k x).doms = s.doms := rfl
@[simp] theorem setScore_parts (s : State) (k : Nat) (x) : (s.setScore k x).parts = s.parts := rfl
@[simp] theorem setScore_chans (s : State) (k : Nat) (x) : (s.setScore k x).chans = s.chans := rfl
@[simp] theorem setScore_vfs (s : State) (k : Nat) (x) : (s.setScore k x).vfs = s.vfs := rfl
@[simp] theorem setScore_errs (s : State) (k : Nat) (x) : (s.setScore k x).errs = s.errs := rfl
@[simp] theorem setScore_cap (s : State) (k : Nat) (x) : (s.setScore k x).cap = s.cap := rfl
@[simp] theorem setScore_share (s : State) (k : Nat) (x) : (s.setScore k x).share = s.share := rfl
@[simp] theorem setScore_snpSeq (s : State) (k : Nat) (x) : (s.setScore k x).snpSeq = s.snpSeq := rfl
@[simp] theorem setScore_snpAddr (s : State) (k : Nat) (x) : (s.setScore k x).snpAddr = s.snpAddr := rfl
@[simp] theorem setScore_snap (s : State) (k : Nat) (x) : (s.setScore k x).snap = s.snap := rfl
@[simp] theorem setScore_log (s : State) (k : Nat) (x) : (s.setScore k x).log = s.log := rfl
@[simp] theorem setScore_logHeld (s : State) (k : Nat) (x) : (s.setScore k x).logHeld = s.logHeld := rfl
@[simp] theorem setScore_logSeq (s : State) (k : Nat) (x) : (s.setScore k x).logSeq = s.logSeq := rfl
@[simp] theorem setScore_rndKind (s : State) (k : Nat) (x) : (s.setScore k x).rndKind = s.rndKind := rfl
@[simp] theorem setScore_rndPhase (s : State) (k : Nat) (x) : (s.setScore k x).rndPhase = s.rndPhase := rfl
@[simp] theorem setScore_resets (s : State) (k : Nat) (x) : (s.setScore k x).resets = s.resets := rfl
@[simp] theorem setScore_expSeq (s : State) (k : Nat) (x) : (s.setScore k x).expSeq = s.expSeq := rfl
@[simp] theorem setScore_sweeps (s : State) (k : Nat) (x) : (s.setScore k x).sweeps = s.sweeps := rfl
@[simp] theorem setScore_touched (s : State) (k : Nat) (x) : (s.setScore k x).touched = s.touched := rfl
@[simp] theorem setScore_keys (s : State) (k : Nat) (x) : (s.setScore k x).keys = s.keys := rfl
@[simp] theorem setScore_keyIds (s : State) (k : Nat) (x) : (s.setScore k x).keyIds = s.keyIds := rfl
@[simp] theorem setScore_sealKey (s : State) (k : Nat) (x) : (s.setScore k x).sealKey = s.sealKey := rfl
@[simp] theorem setScore_stackCopy (s : State) (k : Nat) (x) : (s.setScore k x).stackCopy = s.stackCopy := rfl
@[simp] theorem setScore_outbox (s : State) (k : Nat) (x) : (s.setScore k x).outbox = s.outbox := rfl
@[simp] theorem setScore_irqs (s : State) (k : Nat) (x) : (s.setScore k x).irqs = s.irqs := rfl

/-! ## setKern -/

@[simp] theorem setKern_coreSt (s : State) (k : Nat) (x) (j : Nat) : (s.setKern k x).coreSt j = s.coreSt j := rfl
@[simp] theorem setKern_stackSt (s : State) (k : Nat) (x) (j : Nat) : (s.setKern k x).stackSt j = s.stackSt j := rfl
@[simp] theorem setKern_dieSt (s : State) (k : Nat) (x) (j : Nat) : (s.setKern k x).dieSt j = s.dieSt j := rfl
@[simp] theorem setKern_ctx (s : State) (k : Nat) (x) (j : Nat) : (s.setKern k x).ctx j = s.ctx j := rfl
@[simp] theorem setKern_queue (s : State) (k : Nat) (x) (j : Nat) : (s.setKern k x).queue j = s.queue j := rfl
@[simp] theorem setKern_link (s : State) (k : Nat) (x) (j : Nat) : (s.setKern k x).link j = s.link j := rfl
@[simp] theorem setKern_dom (s : State) (k : Nat) (x) (j : Nat) : (s.setKern k x).dom j = s.dom j := rfl
@[simp] theorem setKern_vf (s : State) (k : Nat) (x) (j : Nat) : (s.setKern k x).vf j = s.vf j := rfl
@[simp] theorem setKern_chan (s : State) (k : Nat) (x) (j : Nat) : (s.setKern k x).chan j = s.chan j := rfl
@[simp] theorem setKern_ring (s : State) (k : Nat) (x) (j : Nat) : (s.setKern k x).ring j = s.ring j := rfl
@[simp] theorem setKern_scoreOf (s : State) (k : Nat) (x) (j : Nat) : (s.setKern k x).scoreOf j = s.scoreOf j := rfl
@[simp] theorem setKern_team (s : State) (k : Nat) (x) (j : Nat) : (s.setKern k x).team j = s.team j := rfl
@[simp] theorem setKern_part (s : State) (k : Nat) (x) (j : Nat) : (s.setKern k x).part j = s.part j := rfl
@[simp] theorem setKern_agenda (s : State) (k : Nat) (x) : (s.setKern k x).agenda = s.agenda := rfl
@[simp] theorem setKern_cur (s : State) (k : Nat) (x) : (s.setKern k x).cur = s.cur := rfl
@[simp] theorem setKern_pair (s : State) (k : Nat) (x) : (s.setKern k x).pair = s.pair := rfl
@[simp] theorem setKern_free (s : State) (k : Nat) (x) : (s.setKern k x).free = s.free := rfl
@[simp] theorem setKern_next (s : State) (k : Nat) (x) : (s.setKern k x).next = s.next := rfl
@[simp] theorem setKern_groups (s : State) (k : Nat) (x) : (s.setKern k x).groups = s.groups := rfl
@[simp] theorem setKern_acc (s : State) (k : Nat) (x) : (s.setKern k x).acc = s.acc := rfl
@[simp] theorem setKern_mats (s : State) (k : Nat) (x) : (s.setKern k x).mats = s.mats := rfl
@[simp] theorem setKern_copies (s : State) (k : Nat) (x) : (s.setKern k x).copies = s.copies := rfl
@[simp] theorem setKern_colls (s : State) (k : Nat) (x) : (s.setKern k x).colls = s.colls := rfl
@[simp] theorem setKern_teams (s : State) (k : Nat) (x) : (s.setKern k x).teams = s.teams := rfl
@[simp] theorem setKern_mem (s : State) (k : Nat) (x) : (s.setKern k x).mem = s.mem := rfl
@[simp] theorem setKern_sram (s : State) (k : Nat) (x) : (s.setKern k x).sram = s.sram := rfl
@[simp] theorem setKern_tile (s : State) (k : Nat) (x) : (s.setKern k x).tile = s.tile := rfl
@[simp] theorem setKern_poison (s : State) (k : Nat) (x) : (s.setKern k x).poison = s.poison := rfl
@[simp] theorem setKern_sramPoison (s : State) (k : Nat) (x) : (s.setKern k x).sramPoison = s.sramPoison := rfl
@[simp] theorem setKern_tilePoison (s : State) (k : Nat) (x) : (s.setKern k x).tilePoison = s.tilePoison := rfl
@[simp] theorem setKern_l1 (s : State) (k : Nat) (x) : (s.setKern k x).l1 = s.l1 := rfl
@[simp] theorem setKern_tlb (s : State) (k : Nat) (x) : (s.setKern k x).tlb = s.tlb := rfl
@[simp] theorem setKern_l2 (s : State) (k : Nat) (x) : (s.setKern k x).l2 = s.l2 := rfl
@[simp] theorem setKern_cores (s : State) (k : Nat) (x) : (s.setKern k x).cores = s.cores := rfl
@[simp] theorem setKern_stks (s : State) (k : Nat) (x) : (s.setKern k x).stks = s.stks := rfl
@[simp] theorem setKern_dies (s : State) (k : Nat) (x) : (s.setKern k x).dies = s.dies := rfl
@[simp] theorem setKern_regEvents (s : State) (k : Nat) (x) : (s.setKern k x).regEvents = s.regEvents := rfl
@[simp] theorem setKern_matStall (s : State) (k : Nat) (x) : (s.setKern k x).matStall = s.matStall := rfl
@[simp] theorem setKern_allow (s : State) (k : Nat) (x) : (s.setKern k x).allow = s.allow := rfl
@[simp] theorem setKern_ctxs (s : State) (k : Nat) (x) : (s.setKern k x).ctxs = s.ctxs := rfl
@[simp] theorem setKern_queues (s : State) (k : Nat) (x) : (s.setKern k x).queues = s.queues := rfl
@[simp] theorem setKern_sets (s : State) (k : Nat) (x) : (s.setKern k x).sets = s.sets := rfl
@[simp] theorem setKern_lastDie (s : State) (k : Nat) (x) : (s.setKern k x).lastDie = s.lastDie := rfl
@[simp] theorem setKern_rot (s : State) (k : Nat) (x) : (s.setKern k x).rot = s.rot := rfl
@[simp] theorem setKern_headClock (s : State) (k : Nat) (x) : (s.setKern k x).headClock = s.headClock := rfl
@[simp] theorem setKern_replies (s : State) (k : Nat) (x) : (s.setKern k x).replies = s.replies := rfl
@[simp] theorem setKern_dbarHeld (s : State) (k : Nat) (x) : (s.setKern k x).dbarHeld = s.dbarHeld := rfl
@[simp] theorem setKern_rings (s : State) (k : Nat) (x) : (s.setKern k x).rings = s.rings := rfl
@[simp] theorem setKern_invals (s : State) (k : Nat) (x) : (s.setKern k x).invals = s.invals := rfl
@[simp] theorem setKern_migrs (s : State) (k : Nat) (x) : (s.setKern k x).migrs = s.migrs := rfl
@[simp] theorem setKern_links (s : State) (k : Nat) (x) : (s.setKern k x).links = s.links := rfl
@[simp] theorem setKern_heldFlits (s : State) (k : Nat) (x) : (s.setKern k x).heldFlits = s.heldFlits := rfl
@[simp] theorem setKern_routes (s : State) (k : Nat) (x) : (s.setKern k x).routes = s.routes := rfl
@[simp] theorem setKern_doms (s : State) (k : Nat) (x) : (s.setKern k x).doms = s.doms := rfl
@[simp] theorem setKern_parts (s : State) (k : Nat) (x) : (s.setKern k x).parts = s.parts := rfl
@[simp] theorem setKern_chans (s : State) (k : Nat) (x) : (s.setKern k x).chans = s.chans := rfl
@[simp] theorem setKern_vfs (s : State) (k : Nat) (x) : (s.setKern k x).vfs = s.vfs := rfl
@[simp] theorem setKern_errs (s : State) (k : Nat) (x) : (s.setKern k x).errs = s.errs := rfl
@[simp] theorem setKern_scores (s : State) (k : Nat) (x) : (s.setKern k x).scores = s.scores := rfl
@[simp] theorem setKern_cap (s : State) (k : Nat) (x) : (s.setKern k x).cap = s.cap := rfl
@[simp] theorem setKern_share (s : State) (k : Nat) (x) : (s.setKern k x).share = s.share := rfl
@[simp] theorem setKern_snpSeq (s : State) (k : Nat) (x) : (s.setKern k x).snpSeq = s.snpSeq := rfl
@[simp] theorem setKern_snpAddr (s : State) (k : Nat) (x) : (s.setKern k x).snpAddr = s.snpAddr := rfl
@[simp] theorem setKern_snap (s : State) (k : Nat) (x) : (s.setKern k x).snap = s.snap := rfl
@[simp] theorem setKern_log (s : State) (k : Nat) (x) : (s.setKern k x).log = s.log := rfl
@[simp] theorem setKern_logHeld (s : State) (k : Nat) (x) : (s.setKern k x).logHeld = s.logHeld := rfl
@[simp] theorem setKern_logSeq (s : State) (k : Nat) (x) : (s.setKern k x).logSeq = s.logSeq := rfl
@[simp] theorem setKern_rndKind (s : State) (k : Nat) (x) : (s.setKern k x).rndKind = s.rndKind := rfl
@[simp] theorem setKern_rndPhase (s : State) (k : Nat) (x) : (s.setKern k x).rndPhase = s.rndPhase := rfl
@[simp] theorem setKern_resets (s : State) (k : Nat) (x) : (s.setKern k x).resets = s.resets := rfl
@[simp] theorem setKern_expSeq (s : State) (k : Nat) (x) : (s.setKern k x).expSeq = s.expSeq := rfl
@[simp] theorem setKern_sweeps (s : State) (k : Nat) (x) : (s.setKern k x).sweeps = s.sweeps := rfl
@[simp] theorem setKern_touched (s : State) (k : Nat) (x) : (s.setKern k x).touched = s.touched := rfl
@[simp] theorem setKern_keys (s : State) (k : Nat) (x) : (s.setKern k x).keys = s.keys := rfl
@[simp] theorem setKern_keyIds (s : State) (k : Nat) (x) : (s.setKern k x).keyIds = s.keyIds := rfl
@[simp] theorem setKern_sealKey (s : State) (k : Nat) (x) : (s.setKern k x).sealKey = s.sealKey := rfl
@[simp] theorem setKern_stackCopy (s : State) (k : Nat) (x) : (s.setKern k x).stackCopy = s.stackCopy := rfl
@[simp] theorem setKern_outbox (s : State) (k : Nat) (x) : (s.setKern k x).outbox = s.outbox := rfl
@[simp] theorem setKern_irqs (s : State) (k : Nat) (x) : (s.setKern k x).irqs = s.irqs := rfl

/-! ## setTeam -/

@[simp] theorem setTeam_coreSt (s : State) (k : Nat) (x) (j : Nat) : (s.setTeam k x).coreSt j = s.coreSt j := rfl
@[simp] theorem setTeam_stackSt (s : State) (k : Nat) (x) (j : Nat) : (s.setTeam k x).stackSt j = s.stackSt j := rfl
@[simp] theorem setTeam_dieSt (s : State) (k : Nat) (x) (j : Nat) : (s.setTeam k x).dieSt j = s.dieSt j := rfl
@[simp] theorem setTeam_ctx (s : State) (k : Nat) (x) (j : Nat) : (s.setTeam k x).ctx j = s.ctx j := rfl
@[simp] theorem setTeam_queue (s : State) (k : Nat) (x) (j : Nat) : (s.setTeam k x).queue j = s.queue j := rfl
@[simp] theorem setTeam_link (s : State) (k : Nat) (x) (j : Nat) : (s.setTeam k x).link j = s.link j := rfl
@[simp] theorem setTeam_dom (s : State) (k : Nat) (x) (j : Nat) : (s.setTeam k x).dom j = s.dom j := rfl
@[simp] theorem setTeam_vf (s : State) (k : Nat) (x) (j : Nat) : (s.setTeam k x).vf j = s.vf j := rfl
@[simp] theorem setTeam_chan (s : State) (k : Nat) (x) (j : Nat) : (s.setTeam k x).chan j = s.chan j := rfl
@[simp] theorem setTeam_ring (s : State) (k : Nat) (x) (j : Nat) : (s.setTeam k x).ring j = s.ring j := rfl
@[simp] theorem setTeam_scoreOf (s : State) (k : Nat) (x) (j : Nat) : (s.setTeam k x).scoreOf j = s.scoreOf j := rfl
@[simp] theorem setTeam_kern (s : State) (k : Nat) (x) (j : Nat) : (s.setTeam k x).kern j = s.kern j := rfl
@[simp] theorem setTeam_part (s : State) (k : Nat) (x) (j : Nat) : (s.setTeam k x).part j = s.part j := rfl
@[simp] theorem setTeam_agenda (s : State) (k : Nat) (x) : (s.setTeam k x).agenda = s.agenda := rfl
@[simp] theorem setTeam_cur (s : State) (k : Nat) (x) : (s.setTeam k x).cur = s.cur := rfl
@[simp] theorem setTeam_pair (s : State) (k : Nat) (x) : (s.setTeam k x).pair = s.pair := rfl
@[simp] theorem setTeam_free (s : State) (k : Nat) (x) : (s.setTeam k x).free = s.free := rfl
@[simp] theorem setTeam_next (s : State) (k : Nat) (x) : (s.setTeam k x).next = s.next := rfl
@[simp] theorem setTeam_groups (s : State) (k : Nat) (x) : (s.setTeam k x).groups = s.groups := rfl
@[simp] theorem setTeam_acc (s : State) (k : Nat) (x) : (s.setTeam k x).acc = s.acc := rfl
@[simp] theorem setTeam_mats (s : State) (k : Nat) (x) : (s.setTeam k x).mats = s.mats := rfl
@[simp] theorem setTeam_copies (s : State) (k : Nat) (x) : (s.setTeam k x).copies = s.copies := rfl
@[simp] theorem setTeam_colls (s : State) (k : Nat) (x) : (s.setTeam k x).colls = s.colls := rfl
@[simp] theorem setTeam_kernels (s : State) (k : Nat) (x) : (s.setTeam k x).kernels = s.kernels := rfl
@[simp] theorem setTeam_mem (s : State) (k : Nat) (x) : (s.setTeam k x).mem = s.mem := rfl
@[simp] theorem setTeam_sram (s : State) (k : Nat) (x) : (s.setTeam k x).sram = s.sram := rfl
@[simp] theorem setTeam_tile (s : State) (k : Nat) (x) : (s.setTeam k x).tile = s.tile := rfl
@[simp] theorem setTeam_poison (s : State) (k : Nat) (x) : (s.setTeam k x).poison = s.poison := rfl
@[simp] theorem setTeam_sramPoison (s : State) (k : Nat) (x) : (s.setTeam k x).sramPoison = s.sramPoison := rfl
@[simp] theorem setTeam_tilePoison (s : State) (k : Nat) (x) : (s.setTeam k x).tilePoison = s.tilePoison := rfl
@[simp] theorem setTeam_l1 (s : State) (k : Nat) (x) : (s.setTeam k x).l1 = s.l1 := rfl
@[simp] theorem setTeam_tlb (s : State) (k : Nat) (x) : (s.setTeam k x).tlb = s.tlb := rfl
@[simp] theorem setTeam_l2 (s : State) (k : Nat) (x) : (s.setTeam k x).l2 = s.l2 := rfl
@[simp] theorem setTeam_cores (s : State) (k : Nat) (x) : (s.setTeam k x).cores = s.cores := rfl
@[simp] theorem setTeam_stks (s : State) (k : Nat) (x) : (s.setTeam k x).stks = s.stks := rfl
@[simp] theorem setTeam_dies (s : State) (k : Nat) (x) : (s.setTeam k x).dies = s.dies := rfl
@[simp] theorem setTeam_regEvents (s : State) (k : Nat) (x) : (s.setTeam k x).regEvents = s.regEvents := rfl
@[simp] theorem setTeam_matStall (s : State) (k : Nat) (x) : (s.setTeam k x).matStall = s.matStall := rfl
@[simp] theorem setTeam_allow (s : State) (k : Nat) (x) : (s.setTeam k x).allow = s.allow := rfl
@[simp] theorem setTeam_ctxs (s : State) (k : Nat) (x) : (s.setTeam k x).ctxs = s.ctxs := rfl
@[simp] theorem setTeam_queues (s : State) (k : Nat) (x) : (s.setTeam k x).queues = s.queues := rfl
@[simp] theorem setTeam_sets (s : State) (k : Nat) (x) : (s.setTeam k x).sets = s.sets := rfl
@[simp] theorem setTeam_lastDie (s : State) (k : Nat) (x) : (s.setTeam k x).lastDie = s.lastDie := rfl
@[simp] theorem setTeam_rot (s : State) (k : Nat) (x) : (s.setTeam k x).rot = s.rot := rfl
@[simp] theorem setTeam_headClock (s : State) (k : Nat) (x) : (s.setTeam k x).headClock = s.headClock := rfl
@[simp] theorem setTeam_replies (s : State) (k : Nat) (x) : (s.setTeam k x).replies = s.replies := rfl
@[simp] theorem setTeam_dbarHeld (s : State) (k : Nat) (x) : (s.setTeam k x).dbarHeld = s.dbarHeld := rfl
@[simp] theorem setTeam_rings (s : State) (k : Nat) (x) : (s.setTeam k x).rings = s.rings := rfl
@[simp] theorem setTeam_invals (s : State) (k : Nat) (x) : (s.setTeam k x).invals = s.invals := rfl
@[simp] theorem setTeam_migrs (s : State) (k : Nat) (x) : (s.setTeam k x).migrs = s.migrs := rfl
@[simp] theorem setTeam_links (s : State) (k : Nat) (x) : (s.setTeam k x).links = s.links := rfl
@[simp] theorem setTeam_heldFlits (s : State) (k : Nat) (x) : (s.setTeam k x).heldFlits = s.heldFlits := rfl
@[simp] theorem setTeam_routes (s : State) (k : Nat) (x) : (s.setTeam k x).routes = s.routes := rfl
@[simp] theorem setTeam_doms (s : State) (k : Nat) (x) : (s.setTeam k x).doms = s.doms := rfl
@[simp] theorem setTeam_parts (s : State) (k : Nat) (x) : (s.setTeam k x).parts = s.parts := rfl
@[simp] theorem setTeam_chans (s : State) (k : Nat) (x) : (s.setTeam k x).chans = s.chans := rfl
@[simp] theorem setTeam_vfs (s : State) (k : Nat) (x) : (s.setTeam k x).vfs = s.vfs := rfl
@[simp] theorem setTeam_errs (s : State) (k : Nat) (x) : (s.setTeam k x).errs = s.errs := rfl
@[simp] theorem setTeam_scores (s : State) (k : Nat) (x) : (s.setTeam k x).scores = s.scores := rfl
@[simp] theorem setTeam_cap (s : State) (k : Nat) (x) : (s.setTeam k x).cap = s.cap := rfl
@[simp] theorem setTeam_share (s : State) (k : Nat) (x) : (s.setTeam k x).share = s.share := rfl
@[simp] theorem setTeam_snpSeq (s : State) (k : Nat) (x) : (s.setTeam k x).snpSeq = s.snpSeq := rfl
@[simp] theorem setTeam_snpAddr (s : State) (k : Nat) (x) : (s.setTeam k x).snpAddr = s.snpAddr := rfl
@[simp] theorem setTeam_snap (s : State) (k : Nat) (x) : (s.setTeam k x).snap = s.snap := rfl
@[simp] theorem setTeam_log (s : State) (k : Nat) (x) : (s.setTeam k x).log = s.log := rfl
@[simp] theorem setTeam_logHeld (s : State) (k : Nat) (x) : (s.setTeam k x).logHeld = s.logHeld := rfl
@[simp] theorem setTeam_logSeq (s : State) (k : Nat) (x) : (s.setTeam k x).logSeq = s.logSeq := rfl
@[simp] theorem setTeam_rndKind (s : State) (k : Nat) (x) : (s.setTeam k x).rndKind = s.rndKind := rfl
@[simp] theorem setTeam_rndPhase (s : State) (k : Nat) (x) : (s.setTeam k x).rndPhase = s.rndPhase := rfl
@[simp] theorem setTeam_resets (s : State) (k : Nat) (x) : (s.setTeam k x).resets = s.resets := rfl
@[simp] theorem setTeam_expSeq (s : State) (k : Nat) (x) : (s.setTeam k x).expSeq = s.expSeq := rfl
@[simp] theorem setTeam_sweeps (s : State) (k : Nat) (x) : (s.setTeam k x).sweeps = s.sweeps := rfl
@[simp] theorem setTeam_touched (s : State) (k : Nat) (x) : (s.setTeam k x).touched = s.touched := rfl
@[simp] theorem setTeam_keys (s : State) (k : Nat) (x) : (s.setTeam k x).keys = s.keys := rfl
@[simp] theorem setTeam_keyIds (s : State) (k : Nat) (x) : (s.setTeam k x).keyIds = s.keyIds := rfl
@[simp] theorem setTeam_sealKey (s : State) (k : Nat) (x) : (s.setTeam k x).sealKey = s.sealKey := rfl
@[simp] theorem setTeam_stackCopy (s : State) (k : Nat) (x) : (s.setTeam k x).stackCopy = s.stackCopy := rfl
@[simp] theorem setTeam_outbox (s : State) (k : Nat) (x) : (s.setTeam k x).outbox = s.outbox := rfl
@[simp] theorem setTeam_irqs (s : State) (k : Nat) (x) : (s.setTeam k x).irqs = s.irqs := rfl

/-! ## setPart -/

@[simp] theorem setPart_coreSt (s : State) (k : Nat) (x) (j : Nat) : (s.setPart k x).coreSt j = s.coreSt j := rfl
@[simp] theorem setPart_stackSt (s : State) (k : Nat) (x) (j : Nat) : (s.setPart k x).stackSt j = s.stackSt j := rfl
@[simp] theorem setPart_dieSt (s : State) (k : Nat) (x) (j : Nat) : (s.setPart k x).dieSt j = s.dieSt j := rfl
@[simp] theorem setPart_ctx (s : State) (k : Nat) (x) (j : Nat) : (s.setPart k x).ctx j = s.ctx j := rfl
@[simp] theorem setPart_queue (s : State) (k : Nat) (x) (j : Nat) : (s.setPart k x).queue j = s.queue j := rfl
@[simp] theorem setPart_link (s : State) (k : Nat) (x) (j : Nat) : (s.setPart k x).link j = s.link j := rfl
@[simp] theorem setPart_dom (s : State) (k : Nat) (x) (j : Nat) : (s.setPart k x).dom j = s.dom j := rfl
@[simp] theorem setPart_vf (s : State) (k : Nat) (x) (j : Nat) : (s.setPart k x).vf j = s.vf j := rfl
@[simp] theorem setPart_chan (s : State) (k : Nat) (x) (j : Nat) : (s.setPart k x).chan j = s.chan j := rfl
@[simp] theorem setPart_ring (s : State) (k : Nat) (x) (j : Nat) : (s.setPart k x).ring j = s.ring j := rfl
@[simp] theorem setPart_scoreOf (s : State) (k : Nat) (x) (j : Nat) : (s.setPart k x).scoreOf j = s.scoreOf j := rfl
@[simp] theorem setPart_kern (s : State) (k : Nat) (x) (j : Nat) : (s.setPart k x).kern j = s.kern j := rfl
@[simp] theorem setPart_team (s : State) (k : Nat) (x) (j : Nat) : (s.setPart k x).team j = s.team j := rfl
@[simp] theorem setPart_agenda (s : State) (k : Nat) (x) : (s.setPart k x).agenda = s.agenda := rfl
@[simp] theorem setPart_cur (s : State) (k : Nat) (x) : (s.setPart k x).cur = s.cur := rfl
@[simp] theorem setPart_pair (s : State) (k : Nat) (x) : (s.setPart k x).pair = s.pair := rfl
@[simp] theorem setPart_free (s : State) (k : Nat) (x) : (s.setPart k x).free = s.free := rfl
@[simp] theorem setPart_next (s : State) (k : Nat) (x) : (s.setPart k x).next = s.next := rfl
@[simp] theorem setPart_groups (s : State) (k : Nat) (x) : (s.setPart k x).groups = s.groups := rfl
@[simp] theorem setPart_acc (s : State) (k : Nat) (x) : (s.setPart k x).acc = s.acc := rfl
@[simp] theorem setPart_mats (s : State) (k : Nat) (x) : (s.setPart k x).mats = s.mats := rfl
@[simp] theorem setPart_copies (s : State) (k : Nat) (x) : (s.setPart k x).copies = s.copies := rfl
@[simp] theorem setPart_colls (s : State) (k : Nat) (x) : (s.setPart k x).colls = s.colls := rfl
@[simp] theorem setPart_teams (s : State) (k : Nat) (x) : (s.setPart k x).teams = s.teams := rfl
@[simp] theorem setPart_kernels (s : State) (k : Nat) (x) : (s.setPart k x).kernels = s.kernels := rfl
@[simp] theorem setPart_mem (s : State) (k : Nat) (x) : (s.setPart k x).mem = s.mem := rfl
@[simp] theorem setPart_sram (s : State) (k : Nat) (x) : (s.setPart k x).sram = s.sram := rfl
@[simp] theorem setPart_tile (s : State) (k : Nat) (x) : (s.setPart k x).tile = s.tile := rfl
@[simp] theorem setPart_poison (s : State) (k : Nat) (x) : (s.setPart k x).poison = s.poison := rfl
@[simp] theorem setPart_sramPoison (s : State) (k : Nat) (x) : (s.setPart k x).sramPoison = s.sramPoison := rfl
@[simp] theorem setPart_tilePoison (s : State) (k : Nat) (x) : (s.setPart k x).tilePoison = s.tilePoison := rfl
@[simp] theorem setPart_l1 (s : State) (k : Nat) (x) : (s.setPart k x).l1 = s.l1 := rfl
@[simp] theorem setPart_tlb (s : State) (k : Nat) (x) : (s.setPart k x).tlb = s.tlb := rfl
@[simp] theorem setPart_l2 (s : State) (k : Nat) (x) : (s.setPart k x).l2 = s.l2 := rfl
@[simp] theorem setPart_cores (s : State) (k : Nat) (x) : (s.setPart k x).cores = s.cores := rfl
@[simp] theorem setPart_stks (s : State) (k : Nat) (x) : (s.setPart k x).stks = s.stks := rfl
@[simp] theorem setPart_dies (s : State) (k : Nat) (x) : (s.setPart k x).dies = s.dies := rfl
@[simp] theorem setPart_regEvents (s : State) (k : Nat) (x) : (s.setPart k x).regEvents = s.regEvents := rfl
@[simp] theorem setPart_matStall (s : State) (k : Nat) (x) : (s.setPart k x).matStall = s.matStall := rfl
@[simp] theorem setPart_allow (s : State) (k : Nat) (x) : (s.setPart k x).allow = s.allow := rfl
@[simp] theorem setPart_ctxs (s : State) (k : Nat) (x) : (s.setPart k x).ctxs = s.ctxs := rfl
@[simp] theorem setPart_queues (s : State) (k : Nat) (x) : (s.setPart k x).queues = s.queues := rfl
@[simp] theorem setPart_sets (s : State) (k : Nat) (x) : (s.setPart k x).sets = s.sets := rfl
@[simp] theorem setPart_lastDie (s : State) (k : Nat) (x) : (s.setPart k x).lastDie = s.lastDie := rfl
@[simp] theorem setPart_rot (s : State) (k : Nat) (x) : (s.setPart k x).rot = s.rot := rfl
@[simp] theorem setPart_headClock (s : State) (k : Nat) (x) : (s.setPart k x).headClock = s.headClock := rfl
@[simp] theorem setPart_replies (s : State) (k : Nat) (x) : (s.setPart k x).replies = s.replies := rfl
@[simp] theorem setPart_dbarHeld (s : State) (k : Nat) (x) : (s.setPart k x).dbarHeld = s.dbarHeld := rfl
@[simp] theorem setPart_rings (s : State) (k : Nat) (x) : (s.setPart k x).rings = s.rings := rfl
@[simp] theorem setPart_invals (s : State) (k : Nat) (x) : (s.setPart k x).invals = s.invals := rfl
@[simp] theorem setPart_migrs (s : State) (k : Nat) (x) : (s.setPart k x).migrs = s.migrs := rfl
@[simp] theorem setPart_links (s : State) (k : Nat) (x) : (s.setPart k x).links = s.links := rfl
@[simp] theorem setPart_heldFlits (s : State) (k : Nat) (x) : (s.setPart k x).heldFlits = s.heldFlits := rfl
@[simp] theorem setPart_routes (s : State) (k : Nat) (x) : (s.setPart k x).routes = s.routes := rfl
@[simp] theorem setPart_doms (s : State) (k : Nat) (x) : (s.setPart k x).doms = s.doms := rfl
@[simp] theorem setPart_chans (s : State) (k : Nat) (x) : (s.setPart k x).chans = s.chans := rfl
@[simp] theorem setPart_vfs (s : State) (k : Nat) (x) : (s.setPart k x).vfs = s.vfs := rfl
@[simp] theorem setPart_errs (s : State) (k : Nat) (x) : (s.setPart k x).errs = s.errs := rfl
@[simp] theorem setPart_scores (s : State) (k : Nat) (x) : (s.setPart k x).scores = s.scores := rfl
@[simp] theorem setPart_cap (s : State) (k : Nat) (x) : (s.setPart k x).cap = s.cap := rfl
@[simp] theorem setPart_share (s : State) (k : Nat) (x) : (s.setPart k x).share = s.share := rfl
@[simp] theorem setPart_snpSeq (s : State) (k : Nat) (x) : (s.setPart k x).snpSeq = s.snpSeq := rfl
@[simp] theorem setPart_snpAddr (s : State) (k : Nat) (x) : (s.setPart k x).snpAddr = s.snpAddr := rfl
@[simp] theorem setPart_snap (s : State) (k : Nat) (x) : (s.setPart k x).snap = s.snap := rfl
@[simp] theorem setPart_log (s : State) (k : Nat) (x) : (s.setPart k x).log = s.log := rfl
@[simp] theorem setPart_logHeld (s : State) (k : Nat) (x) : (s.setPart k x).logHeld = s.logHeld := rfl
@[simp] theorem setPart_logSeq (s : State) (k : Nat) (x) : (s.setPart k x).logSeq = s.logSeq := rfl
@[simp] theorem setPart_rndKind (s : State) (k : Nat) (x) : (s.setPart k x).rndKind = s.rndKind := rfl
@[simp] theorem setPart_rndPhase (s : State) (k : Nat) (x) : (s.setPart k x).rndPhase = s.rndPhase := rfl
@[simp] theorem setPart_resets (s : State) (k : Nat) (x) : (s.setPart k x).resets = s.resets := rfl
@[simp] theorem setPart_expSeq (s : State) (k : Nat) (x) : (s.setPart k x).expSeq = s.expSeq := rfl
@[simp] theorem setPart_sweeps (s : State) (k : Nat) (x) : (s.setPart k x).sweeps = s.sweeps := rfl
@[simp] theorem setPart_touched (s : State) (k : Nat) (x) : (s.setPart k x).touched = s.touched := rfl
@[simp] theorem setPart_keys (s : State) (k : Nat) (x) : (s.setPart k x).keys = s.keys := rfl
@[simp] theorem setPart_keyIds (s : State) (k : Nat) (x) : (s.setPart k x).keyIds = s.keyIds := rfl
@[simp] theorem setPart_sealKey (s : State) (k : Nat) (x) : (s.setPart k x).sealKey = s.sealKey := rfl
@[simp] theorem setPart_stackCopy (s : State) (k : Nat) (x) : (s.setPart k x).stackCopy = s.stackCopy := rfl
@[simp] theorem setPart_outbox (s : State) (k : Nat) (x) : (s.setPart k x).outbox = s.outbox := rfl
@[simp] theorem setPart_irqs (s : State) (k : Nat) (x) : (s.setPart k x).irqs = s.irqs := rfl

/-! ## setGroup -/

@[simp] theorem setGroup_coreSt (s : State) (c k : Nat) (x) (j : Nat) : (s.setGroup c k x).coreSt j = s.coreSt j := rfl
@[simp] theorem setGroup_stackSt (s : State) (c k : Nat) (x) (j : Nat) : (s.setGroup c k x).stackSt j = s.stackSt j := rfl
@[simp] theorem setGroup_dieSt (s : State) (c k : Nat) (x) (j : Nat) : (s.setGroup c k x).dieSt j = s.dieSt j := rfl
@[simp] theorem setGroup_ctx (s : State) (c k : Nat) (x) (j : Nat) : (s.setGroup c k x).ctx j = s.ctx j := rfl
@[simp] theorem setGroup_queue (s : State) (c k : Nat) (x) (j : Nat) : (s.setGroup c k x).queue j = s.queue j := rfl
@[simp] theorem setGroup_link (s : State) (c k : Nat) (x) (j : Nat) : (s.setGroup c k x).link j = s.link j := rfl
@[simp] theorem setGroup_dom (s : State) (c k : Nat) (x) (j : Nat) : (s.setGroup c k x).dom j = s.dom j := rfl
@[simp] theorem setGroup_vf (s : State) (c k : Nat) (x) (j : Nat) : (s.setGroup c k x).vf j = s.vf j := rfl
@[simp] theorem setGroup_chan (s : State) (c k : Nat) (x) (j : Nat) : (s.setGroup c k x).chan j = s.chan j := rfl
@[simp] theorem setGroup_ring (s : State) (c k : Nat) (x) (j : Nat) : (s.setGroup c k x).ring j = s.ring j := rfl
@[simp] theorem setGroup_scoreOf (s : State) (c k : Nat) (x) (j : Nat) : (s.setGroup c k x).scoreOf j = s.scoreOf j := rfl
@[simp] theorem setGroup_kern (s : State) (c k : Nat) (x) (j : Nat) : (s.setGroup c k x).kern j = s.kern j := rfl
@[simp] theorem setGroup_team (s : State) (c k : Nat) (x) (j : Nat) : (s.setGroup c k x).team j = s.team j := rfl
@[simp] theorem setGroup_part (s : State) (c k : Nat) (x) (j : Nat) : (s.setGroup c k x).part j = s.part j := rfl
@[simp] theorem setGroup_agenda (s : State) (c k : Nat) (x) : (s.setGroup c k x).agenda = s.agenda := rfl
@[simp] theorem setGroup_cur (s : State) (c k : Nat) (x) : (s.setGroup c k x).cur = s.cur := rfl
@[simp] theorem setGroup_pair (s : State) (c k : Nat) (x) : (s.setGroup c k x).pair = s.pair := rfl
@[simp] theorem setGroup_free (s : State) (c k : Nat) (x) : (s.setGroup c k x).free = s.free := rfl
@[simp] theorem setGroup_next (s : State) (c k : Nat) (x) : (s.setGroup c k x).next = s.next := rfl
@[simp] theorem setGroup_acc (s : State) (c k : Nat) (x) : (s.setGroup c k x).acc = s.acc := rfl
@[simp] theorem setGroup_mats (s : State) (c k : Nat) (x) : (s.setGroup c k x).mats = s.mats := rfl
@[simp] theorem setGroup_copies (s : State) (c k : Nat) (x) : (s.setGroup c k x).copies = s.copies := rfl
@[simp] theorem setGroup_colls (s : State) (c k : Nat) (x) : (s.setGroup c k x).colls = s.colls := rfl
@[simp] theorem setGroup_teams (s : State) (c k : Nat) (x) : (s.setGroup c k x).teams = s.teams := rfl
@[simp] theorem setGroup_kernels (s : State) (c k : Nat) (x) : (s.setGroup c k x).kernels = s.kernels := rfl
@[simp] theorem setGroup_mem (s : State) (c k : Nat) (x) : (s.setGroup c k x).mem = s.mem := rfl
@[simp] theorem setGroup_sram (s : State) (c k : Nat) (x) : (s.setGroup c k x).sram = s.sram := rfl
@[simp] theorem setGroup_tile (s : State) (c k : Nat) (x) : (s.setGroup c k x).tile = s.tile := rfl
@[simp] theorem setGroup_poison (s : State) (c k : Nat) (x) : (s.setGroup c k x).poison = s.poison := rfl
@[simp] theorem setGroup_sramPoison (s : State) (c k : Nat) (x) : (s.setGroup c k x).sramPoison = s.sramPoison := rfl
@[simp] theorem setGroup_tilePoison (s : State) (c k : Nat) (x) : (s.setGroup c k x).tilePoison = s.tilePoison := rfl
@[simp] theorem setGroup_l1 (s : State) (c k : Nat) (x) : (s.setGroup c k x).l1 = s.l1 := rfl
@[simp] theorem setGroup_tlb (s : State) (c k : Nat) (x) : (s.setGroup c k x).tlb = s.tlb := rfl
@[simp] theorem setGroup_l2 (s : State) (c k : Nat) (x) : (s.setGroup c k x).l2 = s.l2 := rfl
@[simp] theorem setGroup_cores (s : State) (c k : Nat) (x) : (s.setGroup c k x).cores = s.cores := rfl
@[simp] theorem setGroup_stks (s : State) (c k : Nat) (x) : (s.setGroup c k x).stks = s.stks := rfl
@[simp] theorem setGroup_dies (s : State) (c k : Nat) (x) : (s.setGroup c k x).dies = s.dies := rfl
@[simp] theorem setGroup_regEvents (s : State) (c k : Nat) (x) : (s.setGroup c k x).regEvents = s.regEvents := rfl
@[simp] theorem setGroup_matStall (s : State) (c k : Nat) (x) : (s.setGroup c k x).matStall = s.matStall := rfl
@[simp] theorem setGroup_allow (s : State) (c k : Nat) (x) : (s.setGroup c k x).allow = s.allow := rfl
@[simp] theorem setGroup_ctxs (s : State) (c k : Nat) (x) : (s.setGroup c k x).ctxs = s.ctxs := rfl
@[simp] theorem setGroup_queues (s : State) (c k : Nat) (x) : (s.setGroup c k x).queues = s.queues := rfl
@[simp] theorem setGroup_sets (s : State) (c k : Nat) (x) : (s.setGroup c k x).sets = s.sets := rfl
@[simp] theorem setGroup_lastDie (s : State) (c k : Nat) (x) : (s.setGroup c k x).lastDie = s.lastDie := rfl
@[simp] theorem setGroup_rot (s : State) (c k : Nat) (x) : (s.setGroup c k x).rot = s.rot := rfl
@[simp] theorem setGroup_headClock (s : State) (c k : Nat) (x) : (s.setGroup c k x).headClock = s.headClock := rfl
@[simp] theorem setGroup_replies (s : State) (c k : Nat) (x) : (s.setGroup c k x).replies = s.replies := rfl
@[simp] theorem setGroup_dbarHeld (s : State) (c k : Nat) (x) : (s.setGroup c k x).dbarHeld = s.dbarHeld := rfl
@[simp] theorem setGroup_rings (s : State) (c k : Nat) (x) : (s.setGroup c k x).rings = s.rings := rfl
@[simp] theorem setGroup_invals (s : State) (c k : Nat) (x) : (s.setGroup c k x).invals = s.invals := rfl
@[simp] theorem setGroup_migrs (s : State) (c k : Nat) (x) : (s.setGroup c k x).migrs = s.migrs := rfl
@[simp] theorem setGroup_links (s : State) (c k : Nat) (x) : (s.setGroup c k x).links = s.links := rfl
@[simp] theorem setGroup_heldFlits (s : State) (c k : Nat) (x) : (s.setGroup c k x).heldFlits = s.heldFlits := rfl
@[simp] theorem setGroup_routes (s : State) (c k : Nat) (x) : (s.setGroup c k x).routes = s.routes := rfl
@[simp] theorem setGroup_doms (s : State) (c k : Nat) (x) : (s.setGroup c k x).doms = s.doms := rfl
@[simp] theorem setGroup_parts (s : State) (c k : Nat) (x) : (s.setGroup c k x).parts = s.parts := rfl
@[simp] theorem setGroup_chans (s : State) (c k : Nat) (x) : (s.setGroup c k x).chans = s.chans := rfl
@[simp] theorem setGroup_vfs (s : State) (c k : Nat) (x) : (s.setGroup c k x).vfs = s.vfs := rfl
@[simp] theorem setGroup_errs (s : State) (c k : Nat) (x) : (s.setGroup c k x).errs = s.errs := rfl
@[simp] theorem setGroup_scores (s : State) (c k : Nat) (x) : (s.setGroup c k x).scores = s.scores := rfl
@[simp] theorem setGroup_cap (s : State) (c k : Nat) (x) : (s.setGroup c k x).cap = s.cap := rfl
@[simp] theorem setGroup_share (s : State) (c k : Nat) (x) : (s.setGroup c k x).share = s.share := rfl
@[simp] theorem setGroup_snpSeq (s : State) (c k : Nat) (x) : (s.setGroup c k x).snpSeq = s.snpSeq := rfl
@[simp] theorem setGroup_snpAddr (s : State) (c k : Nat) (x) : (s.setGroup c k x).snpAddr = s.snpAddr := rfl
@[simp] theorem setGroup_snap (s : State) (c k : Nat) (x) : (s.setGroup c k x).snap = s.snap := rfl
@[simp] theorem setGroup_log (s : State) (c k : Nat) (x) : (s.setGroup c k x).log = s.log := rfl
@[simp] theorem setGroup_logHeld (s : State) (c k : Nat) (x) : (s.setGroup c k x).logHeld = s.logHeld := rfl
@[simp] theorem setGroup_logSeq (s : State) (c k : Nat) (x) : (s.setGroup c k x).logSeq = s.logSeq := rfl
@[simp] theorem setGroup_rndKind (s : State) (c k : Nat) (x) : (s.setGroup c k x).rndKind = s.rndKind := rfl
@[simp] theorem setGroup_rndPhase (s : State) (c k : Nat) (x) : (s.setGroup c k x).rndPhase = s.rndPhase := rfl
@[simp] theorem setGroup_resets (s : State) (c k : Nat) (x) : (s.setGroup c k x).resets = s.resets := rfl
@[simp] theorem setGroup_expSeq (s : State) (c k : Nat) (x) : (s.setGroup c k x).expSeq = s.expSeq := rfl
@[simp] theorem setGroup_sweeps (s : State) (c k : Nat) (x) : (s.setGroup c k x).sweeps = s.sweeps := rfl
@[simp] theorem setGroup_touched (s : State) (c k : Nat) (x) : (s.setGroup c k x).touched = s.touched := rfl
@[simp] theorem setGroup_keys (s : State) (c k : Nat) (x) : (s.setGroup c k x).keys = s.keys := rfl
@[simp] theorem setGroup_keyIds (s : State) (c k : Nat) (x) : (s.setGroup c k x).keyIds = s.keyIds := rfl
@[simp] theorem setGroup_sealKey (s : State) (c k : Nat) (x) : (s.setGroup c k x).sealKey = s.sealKey := rfl
@[simp] theorem setGroup_stackCopy (s : State) (c k : Nat) (x) : (s.setGroup c k x).stackCopy = s.stackCopy := rfl
@[simp] theorem setGroup_outbox (s : State) (c k : Nat) (x) : (s.setGroup c k x).outbox = s.outbox := rfl
@[simp] theorem setGroup_irqs (s : State) (c k : Nat) (x) : (s.setGroup c k x).irqs = s.irqs := rfl

/-! ## dropGroup -/

@[simp] theorem dropGroup_coreSt (s : State) (c k : Nat) (j : Nat) : (s.dropGroup c k).coreSt j = s.coreSt j := rfl
@[simp] theorem dropGroup_stackSt (s : State) (c k : Nat) (j : Nat) : (s.dropGroup c k).stackSt j = s.stackSt j := rfl
@[simp] theorem dropGroup_dieSt (s : State) (c k : Nat) (j : Nat) : (s.dropGroup c k).dieSt j = s.dieSt j := rfl
@[simp] theorem dropGroup_ctx (s : State) (c k : Nat) (j : Nat) : (s.dropGroup c k).ctx j = s.ctx j := rfl
@[simp] theorem dropGroup_queue (s : State) (c k : Nat) (j : Nat) : (s.dropGroup c k).queue j = s.queue j := rfl
@[simp] theorem dropGroup_link (s : State) (c k : Nat) (j : Nat) : (s.dropGroup c k).link j = s.link j := rfl
@[simp] theorem dropGroup_dom (s : State) (c k : Nat) (j : Nat) : (s.dropGroup c k).dom j = s.dom j := rfl
@[simp] theorem dropGroup_vf (s : State) (c k : Nat) (j : Nat) : (s.dropGroup c k).vf j = s.vf j := rfl
@[simp] theorem dropGroup_chan (s : State) (c k : Nat) (j : Nat) : (s.dropGroup c k).chan j = s.chan j := rfl
@[simp] theorem dropGroup_ring (s : State) (c k : Nat) (j : Nat) : (s.dropGroup c k).ring j = s.ring j := rfl
@[simp] theorem dropGroup_scoreOf (s : State) (c k : Nat) (j : Nat) : (s.dropGroup c k).scoreOf j = s.scoreOf j := rfl
@[simp] theorem dropGroup_kern (s : State) (c k : Nat) (j : Nat) : (s.dropGroup c k).kern j = s.kern j := rfl
@[simp] theorem dropGroup_team (s : State) (c k : Nat) (j : Nat) : (s.dropGroup c k).team j = s.team j := rfl
@[simp] theorem dropGroup_part (s : State) (c k : Nat) (j : Nat) : (s.dropGroup c k).part j = s.part j := rfl
@[simp] theorem dropGroup_agenda (s : State) (c k : Nat) : (s.dropGroup c k).agenda = s.agenda := rfl
@[simp] theorem dropGroup_cur (s : State) (c k : Nat) : (s.dropGroup c k).cur = s.cur := rfl
@[simp] theorem dropGroup_pair (s : State) (c k : Nat) : (s.dropGroup c k).pair = s.pair := rfl
@[simp] theorem dropGroup_free (s : State) (c k : Nat) : (s.dropGroup c k).free = s.free := rfl
@[simp] theorem dropGroup_next (s : State) (c k : Nat) : (s.dropGroup c k).next = s.next := rfl
@[simp] theorem dropGroup_acc (s : State) (c k : Nat) : (s.dropGroup c k).acc = s.acc := rfl
@[simp] theorem dropGroup_mats (s : State) (c k : Nat) : (s.dropGroup c k).mats = s.mats := rfl
@[simp] theorem dropGroup_copies (s : State) (c k : Nat) : (s.dropGroup c k).copies = s.copies := rfl
@[simp] theorem dropGroup_colls (s : State) (c k : Nat) : (s.dropGroup c k).colls = s.colls := rfl
@[simp] theorem dropGroup_teams (s : State) (c k : Nat) : (s.dropGroup c k).teams = s.teams := rfl
@[simp] theorem dropGroup_kernels (s : State) (c k : Nat) : (s.dropGroup c k).kernels = s.kernels := rfl
@[simp] theorem dropGroup_mem (s : State) (c k : Nat) : (s.dropGroup c k).mem = s.mem := rfl
@[simp] theorem dropGroup_sram (s : State) (c k : Nat) : (s.dropGroup c k).sram = s.sram := rfl
@[simp] theorem dropGroup_tile (s : State) (c k : Nat) : (s.dropGroup c k).tile = s.tile := rfl
@[simp] theorem dropGroup_poison (s : State) (c k : Nat) : (s.dropGroup c k).poison = s.poison := rfl
@[simp] theorem dropGroup_sramPoison (s : State) (c k : Nat) : (s.dropGroup c k).sramPoison = s.sramPoison := rfl
@[simp] theorem dropGroup_tilePoison (s : State) (c k : Nat) : (s.dropGroup c k).tilePoison = s.tilePoison := rfl
@[simp] theorem dropGroup_l1 (s : State) (c k : Nat) : (s.dropGroup c k).l1 = s.l1 := rfl
@[simp] theorem dropGroup_tlb (s : State) (c k : Nat) : (s.dropGroup c k).tlb = s.tlb := rfl
@[simp] theorem dropGroup_l2 (s : State) (c k : Nat) : (s.dropGroup c k).l2 = s.l2 := rfl
@[simp] theorem dropGroup_cores (s : State) (c k : Nat) : (s.dropGroup c k).cores = s.cores := rfl
@[simp] theorem dropGroup_stks (s : State) (c k : Nat) : (s.dropGroup c k).stks = s.stks := rfl
@[simp] theorem dropGroup_dies (s : State) (c k : Nat) : (s.dropGroup c k).dies = s.dies := rfl
@[simp] theorem dropGroup_regEvents (s : State) (c k : Nat) : (s.dropGroup c k).regEvents = s.regEvents := rfl
@[simp] theorem dropGroup_matStall (s : State) (c k : Nat) : (s.dropGroup c k).matStall = s.matStall := rfl
@[simp] theorem dropGroup_allow (s : State) (c k : Nat) : (s.dropGroup c k).allow = s.allow := rfl
@[simp] theorem dropGroup_ctxs (s : State) (c k : Nat) : (s.dropGroup c k).ctxs = s.ctxs := rfl
@[simp] theorem dropGroup_queues (s : State) (c k : Nat) : (s.dropGroup c k).queues = s.queues := rfl
@[simp] theorem dropGroup_sets (s : State) (c k : Nat) : (s.dropGroup c k).sets = s.sets := rfl
@[simp] theorem dropGroup_lastDie (s : State) (c k : Nat) : (s.dropGroup c k).lastDie = s.lastDie := rfl
@[simp] theorem dropGroup_rot (s : State) (c k : Nat) : (s.dropGroup c k).rot = s.rot := rfl
@[simp] theorem dropGroup_headClock (s : State) (c k : Nat) : (s.dropGroup c k).headClock = s.headClock := rfl
@[simp] theorem dropGroup_replies (s : State) (c k : Nat) : (s.dropGroup c k).replies = s.replies := rfl
@[simp] theorem dropGroup_dbarHeld (s : State) (c k : Nat) : (s.dropGroup c k).dbarHeld = s.dbarHeld := rfl
@[simp] theorem dropGroup_rings (s : State) (c k : Nat) : (s.dropGroup c k).rings = s.rings := rfl
@[simp] theorem dropGroup_invals (s : State) (c k : Nat) : (s.dropGroup c k).invals = s.invals := rfl
@[simp] theorem dropGroup_migrs (s : State) (c k : Nat) : (s.dropGroup c k).migrs = s.migrs := rfl
@[simp] theorem dropGroup_links (s : State) (c k : Nat) : (s.dropGroup c k).links = s.links := rfl
@[simp] theorem dropGroup_heldFlits (s : State) (c k : Nat) : (s.dropGroup c k).heldFlits = s.heldFlits := rfl
@[simp] theorem dropGroup_routes (s : State) (c k : Nat) : (s.dropGroup c k).routes = s.routes := rfl
@[simp] theorem dropGroup_doms (s : State) (c k : Nat) : (s.dropGroup c k).doms = s.doms := rfl
@[simp] theorem dropGroup_parts (s : State) (c k : Nat) : (s.dropGroup c k).parts = s.parts := rfl
@[simp] theorem dropGroup_chans (s : State) (c k : Nat) : (s.dropGroup c k).chans = s.chans := rfl
@[simp] theorem dropGroup_vfs (s : State) (c k : Nat) : (s.dropGroup c k).vfs = s.vfs := rfl
@[simp] theorem dropGroup_errs (s : State) (c k : Nat) : (s.dropGroup c k).errs = s.errs := rfl
@[simp] theorem dropGroup_scores (s : State) (c k : Nat) : (s.dropGroup c k).scores = s.scores := rfl
@[simp] theorem dropGroup_cap (s : State) (c k : Nat) : (s.dropGroup c k).cap = s.cap := rfl
@[simp] theorem dropGroup_share (s : State) (c k : Nat) : (s.dropGroup c k).share = s.share := rfl
@[simp] theorem dropGroup_snpSeq (s : State) (c k : Nat) : (s.dropGroup c k).snpSeq = s.snpSeq := rfl
@[simp] theorem dropGroup_snpAddr (s : State) (c k : Nat) : (s.dropGroup c k).snpAddr = s.snpAddr := rfl
@[simp] theorem dropGroup_snap (s : State) (c k : Nat) : (s.dropGroup c k).snap = s.snap := rfl
@[simp] theorem dropGroup_log (s : State) (c k : Nat) : (s.dropGroup c k).log = s.log := rfl
@[simp] theorem dropGroup_logHeld (s : State) (c k : Nat) : (s.dropGroup c k).logHeld = s.logHeld := rfl
@[simp] theorem dropGroup_logSeq (s : State) (c k : Nat) : (s.dropGroup c k).logSeq = s.logSeq := rfl
@[simp] theorem dropGroup_rndKind (s : State) (c k : Nat) : (s.dropGroup c k).rndKind = s.rndKind := rfl
@[simp] theorem dropGroup_rndPhase (s : State) (c k : Nat) : (s.dropGroup c k).rndPhase = s.rndPhase := rfl
@[simp] theorem dropGroup_resets (s : State) (c k : Nat) : (s.dropGroup c k).resets = s.resets := rfl
@[simp] theorem dropGroup_expSeq (s : State) (c k : Nat) : (s.dropGroup c k).expSeq = s.expSeq := rfl
@[simp] theorem dropGroup_sweeps (s : State) (c k : Nat) : (s.dropGroup c k).sweeps = s.sweeps := rfl
@[simp] theorem dropGroup_touched (s : State) (c k : Nat) : (s.dropGroup c k).touched = s.touched := rfl
@[simp] theorem dropGroup_keys (s : State) (c k : Nat) : (s.dropGroup c k).keys = s.keys := rfl
@[simp] theorem dropGroup_keyIds (s : State) (c k : Nat) : (s.dropGroup c k).keyIds = s.keyIds := rfl
@[simp] theorem dropGroup_sealKey (s : State) (c k : Nat) : (s.dropGroup c k).sealKey = s.sealKey := rfl
@[simp] theorem dropGroup_stackCopy (s : State) (c k : Nat) : (s.dropGroup c k).stackCopy = s.stackCopy := rfl
@[simp] theorem dropGroup_outbox (s : State) (c k : Nat) : (s.dropGroup c k).outbox = s.outbox := rfl
@[simp] theorem dropGroup_irqs (s : State) (c k : Nat) : (s.dropGroup c k).irqs = s.irqs := rfl

/-! ## countErr -/

@[simp] theorem countErr_coreSt (s : State) (p e : Nat) (j : Nat) : (s.countErr p e).coreSt j = s.coreSt j := rfl
@[simp] theorem countErr_stackSt (s : State) (p e : Nat) (j : Nat) : (s.countErr p e).stackSt j = s.stackSt j := rfl
@[simp] theorem countErr_dieSt (s : State) (p e : Nat) (j : Nat) : (s.countErr p e).dieSt j = s.dieSt j := rfl
@[simp] theorem countErr_ctx (s : State) (p e : Nat) (j : Nat) : (s.countErr p e).ctx j = s.ctx j := rfl
@[simp] theorem countErr_queue (s : State) (p e : Nat) (j : Nat) : (s.countErr p e).queue j = s.queue j := rfl
@[simp] theorem countErr_link (s : State) (p e : Nat) (j : Nat) : (s.countErr p e).link j = s.link j := rfl
@[simp] theorem countErr_dom (s : State) (p e : Nat) (j : Nat) : (s.countErr p e).dom j = s.dom j := rfl
@[simp] theorem countErr_vf (s : State) (p e : Nat) (j : Nat) : (s.countErr p e).vf j = s.vf j := rfl
@[simp] theorem countErr_chan (s : State) (p e : Nat) (j : Nat) : (s.countErr p e).chan j = s.chan j := rfl
@[simp] theorem countErr_ring (s : State) (p e : Nat) (j : Nat) : (s.countErr p e).ring j = s.ring j := rfl
@[simp] theorem countErr_scoreOf (s : State) (p e : Nat) (j : Nat) : (s.countErr p e).scoreOf j = s.scoreOf j := rfl
@[simp] theorem countErr_kern (s : State) (p e : Nat) (j : Nat) : (s.countErr p e).kern j = s.kern j := rfl
@[simp] theorem countErr_team (s : State) (p e : Nat) (j : Nat) : (s.countErr p e).team j = s.team j := rfl
@[simp] theorem countErr_part (s : State) (p e : Nat) (j : Nat) : (s.countErr p e).part j = s.part j := rfl
@[simp] theorem countErr_agenda (s : State) (p e : Nat) : (s.countErr p e).agenda = s.agenda := rfl
@[simp] theorem countErr_cur (s : State) (p e : Nat) : (s.countErr p e).cur = s.cur := rfl
@[simp] theorem countErr_pair (s : State) (p e : Nat) : (s.countErr p e).pair = s.pair := rfl
@[simp] theorem countErr_free (s : State) (p e : Nat) : (s.countErr p e).free = s.free := rfl
@[simp] theorem countErr_next (s : State) (p e : Nat) : (s.countErr p e).next = s.next := rfl
@[simp] theorem countErr_groups (s : State) (p e : Nat) : (s.countErr p e).groups = s.groups := rfl
@[simp] theorem countErr_acc (s : State) (p e : Nat) : (s.countErr p e).acc = s.acc := rfl
@[simp] theorem countErr_mats (s : State) (p e : Nat) : (s.countErr p e).mats = s.mats := rfl
@[simp] theorem countErr_copies (s : State) (p e : Nat) : (s.countErr p e).copies = s.copies := rfl
@[simp] theorem countErr_colls (s : State) (p e : Nat) : (s.countErr p e).colls = s.colls := rfl
@[simp] theorem countErr_teams (s : State) (p e : Nat) : (s.countErr p e).teams = s.teams := rfl
@[simp] theorem countErr_kernels (s : State) (p e : Nat) : (s.countErr p e).kernels = s.kernels := rfl
@[simp] theorem countErr_mem (s : State) (p e : Nat) : (s.countErr p e).mem = s.mem := rfl
@[simp] theorem countErr_sram (s : State) (p e : Nat) : (s.countErr p e).sram = s.sram := rfl
@[simp] theorem countErr_tile (s : State) (p e : Nat) : (s.countErr p e).tile = s.tile := rfl
@[simp] theorem countErr_poison (s : State) (p e : Nat) : (s.countErr p e).poison = s.poison := rfl
@[simp] theorem countErr_sramPoison (s : State) (p e : Nat) : (s.countErr p e).sramPoison = s.sramPoison := rfl
@[simp] theorem countErr_tilePoison (s : State) (p e : Nat) : (s.countErr p e).tilePoison = s.tilePoison := rfl
@[simp] theorem countErr_l1 (s : State) (p e : Nat) : (s.countErr p e).l1 = s.l1 := rfl
@[simp] theorem countErr_tlb (s : State) (p e : Nat) : (s.countErr p e).tlb = s.tlb := rfl
@[simp] theorem countErr_l2 (s : State) (p e : Nat) : (s.countErr p e).l2 = s.l2 := rfl
@[simp] theorem countErr_cores (s : State) (p e : Nat) : (s.countErr p e).cores = s.cores := rfl
@[simp] theorem countErr_stks (s : State) (p e : Nat) : (s.countErr p e).stks = s.stks := rfl
@[simp] theorem countErr_dies (s : State) (p e : Nat) : (s.countErr p e).dies = s.dies := rfl
@[simp] theorem countErr_regEvents (s : State) (p e : Nat) : (s.countErr p e).regEvents = s.regEvents := rfl
@[simp] theorem countErr_matStall (s : State) (p e : Nat) : (s.countErr p e).matStall = s.matStall := rfl
@[simp] theorem countErr_allow (s : State) (p e : Nat) : (s.countErr p e).allow = s.allow := rfl
@[simp] theorem countErr_ctxs (s : State) (p e : Nat) : (s.countErr p e).ctxs = s.ctxs := rfl
@[simp] theorem countErr_queues (s : State) (p e : Nat) : (s.countErr p e).queues = s.queues := rfl
@[simp] theorem countErr_sets (s : State) (p e : Nat) : (s.countErr p e).sets = s.sets := rfl
@[simp] theorem countErr_lastDie (s : State) (p e : Nat) : (s.countErr p e).lastDie = s.lastDie := rfl
@[simp] theorem countErr_rot (s : State) (p e : Nat) : (s.countErr p e).rot = s.rot := rfl
@[simp] theorem countErr_headClock (s : State) (p e : Nat) : (s.countErr p e).headClock = s.headClock := rfl
@[simp] theorem countErr_replies (s : State) (p e : Nat) : (s.countErr p e).replies = s.replies := rfl
@[simp] theorem countErr_dbarHeld (s : State) (p e : Nat) : (s.countErr p e).dbarHeld = s.dbarHeld := rfl
@[simp] theorem countErr_rings (s : State) (p e : Nat) : (s.countErr p e).rings = s.rings := rfl
@[simp] theorem countErr_invals (s : State) (p e : Nat) : (s.countErr p e).invals = s.invals := rfl
@[simp] theorem countErr_migrs (s : State) (p e : Nat) : (s.countErr p e).migrs = s.migrs := rfl
@[simp] theorem countErr_links (s : State) (p e : Nat) : (s.countErr p e).links = s.links := rfl
@[simp] theorem countErr_heldFlits (s : State) (p e : Nat) : (s.countErr p e).heldFlits = s.heldFlits := rfl
@[simp] theorem countErr_routes (s : State) (p e : Nat) : (s.countErr p e).routes = s.routes := rfl
@[simp] theorem countErr_doms (s : State) (p e : Nat) : (s.countErr p e).doms = s.doms := rfl
@[simp] theorem countErr_parts (s : State) (p e : Nat) : (s.countErr p e).parts = s.parts := rfl
@[simp] theorem countErr_chans (s : State) (p e : Nat) : (s.countErr p e).chans = s.chans := rfl
@[simp] theorem countErr_vfs (s : State) (p e : Nat) : (s.countErr p e).vfs = s.vfs := rfl
@[simp] theorem countErr_scores (s : State) (p e : Nat) : (s.countErr p e).scores = s.scores := rfl
@[simp] theorem countErr_cap (s : State) (p e : Nat) : (s.countErr p e).cap = s.cap := rfl
@[simp] theorem countErr_share (s : State) (p e : Nat) : (s.countErr p e).share = s.share := rfl
@[simp] theorem countErr_snpSeq (s : State) (p e : Nat) : (s.countErr p e).snpSeq = s.snpSeq := rfl
@[simp] theorem countErr_snpAddr (s : State) (p e : Nat) : (s.countErr p e).snpAddr = s.snpAddr := rfl
@[simp] theorem countErr_snap (s : State) (p e : Nat) : (s.countErr p e).snap = s.snap := rfl
@[simp] theorem countErr_log (s : State) (p e : Nat) : (s.countErr p e).log = s.log := rfl
@[simp] theorem countErr_logHeld (s : State) (p e : Nat) : (s.countErr p e).logHeld = s.logHeld := rfl
@[simp] theorem countErr_logSeq (s : State) (p e : Nat) : (s.countErr p e).logSeq = s.logSeq := rfl
@[simp] theorem countErr_rndKind (s : State) (p e : Nat) : (s.countErr p e).rndKind = s.rndKind := rfl
@[simp] theorem countErr_rndPhase (s : State) (p e : Nat) : (s.countErr p e).rndPhase = s.rndPhase := rfl
@[simp] theorem countErr_resets (s : State) (p e : Nat) : (s.countErr p e).resets = s.resets := rfl
@[simp] theorem countErr_expSeq (s : State) (p e : Nat) : (s.countErr p e).expSeq = s.expSeq := rfl
@[simp] theorem countErr_sweeps (s : State) (p e : Nat) : (s.countErr p e).sweeps = s.sweeps := rfl
@[simp] theorem countErr_touched (s : State) (p e : Nat) : (s.countErr p e).touched = s.touched := rfl
@[simp] theorem countErr_keys (s : State) (p e : Nat) : (s.countErr p e).keys = s.keys := rfl
@[simp] theorem countErr_keyIds (s : State) (p e : Nat) : (s.countErr p e).keyIds = s.keyIds := rfl
@[simp] theorem countErr_sealKey (s : State) (p e : Nat) : (s.countErr p e).sealKey = s.sealKey := rfl
@[simp] theorem countErr_stackCopy (s : State) (p e : Nat) : (s.countErr p e).stackCopy = s.stackCopy := rfl
@[simp] theorem countErr_outbox (s : State) (p e : Nat) : (s.countErr p e).outbox = s.outbox := rfl
@[simp] theorem countErr_irqs (s : State) (p e : Nat) : (s.countErr p e).irqs = s.irqs := rfl

/-! ## raiseIrq -/

@[simp] theorem raiseIrq_coreSt (s : State) (f v : Nat) (j : Nat) : (s.raiseIrq f v).coreSt j = s.coreSt j := rfl
@[simp] theorem raiseIrq_stackSt (s : State) (f v : Nat) (j : Nat) : (s.raiseIrq f v).stackSt j = s.stackSt j := rfl
@[simp] theorem raiseIrq_dieSt (s : State) (f v : Nat) (j : Nat) : (s.raiseIrq f v).dieSt j = s.dieSt j := rfl
@[simp] theorem raiseIrq_ctx (s : State) (f v : Nat) (j : Nat) : (s.raiseIrq f v).ctx j = s.ctx j := rfl
@[simp] theorem raiseIrq_queue (s : State) (f v : Nat) (j : Nat) : (s.raiseIrq f v).queue j = s.queue j := rfl
@[simp] theorem raiseIrq_link (s : State) (f v : Nat) (j : Nat) : (s.raiseIrq f v).link j = s.link j := rfl
@[simp] theorem raiseIrq_dom (s : State) (f v : Nat) (j : Nat) : (s.raiseIrq f v).dom j = s.dom j := rfl
@[simp] theorem raiseIrq_vf (s : State) (f v : Nat) (j : Nat) : (s.raiseIrq f v).vf j = s.vf j := rfl
@[simp] theorem raiseIrq_chan (s : State) (f v : Nat) (j : Nat) : (s.raiseIrq f v).chan j = s.chan j := rfl
@[simp] theorem raiseIrq_ring (s : State) (f v : Nat) (j : Nat) : (s.raiseIrq f v).ring j = s.ring j := rfl
@[simp] theorem raiseIrq_scoreOf (s : State) (f v : Nat) (j : Nat) : (s.raiseIrq f v).scoreOf j = s.scoreOf j := rfl
@[simp] theorem raiseIrq_kern (s : State) (f v : Nat) (j : Nat) : (s.raiseIrq f v).kern j = s.kern j := rfl
@[simp] theorem raiseIrq_team (s : State) (f v : Nat) (j : Nat) : (s.raiseIrq f v).team j = s.team j := rfl
@[simp] theorem raiseIrq_part (s : State) (f v : Nat) (j : Nat) : (s.raiseIrq f v).part j = s.part j := rfl
@[simp] theorem raiseIrq_agenda (s : State) (f v : Nat) : (s.raiseIrq f v).agenda = s.agenda := rfl
@[simp] theorem raiseIrq_cur (s : State) (f v : Nat) : (s.raiseIrq f v).cur = s.cur := rfl
@[simp] theorem raiseIrq_pair (s : State) (f v : Nat) : (s.raiseIrq f v).pair = s.pair := rfl
@[simp] theorem raiseIrq_free (s : State) (f v : Nat) : (s.raiseIrq f v).free = s.free := rfl
@[simp] theorem raiseIrq_next (s : State) (f v : Nat) : (s.raiseIrq f v).next = s.next := rfl
@[simp] theorem raiseIrq_groups (s : State) (f v : Nat) : (s.raiseIrq f v).groups = s.groups := rfl
@[simp] theorem raiseIrq_acc (s : State) (f v : Nat) : (s.raiseIrq f v).acc = s.acc := rfl
@[simp] theorem raiseIrq_mats (s : State) (f v : Nat) : (s.raiseIrq f v).mats = s.mats := rfl
@[simp] theorem raiseIrq_copies (s : State) (f v : Nat) : (s.raiseIrq f v).copies = s.copies := rfl
@[simp] theorem raiseIrq_colls (s : State) (f v : Nat) : (s.raiseIrq f v).colls = s.colls := rfl
@[simp] theorem raiseIrq_teams (s : State) (f v : Nat) : (s.raiseIrq f v).teams = s.teams := rfl
@[simp] theorem raiseIrq_kernels (s : State) (f v : Nat) : (s.raiseIrq f v).kernels = s.kernels := rfl
@[simp] theorem raiseIrq_mem (s : State) (f v : Nat) : (s.raiseIrq f v).mem = s.mem := rfl
@[simp] theorem raiseIrq_sram (s : State) (f v : Nat) : (s.raiseIrq f v).sram = s.sram := rfl
@[simp] theorem raiseIrq_tile (s : State) (f v : Nat) : (s.raiseIrq f v).tile = s.tile := rfl
@[simp] theorem raiseIrq_poison (s : State) (f v : Nat) : (s.raiseIrq f v).poison = s.poison := rfl
@[simp] theorem raiseIrq_sramPoison (s : State) (f v : Nat) : (s.raiseIrq f v).sramPoison = s.sramPoison := rfl
@[simp] theorem raiseIrq_tilePoison (s : State) (f v : Nat) : (s.raiseIrq f v).tilePoison = s.tilePoison := rfl
@[simp] theorem raiseIrq_l1 (s : State) (f v : Nat) : (s.raiseIrq f v).l1 = s.l1 := rfl
@[simp] theorem raiseIrq_tlb (s : State) (f v : Nat) : (s.raiseIrq f v).tlb = s.tlb := rfl
@[simp] theorem raiseIrq_l2 (s : State) (f v : Nat) : (s.raiseIrq f v).l2 = s.l2 := rfl
@[simp] theorem raiseIrq_cores (s : State) (f v : Nat) : (s.raiseIrq f v).cores = s.cores := rfl
@[simp] theorem raiseIrq_stks (s : State) (f v : Nat) : (s.raiseIrq f v).stks = s.stks := rfl
@[simp] theorem raiseIrq_dies (s : State) (f v : Nat) : (s.raiseIrq f v).dies = s.dies := rfl
@[simp] theorem raiseIrq_regEvents (s : State) (f v : Nat) : (s.raiseIrq f v).regEvents = s.regEvents := rfl
@[simp] theorem raiseIrq_matStall (s : State) (f v : Nat) : (s.raiseIrq f v).matStall = s.matStall := rfl
@[simp] theorem raiseIrq_allow (s : State) (f v : Nat) : (s.raiseIrq f v).allow = s.allow := rfl
@[simp] theorem raiseIrq_ctxs (s : State) (f v : Nat) : (s.raiseIrq f v).ctxs = s.ctxs := rfl
@[simp] theorem raiseIrq_queues (s : State) (f v : Nat) : (s.raiseIrq f v).queues = s.queues := rfl
@[simp] theorem raiseIrq_sets (s : State) (f v : Nat) : (s.raiseIrq f v).sets = s.sets := rfl
@[simp] theorem raiseIrq_lastDie (s : State) (f v : Nat) : (s.raiseIrq f v).lastDie = s.lastDie := rfl
@[simp] theorem raiseIrq_rot (s : State) (f v : Nat) : (s.raiseIrq f v).rot = s.rot := rfl
@[simp] theorem raiseIrq_headClock (s : State) (f v : Nat) : (s.raiseIrq f v).headClock = s.headClock := rfl
@[simp] theorem raiseIrq_replies (s : State) (f v : Nat) : (s.raiseIrq f v).replies = s.replies := rfl
@[simp] theorem raiseIrq_dbarHeld (s : State) (f v : Nat) : (s.raiseIrq f v).dbarHeld = s.dbarHeld := rfl
@[simp] theorem raiseIrq_rings (s : State) (f v : Nat) : (s.raiseIrq f v).rings = s.rings := rfl
@[simp] theorem raiseIrq_invals (s : State) (f v : Nat) : (s.raiseIrq f v).invals = s.invals := rfl
@[simp] theorem raiseIrq_migrs (s : State) (f v : Nat) : (s.raiseIrq f v).migrs = s.migrs := rfl
@[simp] theorem raiseIrq_links (s : State) (f v : Nat) : (s.raiseIrq f v).links = s.links := rfl
@[simp] theorem raiseIrq_heldFlits (s : State) (f v : Nat) : (s.raiseIrq f v).heldFlits = s.heldFlits := rfl
@[simp] theorem raiseIrq_routes (s : State) (f v : Nat) : (s.raiseIrq f v).routes = s.routes := rfl
@[simp] theorem raiseIrq_doms (s : State) (f v : Nat) : (s.raiseIrq f v).doms = s.doms := rfl
@[simp] theorem raiseIrq_parts (s : State) (f v : Nat) : (s.raiseIrq f v).parts = s.parts := rfl
@[simp] theorem raiseIrq_chans (s : State) (f v : Nat) : (s.raiseIrq f v).chans = s.chans := rfl
@[simp] theorem raiseIrq_vfs (s : State) (f v : Nat) : (s.raiseIrq f v).vfs = s.vfs := rfl
@[simp] theorem raiseIrq_errs (s : State) (f v : Nat) : (s.raiseIrq f v).errs = s.errs := rfl
@[simp] theorem raiseIrq_scores (s : State) (f v : Nat) : (s.raiseIrq f v).scores = s.scores := rfl
@[simp] theorem raiseIrq_cap (s : State) (f v : Nat) : (s.raiseIrq f v).cap = s.cap := rfl
@[simp] theorem raiseIrq_share (s : State) (f v : Nat) : (s.raiseIrq f v).share = s.share := rfl
@[simp] theorem raiseIrq_snpSeq (s : State) (f v : Nat) : (s.raiseIrq f v).snpSeq = s.snpSeq := rfl
@[simp] theorem raiseIrq_snpAddr (s : State) (f v : Nat) : (s.raiseIrq f v).snpAddr = s.snpAddr := rfl
@[simp] theorem raiseIrq_snap (s : State) (f v : Nat) : (s.raiseIrq f v).snap = s.snap := rfl
@[simp] theorem raiseIrq_log (s : State) (f v : Nat) : (s.raiseIrq f v).log = s.log := rfl
@[simp] theorem raiseIrq_logHeld (s : State) (f v : Nat) : (s.raiseIrq f v).logHeld = s.logHeld := rfl
@[simp] theorem raiseIrq_logSeq (s : State) (f v : Nat) : (s.raiseIrq f v).logSeq = s.logSeq := rfl
@[simp] theorem raiseIrq_rndKind (s : State) (f v : Nat) : (s.raiseIrq f v).rndKind = s.rndKind := rfl
@[simp] theorem raiseIrq_rndPhase (s : State) (f v : Nat) : (s.raiseIrq f v).rndPhase = s.rndPhase := rfl
@[simp] theorem raiseIrq_resets (s : State) (f v : Nat) : (s.raiseIrq f v).resets = s.resets := rfl
@[simp] theorem raiseIrq_expSeq (s : State) (f v : Nat) : (s.raiseIrq f v).expSeq = s.expSeq := rfl
@[simp] theorem raiseIrq_sweeps (s : State) (f v : Nat) : (s.raiseIrq f v).sweeps = s.sweeps := rfl
@[simp] theorem raiseIrq_touched (s : State) (f v : Nat) : (s.raiseIrq f v).touched = s.touched := rfl
@[simp] theorem raiseIrq_keys (s : State) (f v : Nat) : (s.raiseIrq f v).keys = s.keys := rfl
@[simp] theorem raiseIrq_keyIds (s : State) (f v : Nat) : (s.raiseIrq f v).keyIds = s.keyIds := rfl
@[simp] theorem raiseIrq_sealKey (s : State) (f v : Nat) : (s.raiseIrq f v).sealKey = s.sealKey := rfl
@[simp] theorem raiseIrq_stackCopy (s : State) (f v : Nat) : (s.raiseIrq f v).stackCopy = s.stackCopy := rfl
@[simp] theorem raiseIrq_outbox (s : State) (f v : Nat) : (s.raiseIrq f v).outbox = s.outbox := rfl

/-! ## send -/

@[simp] theorem send_coreSt (s : State) (x) (j : Nat) : (s.send x).coreSt j = s.coreSt j := rfl
@[simp] theorem send_stackSt (s : State) (x) (j : Nat) : (s.send x).stackSt j = s.stackSt j := rfl
@[simp] theorem send_dieSt (s : State) (x) (j : Nat) : (s.send x).dieSt j = s.dieSt j := rfl
@[simp] theorem send_ctx (s : State) (x) (j : Nat) : (s.send x).ctx j = s.ctx j := rfl
@[simp] theorem send_queue (s : State) (x) (j : Nat) : (s.send x).queue j = s.queue j := rfl
@[simp] theorem send_link (s : State) (x) (j : Nat) : (s.send x).link j = s.link j := rfl
@[simp] theorem send_dom (s : State) (x) (j : Nat) : (s.send x).dom j = s.dom j := rfl
@[simp] theorem send_vf (s : State) (x) (j : Nat) : (s.send x).vf j = s.vf j := rfl
@[simp] theorem send_chan (s : State) (x) (j : Nat) : (s.send x).chan j = s.chan j := rfl
@[simp] theorem send_ring (s : State) (x) (j : Nat) : (s.send x).ring j = s.ring j := rfl
@[simp] theorem send_scoreOf (s : State) (x) (j : Nat) : (s.send x).scoreOf j = s.scoreOf j := rfl
@[simp] theorem send_kern (s : State) (x) (j : Nat) : (s.send x).kern j = s.kern j := rfl
@[simp] theorem send_team (s : State) (x) (j : Nat) : (s.send x).team j = s.team j := rfl
@[simp] theorem send_part (s : State) (x) (j : Nat) : (s.send x).part j = s.part j := rfl
@[simp] theorem send_agenda (s : State) (x) : (s.send x).agenda = s.agenda := rfl
@[simp] theorem send_cur (s : State) (x) : (s.send x).cur = s.cur := rfl
@[simp] theorem send_pair (s : State) (x) : (s.send x).pair = s.pair := rfl
@[simp] theorem send_free (s : State) (x) : (s.send x).free = s.free := rfl
@[simp] theorem send_next (s : State) (x) : (s.send x).next = s.next := rfl
@[simp] theorem send_groups (s : State) (x) : (s.send x).groups = s.groups := rfl
@[simp] theorem send_acc (s : State) (x) : (s.send x).acc = s.acc := rfl
@[simp] theorem send_mats (s : State) (x) : (s.send x).mats = s.mats := rfl
@[simp] theorem send_copies (s : State) (x) : (s.send x).copies = s.copies := rfl
@[simp] theorem send_colls (s : State) (x) : (s.send x).colls = s.colls := rfl
@[simp] theorem send_teams (s : State) (x) : (s.send x).teams = s.teams := rfl
@[simp] theorem send_kernels (s : State) (x) : (s.send x).kernels = s.kernels := rfl
@[simp] theorem send_mem (s : State) (x) : (s.send x).mem = s.mem := rfl
@[simp] theorem send_sram (s : State) (x) : (s.send x).sram = s.sram := rfl
@[simp] theorem send_tile (s : State) (x) : (s.send x).tile = s.tile := rfl
@[simp] theorem send_poison (s : State) (x) : (s.send x).poison = s.poison := rfl
@[simp] theorem send_sramPoison (s : State) (x) : (s.send x).sramPoison = s.sramPoison := rfl
@[simp] theorem send_tilePoison (s : State) (x) : (s.send x).tilePoison = s.tilePoison := rfl
@[simp] theorem send_l1 (s : State) (x) : (s.send x).l1 = s.l1 := rfl
@[simp] theorem send_tlb (s : State) (x) : (s.send x).tlb = s.tlb := rfl
@[simp] theorem send_l2 (s : State) (x) : (s.send x).l2 = s.l2 := rfl
@[simp] theorem send_cores (s : State) (x) : (s.send x).cores = s.cores := rfl
@[simp] theorem send_stks (s : State) (x) : (s.send x).stks = s.stks := rfl
@[simp] theorem send_dies (s : State) (x) : (s.send x).dies = s.dies := rfl
@[simp] theorem send_regEvents (s : State) (x) : (s.send x).regEvents = s.regEvents := rfl
@[simp] theorem send_matStall (s : State) (x) : (s.send x).matStall = s.matStall := rfl
@[simp] theorem send_allow (s : State) (x) : (s.send x).allow = s.allow := rfl
@[simp] theorem send_ctxs (s : State) (x) : (s.send x).ctxs = s.ctxs := rfl
@[simp] theorem send_queues (s : State) (x) : (s.send x).queues = s.queues := rfl
@[simp] theorem send_sets (s : State) (x) : (s.send x).sets = s.sets := rfl
@[simp] theorem send_lastDie (s : State) (x) : (s.send x).lastDie = s.lastDie := rfl
@[simp] theorem send_rot (s : State) (x) : (s.send x).rot = s.rot := rfl
@[simp] theorem send_headClock (s : State) (x) : (s.send x).headClock = s.headClock := rfl
@[simp] theorem send_replies (s : State) (x) : (s.send x).replies = s.replies := rfl
@[simp] theorem send_dbarHeld (s : State) (x) : (s.send x).dbarHeld = s.dbarHeld := rfl
@[simp] theorem send_rings (s : State) (x) : (s.send x).rings = s.rings := rfl
@[simp] theorem send_invals (s : State) (x) : (s.send x).invals = s.invals := rfl
@[simp] theorem send_migrs (s : State) (x) : (s.send x).migrs = s.migrs := rfl
@[simp] theorem send_links (s : State) (x) : (s.send x).links = s.links := rfl
@[simp] theorem send_heldFlits (s : State) (x) : (s.send x).heldFlits = s.heldFlits := rfl
@[simp] theorem send_routes (s : State) (x) : (s.send x).routes = s.routes := rfl
@[simp] theorem send_doms (s : State) (x) : (s.send x).doms = s.doms := rfl
@[simp] theorem send_parts (s : State) (x) : (s.send x).parts = s.parts := rfl
@[simp] theorem send_chans (s : State) (x) : (s.send x).chans = s.chans := rfl
@[simp] theorem send_vfs (s : State) (x) : (s.send x).vfs = s.vfs := rfl
@[simp] theorem send_errs (s : State) (x) : (s.send x).errs = s.errs := rfl
@[simp] theorem send_scores (s : State) (x) : (s.send x).scores = s.scores := rfl
@[simp] theorem send_cap (s : State) (x) : (s.send x).cap = s.cap := rfl
@[simp] theorem send_share (s : State) (x) : (s.send x).share = s.share := rfl
@[simp] theorem send_snpSeq (s : State) (x) : (s.send x).snpSeq = s.snpSeq := rfl
@[simp] theorem send_snpAddr (s : State) (x) : (s.send x).snpAddr = s.snpAddr := rfl
@[simp] theorem send_snap (s : State) (x) : (s.send x).snap = s.snap := rfl
@[simp] theorem send_log (s : State) (x) : (s.send x).log = s.log := rfl
@[simp] theorem send_logHeld (s : State) (x) : (s.send x).logHeld = s.logHeld := rfl
@[simp] theorem send_logSeq (s : State) (x) : (s.send x).logSeq = s.logSeq := rfl
@[simp] theorem send_rndKind (s : State) (x) : (s.send x).rndKind = s.rndKind := rfl
@[simp] theorem send_rndPhase (s : State) (x) : (s.send x).rndPhase = s.rndPhase := rfl
@[simp] theorem send_resets (s : State) (x) : (s.send x).resets = s.resets := rfl
@[simp] theorem send_expSeq (s : State) (x) : (s.send x).expSeq = s.expSeq := rfl
@[simp] theorem send_sweeps (s : State) (x) : (s.send x).sweeps = s.sweeps := rfl
@[simp] theorem send_touched (s : State) (x) : (s.send x).touched = s.touched := rfl
@[simp] theorem send_keys (s : State) (x) : (s.send x).keys = s.keys := rfl
@[simp] theorem send_keyIds (s : State) (x) : (s.send x).keyIds = s.keyIds := rfl
@[simp] theorem send_sealKey (s : State) (x) : (s.send x).sealKey = s.sealKey := rfl
@[simp] theorem send_stackCopy (s : State) (x) : (s.send x).stackCopy = s.stackCopy := rfl
@[simp] theorem send_irqs (s : State) (x) : (s.send x).irqs = s.irqs := rfl

/-! ## writeMem -/

@[simp] theorem writeMem_coreSt (s : State) (a : Nat) (x) (j : Nat) : (s.writeMem a x).coreSt j = s.coreSt j := rfl
@[simp] theorem writeMem_stackSt (s : State) (a : Nat) (x) (j : Nat) : (s.writeMem a x).stackSt j = s.stackSt j := rfl
@[simp] theorem writeMem_dieSt (s : State) (a : Nat) (x) (j : Nat) : (s.writeMem a x).dieSt j = s.dieSt j := rfl
@[simp] theorem writeMem_ctx (s : State) (a : Nat) (x) (j : Nat) : (s.writeMem a x).ctx j = s.ctx j := rfl
@[simp] theorem writeMem_queue (s : State) (a : Nat) (x) (j : Nat) : (s.writeMem a x).queue j = s.queue j := rfl
@[simp] theorem writeMem_link (s : State) (a : Nat) (x) (j : Nat) : (s.writeMem a x).link j = s.link j := rfl
@[simp] theorem writeMem_dom (s : State) (a : Nat) (x) (j : Nat) : (s.writeMem a x).dom j = s.dom j := rfl
@[simp] theorem writeMem_vf (s : State) (a : Nat) (x) (j : Nat) : (s.writeMem a x).vf j = s.vf j := rfl
@[simp] theorem writeMem_chan (s : State) (a : Nat) (x) (j : Nat) : (s.writeMem a x).chan j = s.chan j := rfl
@[simp] theorem writeMem_ring (s : State) (a : Nat) (x) (j : Nat) : (s.writeMem a x).ring j = s.ring j := rfl
@[simp] theorem writeMem_scoreOf (s : State) (a : Nat) (x) (j : Nat) : (s.writeMem a x).scoreOf j = s.scoreOf j := rfl
@[simp] theorem writeMem_kern (s : State) (a : Nat) (x) (j : Nat) : (s.writeMem a x).kern j = s.kern j := rfl
@[simp] theorem writeMem_team (s : State) (a : Nat) (x) (j : Nat) : (s.writeMem a x).team j = s.team j := rfl
@[simp] theorem writeMem_part (s : State) (a : Nat) (x) (j : Nat) : (s.writeMem a x).part j = s.part j := rfl
@[simp] theorem writeMem_agenda (s : State) (a : Nat) (x) : (s.writeMem a x).agenda = s.agenda := rfl
@[simp] theorem writeMem_cur (s : State) (a : Nat) (x) : (s.writeMem a x).cur = s.cur := rfl
@[simp] theorem writeMem_pair (s : State) (a : Nat) (x) : (s.writeMem a x).pair = s.pair := rfl
@[simp] theorem writeMem_free (s : State) (a : Nat) (x) : (s.writeMem a x).free = s.free := rfl
@[simp] theorem writeMem_next (s : State) (a : Nat) (x) : (s.writeMem a x).next = s.next := rfl
@[simp] theorem writeMem_groups (s : State) (a : Nat) (x) : (s.writeMem a x).groups = s.groups := rfl
@[simp] theorem writeMem_acc (s : State) (a : Nat) (x) : (s.writeMem a x).acc = s.acc := rfl
@[simp] theorem writeMem_mats (s : State) (a : Nat) (x) : (s.writeMem a x).mats = s.mats := rfl
@[simp] theorem writeMem_copies (s : State) (a : Nat) (x) : (s.writeMem a x).copies = s.copies := rfl
@[simp] theorem writeMem_colls (s : State) (a : Nat) (x) : (s.writeMem a x).colls = s.colls := rfl
@[simp] theorem writeMem_teams (s : State) (a : Nat) (x) : (s.writeMem a x).teams = s.teams := rfl
@[simp] theorem writeMem_kernels (s : State) (a : Nat) (x) : (s.writeMem a x).kernels = s.kernels := rfl
@[simp] theorem writeMem_sram (s : State) (a : Nat) (x) : (s.writeMem a x).sram = s.sram := rfl
@[simp] theorem writeMem_tile (s : State) (a : Nat) (x) : (s.writeMem a x).tile = s.tile := rfl
@[simp] theorem writeMem_poison (s : State) (a : Nat) (x) : (s.writeMem a x).poison = s.poison := rfl
@[simp] theorem writeMem_sramPoison (s : State) (a : Nat) (x) : (s.writeMem a x).sramPoison = s.sramPoison := rfl
@[simp] theorem writeMem_tilePoison (s : State) (a : Nat) (x) : (s.writeMem a x).tilePoison = s.tilePoison := rfl
@[simp] theorem writeMem_l1 (s : State) (a : Nat) (x) : (s.writeMem a x).l1 = s.l1 := rfl
@[simp] theorem writeMem_tlb (s : State) (a : Nat) (x) : (s.writeMem a x).tlb = s.tlb := rfl
@[simp] theorem writeMem_l2 (s : State) (a : Nat) (x) : (s.writeMem a x).l2 = s.l2 := rfl
@[simp] theorem writeMem_cores (s : State) (a : Nat) (x) : (s.writeMem a x).cores = s.cores := rfl
@[simp] theorem writeMem_stks (s : State) (a : Nat) (x) : (s.writeMem a x).stks = s.stks := rfl
@[simp] theorem writeMem_dies (s : State) (a : Nat) (x) : (s.writeMem a x).dies = s.dies := rfl
@[simp] theorem writeMem_regEvents (s : State) (a : Nat) (x) : (s.writeMem a x).regEvents = s.regEvents := rfl
@[simp] theorem writeMem_matStall (s : State) (a : Nat) (x) : (s.writeMem a x).matStall = s.matStall := rfl
@[simp] theorem writeMem_allow (s : State) (a : Nat) (x) : (s.writeMem a x).allow = s.allow := rfl
@[simp] theorem writeMem_ctxs (s : State) (a : Nat) (x) : (s.writeMem a x).ctxs = s.ctxs := rfl
@[simp] theorem writeMem_queues (s : State) (a : Nat) (x) : (s.writeMem a x).queues = s.queues := rfl
@[simp] theorem writeMem_sets (s : State) (a : Nat) (x) : (s.writeMem a x).sets = s.sets := rfl
@[simp] theorem writeMem_lastDie (s : State) (a : Nat) (x) : (s.writeMem a x).lastDie = s.lastDie := rfl
@[simp] theorem writeMem_rot (s : State) (a : Nat) (x) : (s.writeMem a x).rot = s.rot := rfl
@[simp] theorem writeMem_headClock (s : State) (a : Nat) (x) : (s.writeMem a x).headClock = s.headClock := rfl
@[simp] theorem writeMem_replies (s : State) (a : Nat) (x) : (s.writeMem a x).replies = s.replies := rfl
@[simp] theorem writeMem_dbarHeld (s : State) (a : Nat) (x) : (s.writeMem a x).dbarHeld = s.dbarHeld := rfl
@[simp] theorem writeMem_rings (s : State) (a : Nat) (x) : (s.writeMem a x).rings = s.rings := rfl
@[simp] theorem writeMem_invals (s : State) (a : Nat) (x) : (s.writeMem a x).invals = s.invals := rfl
@[simp] theorem writeMem_migrs (s : State) (a : Nat) (x) : (s.writeMem a x).migrs = s.migrs := rfl
@[simp] theorem writeMem_links (s : State) (a : Nat) (x) : (s.writeMem a x).links = s.links := rfl
@[simp] theorem writeMem_heldFlits (s : State) (a : Nat) (x) : (s.writeMem a x).heldFlits = s.heldFlits := rfl
@[simp] theorem writeMem_routes (s : State) (a : Nat) (x) : (s.writeMem a x).routes = s.routes := rfl
@[simp] theorem writeMem_doms (s : State) (a : Nat) (x) : (s.writeMem a x).doms = s.doms := rfl
@[simp] theorem writeMem_parts (s : State) (a : Nat) (x) : (s.writeMem a x).parts = s.parts := rfl
@[simp] theorem writeMem_chans (s : State) (a : Nat) (x) : (s.writeMem a x).chans = s.chans := rfl
@[simp] theorem writeMem_vfs (s : State) (a : Nat) (x) : (s.writeMem a x).vfs = s.vfs := rfl
@[simp] theorem writeMem_errs (s : State) (a : Nat) (x) : (s.writeMem a x).errs = s.errs := rfl
@[simp] theorem writeMem_scores (s : State) (a : Nat) (x) : (s.writeMem a x).scores = s.scores := rfl
@[simp] theorem writeMem_cap (s : State) (a : Nat) (x) : (s.writeMem a x).cap = s.cap := rfl
@[simp] theorem writeMem_share (s : State) (a : Nat) (x) : (s.writeMem a x).share = s.share := rfl
@[simp] theorem writeMem_snpSeq (s : State) (a : Nat) (x) : (s.writeMem a x).snpSeq = s.snpSeq := rfl
@[simp] theorem writeMem_snpAddr (s : State) (a : Nat) (x) : (s.writeMem a x).snpAddr = s.snpAddr := rfl
@[simp] theorem writeMem_snap (s : State) (a : Nat) (x) : (s.writeMem a x).snap = s.snap := rfl
@[simp] theorem writeMem_log (s : State) (a : Nat) (x) : (s.writeMem a x).log = s.log := rfl
@[simp] theorem writeMem_logHeld (s : State) (a : Nat) (x) : (s.writeMem a x).logHeld = s.logHeld := rfl
@[simp] theorem writeMem_logSeq (s : State) (a : Nat) (x) : (s.writeMem a x).logSeq = s.logSeq := rfl
@[simp] theorem writeMem_rndKind (s : State) (a : Nat) (x) : (s.writeMem a x).rndKind = s.rndKind := rfl
@[simp] theorem writeMem_rndPhase (s : State) (a : Nat) (x) : (s.writeMem a x).rndPhase = s.rndPhase := rfl
@[simp] theorem writeMem_resets (s : State) (a : Nat) (x) : (s.writeMem a x).resets = s.resets := rfl
@[simp] theorem writeMem_expSeq (s : State) (a : Nat) (x) : (s.writeMem a x).expSeq = s.expSeq := rfl
@[simp] theorem writeMem_sweeps (s : State) (a : Nat) (x) : (s.writeMem a x).sweeps = s.sweeps := rfl
@[simp] theorem writeMem_touched (s : State) (a : Nat) (x) : (s.writeMem a x).touched = s.touched := rfl
@[simp] theorem writeMem_keys (s : State) (a : Nat) (x) : (s.writeMem a x).keys = s.keys := rfl
@[simp] theorem writeMem_keyIds (s : State) (a : Nat) (x) : (s.writeMem a x).keyIds = s.keyIds := rfl
@[simp] theorem writeMem_stackCopy (s : State) (a : Nat) (x) : (s.writeMem a x).stackCopy = s.stackCopy := rfl
@[simp] theorem writeMem_outbox (s : State) (a : Nat) (x) : (s.writeMem a x).outbox = s.outbox := rfl
@[simp] theorem writeMem_irqs (s : State) (a : Nat) (x) : (s.writeMem a x).irqs = s.irqs := rfl

/-! ## due -/

@[simp] theorem due_coreSt (s : State) (x) (j : Nat) : (s.due x).coreSt j = s.coreSt j := rfl
@[simp] theorem due_stackSt (s : State) (x) (j : Nat) : (s.due x).stackSt j = s.stackSt j := rfl
@[simp] theorem due_dieSt (s : State) (x) (j : Nat) : (s.due x).dieSt j = s.dieSt j := rfl
@[simp] theorem due_ctx (s : State) (x) (j : Nat) : (s.due x).ctx j = s.ctx j := rfl
@[simp] theorem due_queue (s : State) (x) (j : Nat) : (s.due x).queue j = s.queue j := rfl
@[simp] theorem due_link (s : State) (x) (j : Nat) : (s.due x).link j = s.link j := rfl
@[simp] theorem due_dom (s : State) (x) (j : Nat) : (s.due x).dom j = s.dom j := rfl
@[simp] theorem due_vf (s : State) (x) (j : Nat) : (s.due x).vf j = s.vf j := rfl
@[simp] theorem due_chan (s : State) (x) (j : Nat) : (s.due x).chan j = s.chan j := rfl
@[simp] theorem due_ring (s : State) (x) (j : Nat) : (s.due x).ring j = s.ring j := rfl
@[simp] theorem due_scoreOf (s : State) (x) (j : Nat) : (s.due x).scoreOf j = s.scoreOf j := rfl
@[simp] theorem due_kern (s : State) (x) (j : Nat) : (s.due x).kern j = s.kern j := rfl
@[simp] theorem due_team (s : State) (x) (j : Nat) : (s.due x).team j = s.team j := rfl
@[simp] theorem due_part (s : State) (x) (j : Nat) : (s.due x).part j = s.part j := rfl
@[simp] theorem due_cur (s : State) (x) : (s.due x).cur = s.cur := rfl
@[simp] theorem due_pair (s : State) (x) : (s.due x).pair = s.pair := rfl
@[simp] theorem due_free (s : State) (x) : (s.due x).free = s.free := rfl
@[simp] theorem due_next (s : State) (x) : (s.due x).next = s.next := rfl
@[simp] theorem due_groups (s : State) (x) : (s.due x).groups = s.groups := rfl
@[simp] theorem due_acc (s : State) (x) : (s.due x).acc = s.acc := rfl
@[simp] theorem due_mats (s : State) (x) : (s.due x).mats = s.mats := rfl
@[simp] theorem due_copies (s : State) (x) : (s.due x).copies = s.copies := rfl
@[simp] theorem due_colls (s : State) (x) : (s.due x).colls = s.colls := rfl
@[simp] theorem due_teams (s : State) (x) : (s.due x).teams = s.teams := rfl
@[simp] theorem due_kernels (s : State) (x) : (s.due x).kernels = s.kernels := rfl
@[simp] theorem due_mem (s : State) (x) : (s.due x).mem = s.mem := rfl
@[simp] theorem due_sram (s : State) (x) : (s.due x).sram = s.sram := rfl
@[simp] theorem due_tile (s : State) (x) : (s.due x).tile = s.tile := rfl
@[simp] theorem due_poison (s : State) (x) : (s.due x).poison = s.poison := rfl
@[simp] theorem due_sramPoison (s : State) (x) : (s.due x).sramPoison = s.sramPoison := rfl
@[simp] theorem due_tilePoison (s : State) (x) : (s.due x).tilePoison = s.tilePoison := rfl
@[simp] theorem due_l1 (s : State) (x) : (s.due x).l1 = s.l1 := rfl
@[simp] theorem due_tlb (s : State) (x) : (s.due x).tlb = s.tlb := rfl
@[simp] theorem due_l2 (s : State) (x) : (s.due x).l2 = s.l2 := rfl
@[simp] theorem due_cores (s : State) (x) : (s.due x).cores = s.cores := rfl
@[simp] theorem due_stks (s : State) (x) : (s.due x).stks = s.stks := rfl
@[simp] theorem due_dies (s : State) (x) : (s.due x).dies = s.dies := rfl
@[simp] theorem due_regEvents (s : State) (x) : (s.due x).regEvents = s.regEvents := rfl
@[simp] theorem due_matStall (s : State) (x) : (s.due x).matStall = s.matStall := rfl
@[simp] theorem due_allow (s : State) (x) : (s.due x).allow = s.allow := rfl
@[simp] theorem due_ctxs (s : State) (x) : (s.due x).ctxs = s.ctxs := rfl
@[simp] theorem due_queues (s : State) (x) : (s.due x).queues = s.queues := rfl
@[simp] theorem due_sets (s : State) (x) : (s.due x).sets = s.sets := rfl
@[simp] theorem due_lastDie (s : State) (x) : (s.due x).lastDie = s.lastDie := rfl
@[simp] theorem due_rot (s : State) (x) : (s.due x).rot = s.rot := rfl
@[simp] theorem due_headClock (s : State) (x) : (s.due x).headClock = s.headClock := rfl
@[simp] theorem due_replies (s : State) (x) : (s.due x).replies = s.replies := rfl
@[simp] theorem due_dbarHeld (s : State) (x) : (s.due x).dbarHeld = s.dbarHeld := rfl
@[simp] theorem due_rings (s : State) (x) : (s.due x).rings = s.rings := rfl
@[simp] theorem due_invals (s : State) (x) : (s.due x).invals = s.invals := rfl
@[simp] theorem due_migrs (s : State) (x) : (s.due x).migrs = s.migrs := rfl
@[simp] theorem due_links (s : State) (x) : (s.due x).links = s.links := rfl
@[simp] theorem due_heldFlits (s : State) (x) : (s.due x).heldFlits = s.heldFlits := rfl
@[simp] theorem due_routes (s : State) (x) : (s.due x).routes = s.routes := rfl
@[simp] theorem due_doms (s : State) (x) : (s.due x).doms = s.doms := rfl
@[simp] theorem due_parts (s : State) (x) : (s.due x).parts = s.parts := rfl
@[simp] theorem due_chans (s : State) (x) : (s.due x).chans = s.chans := rfl
@[simp] theorem due_vfs (s : State) (x) : (s.due x).vfs = s.vfs := rfl
@[simp] theorem due_errs (s : State) (x) : (s.due x).errs = s.errs := rfl
@[simp] theorem due_scores (s : State) (x) : (s.due x).scores = s.scores := rfl
@[simp] theorem due_cap (s : State) (x) : (s.due x).cap = s.cap := rfl
@[simp] theorem due_share (s : State) (x) : (s.due x).share = s.share := rfl
@[simp] theorem due_snpSeq (s : State) (x) : (s.due x).snpSeq = s.snpSeq := rfl
@[simp] theorem due_snpAddr (s : State) (x) : (s.due x).snpAddr = s.snpAddr := rfl
@[simp] theorem due_snap (s : State) (x) : (s.due x).snap = s.snap := rfl
@[simp] theorem due_log (s : State) (x) : (s.due x).log = s.log := rfl
@[simp] theorem due_logHeld (s : State) (x) : (s.due x).logHeld = s.logHeld := rfl
@[simp] theorem due_logSeq (s : State) (x) : (s.due x).logSeq = s.logSeq := rfl
@[simp] theorem due_rndKind (s : State) (x) : (s.due x).rndKind = s.rndKind := rfl
@[simp] theorem due_rndPhase (s : State) (x) : (s.due x).rndPhase = s.rndPhase := rfl
@[simp] theorem due_resets (s : State) (x) : (s.due x).resets = s.resets := rfl
@[simp] theorem due_expSeq (s : State) (x) : (s.due x).expSeq = s.expSeq := rfl
@[simp] theorem due_sweeps (s : State) (x) : (s.due x).sweeps = s.sweeps := rfl
@[simp] theorem due_touched (s : State) (x) : (s.due x).touched = s.touched := rfl
@[simp] theorem due_keys (s : State) (x) : (s.due x).keys = s.keys := rfl
@[simp] theorem due_keyIds (s : State) (x) : (s.due x).keyIds = s.keyIds := rfl
@[simp] theorem due_sealKey (s : State) (x) : (s.due x).sealKey = s.sealKey := rfl
@[simp] theorem due_stackCopy (s : State) (x) : (s.due x).stackCopy = s.stackCopy := rfl
@[simp] theorem due_outbox (s : State) (x) : (s.due x).outbox = s.outbox := rfl
@[simp] theorem due_irqs (s : State) (x) : (s.due x).irqs = s.irqs := rfl

/-! ## l1Drop -/

@[simp] theorem l1Drop_coreSt (s : State) (c k : Nat) (x) (j : Nat) : (s.l1Drop c k x).coreSt j = s.coreSt j := rfl
@[simp] theorem l1Drop_stackSt (s : State) (c k : Nat) (x) (j : Nat) : (s.l1Drop c k x).stackSt j = s.stackSt j := rfl
@[simp] theorem l1Drop_dieSt (s : State) (c k : Nat) (x) (j : Nat) : (s.l1Drop c k x).dieSt j = s.dieSt j := rfl
@[simp] theorem l1Drop_ctx (s : State) (c k : Nat) (x) (j : Nat) : (s.l1Drop c k x).ctx j = s.ctx j := rfl
@[simp] theorem l1Drop_queue (s : State) (c k : Nat) (x) (j : Nat) : (s.l1Drop c k x).queue j = s.queue j := rfl
@[simp] theorem l1Drop_link (s : State) (c k : Nat) (x) (j : Nat) : (s.l1Drop c k x).link j = s.link j := rfl
@[simp] theorem l1Drop_dom (s : State) (c k : Nat) (x) (j : Nat) : (s.l1Drop c k x).dom j = s.dom j := rfl
@[simp] theorem l1Drop_vf (s : State) (c k : Nat) (x) (j : Nat) : (s.l1Drop c k x).vf j = s.vf j := rfl
@[simp] theorem l1Drop_chan (s : State) (c k : Nat) (x) (j : Nat) : (s.l1Drop c k x).chan j = s.chan j := rfl
@[simp] theorem l1Drop_ring (s : State) (c k : Nat) (x) (j : Nat) : (s.l1Drop c k x).ring j = s.ring j := rfl
@[simp] theorem l1Drop_scoreOf (s : State) (c k : Nat) (x) (j : Nat) : (s.l1Drop c k x).scoreOf j = s.scoreOf j := rfl
@[simp] theorem l1Drop_kern (s : State) (c k : Nat) (x) (j : Nat) : (s.l1Drop c k x).kern j = s.kern j := rfl
@[simp] theorem l1Drop_team (s : State) (c k : Nat) (x) (j : Nat) : (s.l1Drop c k x).team j = s.team j := rfl
@[simp] theorem l1Drop_part (s : State) (c k : Nat) (x) (j : Nat) : (s.l1Drop c k x).part j = s.part j := rfl
@[simp] theorem l1Drop_agenda (s : State) (c k : Nat) (x) : (s.l1Drop c k x).agenda = s.agenda := rfl
@[simp] theorem l1Drop_cur (s : State) (c k : Nat) (x) : (s.l1Drop c k x).cur = s.cur := rfl
@[simp] theorem l1Drop_pair (s : State) (c k : Nat) (x) : (s.l1Drop c k x).pair = s.pair := rfl
@[simp] theorem l1Drop_free (s : State) (c k : Nat) (x) : (s.l1Drop c k x).free = s.free := rfl
@[simp] theorem l1Drop_next (s : State) (c k : Nat) (x) : (s.l1Drop c k x).next = s.next := rfl
@[simp] theorem l1Drop_groups (s : State) (c k : Nat) (x) : (s.l1Drop c k x).groups = s.groups := rfl
@[simp] theorem l1Drop_acc (s : State) (c k : Nat) (x) : (s.l1Drop c k x).acc = s.acc := rfl
@[simp] theorem l1Drop_mats (s : State) (c k : Nat) (x) : (s.l1Drop c k x).mats = s.mats := rfl
@[simp] theorem l1Drop_copies (s : State) (c k : Nat) (x) : (s.l1Drop c k x).copies = s.copies := rfl
@[simp] theorem l1Drop_colls (s : State) (c k : Nat) (x) : (s.l1Drop c k x).colls = s.colls := rfl
@[simp] theorem l1Drop_teams (s : State) (c k : Nat) (x) : (s.l1Drop c k x).teams = s.teams := rfl
@[simp] theorem l1Drop_kernels (s : State) (c k : Nat) (x) : (s.l1Drop c k x).kernels = s.kernels := rfl
@[simp] theorem l1Drop_mem (s : State) (c k : Nat) (x) : (s.l1Drop c k x).mem = s.mem := rfl
@[simp] theorem l1Drop_sram (s : State) (c k : Nat) (x) : (s.l1Drop c k x).sram = s.sram := rfl
@[simp] theorem l1Drop_tile (s : State) (c k : Nat) (x) : (s.l1Drop c k x).tile = s.tile := rfl
@[simp] theorem l1Drop_poison (s : State) (c k : Nat) (x) : (s.l1Drop c k x).poison = s.poison := rfl
@[simp] theorem l1Drop_sramPoison (s : State) (c k : Nat) (x) : (s.l1Drop c k x).sramPoison = s.sramPoison := rfl
@[simp] theorem l1Drop_tilePoison (s : State) (c k : Nat) (x) : (s.l1Drop c k x).tilePoison = s.tilePoison := rfl
@[simp] theorem l1Drop_tlb (s : State) (c k : Nat) (x) : (s.l1Drop c k x).tlb = s.tlb := rfl
@[simp] theorem l1Drop_l2 (s : State) (c k : Nat) (x) : (s.l1Drop c k x).l2 = s.l2 := rfl
@[simp] theorem l1Drop_cores (s : State) (c k : Nat) (x) : (s.l1Drop c k x).cores = s.cores := rfl
@[simp] theorem l1Drop_stks (s : State) (c k : Nat) (x) : (s.l1Drop c k x).stks = s.stks := rfl
@[simp] theorem l1Drop_dies (s : State) (c k : Nat) (x) : (s.l1Drop c k x).dies = s.dies := rfl
@[simp] theorem l1Drop_regEvents (s : State) (c k : Nat) (x) : (s.l1Drop c k x).regEvents = s.regEvents := rfl
@[simp] theorem l1Drop_matStall (s : State) (c k : Nat) (x) : (s.l1Drop c k x).matStall = s.matStall := rfl
@[simp] theorem l1Drop_allow (s : State) (c k : Nat) (x) : (s.l1Drop c k x).allow = s.allow := rfl
@[simp] theorem l1Drop_ctxs (s : State) (c k : Nat) (x) : (s.l1Drop c k x).ctxs = s.ctxs := rfl
@[simp] theorem l1Drop_queues (s : State) (c k : Nat) (x) : (s.l1Drop c k x).queues = s.queues := rfl
@[simp] theorem l1Drop_sets (s : State) (c k : Nat) (x) : (s.l1Drop c k x).sets = s.sets := rfl
@[simp] theorem l1Drop_lastDie (s : State) (c k : Nat) (x) : (s.l1Drop c k x).lastDie = s.lastDie := rfl
@[simp] theorem l1Drop_rot (s : State) (c k : Nat) (x) : (s.l1Drop c k x).rot = s.rot := rfl
@[simp] theorem l1Drop_headClock (s : State) (c k : Nat) (x) : (s.l1Drop c k x).headClock = s.headClock := rfl
@[simp] theorem l1Drop_replies (s : State) (c k : Nat) (x) : (s.l1Drop c k x).replies = s.replies := rfl
@[simp] theorem l1Drop_dbarHeld (s : State) (c k : Nat) (x) : (s.l1Drop c k x).dbarHeld = s.dbarHeld := rfl
@[simp] theorem l1Drop_rings (s : State) (c k : Nat) (x) : (s.l1Drop c k x).rings = s.rings := rfl
@[simp] theorem l1Drop_invals (s : State) (c k : Nat) (x) : (s.l1Drop c k x).invals = s.invals := rfl
@[simp] theorem l1Drop_migrs (s : State) (c k : Nat) (x) : (s.l1Drop c k x).migrs = s.migrs := rfl
@[simp] theorem l1Drop_links (s : State) (c k : Nat) (x) : (s.l1Drop c k x).links = s.links := rfl
@[simp] theorem l1Drop_heldFlits (s : State) (c k : Nat) (x) : (s.l1Drop c k x).heldFlits = s.heldFlits := rfl
@[simp] theorem l1Drop_routes (s : State) (c k : Nat) (x) : (s.l1Drop c k x).routes = s.routes := rfl
@[simp] theorem l1Drop_doms (s : State) (c k : Nat) (x) : (s.l1Drop c k x).doms = s.doms := rfl
@[simp] theorem l1Drop_parts (s : State) (c k : Nat) (x) : (s.l1Drop c k x).parts = s.parts := rfl
@[simp] theorem l1Drop_chans (s : State) (c k : Nat) (x) : (s.l1Drop c k x).chans = s.chans := rfl
@[simp] theorem l1Drop_vfs (s : State) (c k : Nat) (x) : (s.l1Drop c k x).vfs = s.vfs := rfl
@[simp] theorem l1Drop_errs (s : State) (c k : Nat) (x) : (s.l1Drop c k x).errs = s.errs := rfl
@[simp] theorem l1Drop_scores (s : State) (c k : Nat) (x) : (s.l1Drop c k x).scores = s.scores := rfl
@[simp] theorem l1Drop_cap (s : State) (c k : Nat) (x) : (s.l1Drop c k x).cap = s.cap := rfl
@[simp] theorem l1Drop_share (s : State) (c k : Nat) (x) : (s.l1Drop c k x).share = s.share := rfl
@[simp] theorem l1Drop_snpSeq (s : State) (c k : Nat) (x) : (s.l1Drop c k x).snpSeq = s.snpSeq := rfl
@[simp] theorem l1Drop_snpAddr (s : State) (c k : Nat) (x) : (s.l1Drop c k x).snpAddr = s.snpAddr := rfl
@[simp] theorem l1Drop_snap (s : State) (c k : Nat) (x) : (s.l1Drop c k x).snap = s.snap := rfl
@[simp] theorem l1Drop_log (s : State) (c k : Nat) (x) : (s.l1Drop c k x).log = s.log := rfl
@[simp] theorem l1Drop_logHeld (s : State) (c k : Nat) (x) : (s.l1Drop c k x).logHeld = s.logHeld := rfl
@[simp] theorem l1Drop_logSeq (s : State) (c k : Nat) (x) : (s.l1Drop c k x).logSeq = s.logSeq := rfl
@[simp] theorem l1Drop_rndKind (s : State) (c k : Nat) (x) : (s.l1Drop c k x).rndKind = s.rndKind := rfl
@[simp] theorem l1Drop_rndPhase (s : State) (c k : Nat) (x) : (s.l1Drop c k x).rndPhase = s.rndPhase := rfl
@[simp] theorem l1Drop_resets (s : State) (c k : Nat) (x) : (s.l1Drop c k x).resets = s.resets := rfl
@[simp] theorem l1Drop_expSeq (s : State) (c k : Nat) (x) : (s.l1Drop c k x).expSeq = s.expSeq := rfl
@[simp] theorem l1Drop_sweeps (s : State) (c k : Nat) (x) : (s.l1Drop c k x).sweeps = s.sweeps := rfl
@[simp] theorem l1Drop_touched (s : State) (c k : Nat) (x) : (s.l1Drop c k x).touched = s.touched := rfl
@[simp] theorem l1Drop_keys (s : State) (c k : Nat) (x) : (s.l1Drop c k x).keys = s.keys := rfl
@[simp] theorem l1Drop_keyIds (s : State) (c k : Nat) (x) : (s.l1Drop c k x).keyIds = s.keyIds := rfl
@[simp] theorem l1Drop_sealKey (s : State) (c k : Nat) (x) : (s.l1Drop c k x).sealKey = s.sealKey := rfl
@[simp] theorem l1Drop_stackCopy (s : State) (c k : Nat) (x) : (s.l1Drop c k x).stackCopy = s.stackCopy := rfl
@[simp] theorem l1Drop_outbox (s : State) (c k : Nat) (x) : (s.l1Drop c k x).outbox = s.outbox := rfl
@[simp] theorem l1Drop_irqs (s : State) (c k : Nat) (x) : (s.l1Drop c k x).irqs = s.irqs := rfl

/-! ## tlbPut -/

@[simp] theorem tlbPut_coreSt (s : State) (x) (j : Nat) : (s.tlbPut x).coreSt j = s.coreSt j := rfl
@[simp] theorem tlbPut_stackSt (s : State) (x) (j : Nat) : (s.tlbPut x).stackSt j = s.stackSt j := rfl
@[simp] theorem tlbPut_dieSt (s : State) (x) (j : Nat) : (s.tlbPut x).dieSt j = s.dieSt j := rfl
@[simp] theorem tlbPut_ctx (s : State) (x) (j : Nat) : (s.tlbPut x).ctx j = s.ctx j := rfl
@[simp] theorem tlbPut_queue (s : State) (x) (j : Nat) : (s.tlbPut x).queue j = s.queue j := rfl
@[simp] theorem tlbPut_link (s : State) (x) (j : Nat) : (s.tlbPut x).link j = s.link j := rfl
@[simp] theorem tlbPut_dom (s : State) (x) (j : Nat) : (s.tlbPut x).dom j = s.dom j := rfl
@[simp] theorem tlbPut_vf (s : State) (x) (j : Nat) : (s.tlbPut x).vf j = s.vf j := rfl
@[simp] theorem tlbPut_chan (s : State) (x) (j : Nat) : (s.tlbPut x).chan j = s.chan j := rfl
@[simp] theorem tlbPut_ring (s : State) (x) (j : Nat) : (s.tlbPut x).ring j = s.ring j := rfl
@[simp] theorem tlbPut_scoreOf (s : State) (x) (j : Nat) : (s.tlbPut x).scoreOf j = s.scoreOf j := rfl
@[simp] theorem tlbPut_kern (s : State) (x) (j : Nat) : (s.tlbPut x).kern j = s.kern j := rfl
@[simp] theorem tlbPut_team (s : State) (x) (j : Nat) : (s.tlbPut x).team j = s.team j := rfl
@[simp] theorem tlbPut_part (s : State) (x) (j : Nat) : (s.tlbPut x).part j = s.part j := rfl
@[simp] theorem tlbPut_agenda (s : State) (x) : (s.tlbPut x).agenda = s.agenda := rfl
@[simp] theorem tlbPut_cur (s : State) (x) : (s.tlbPut x).cur = s.cur := rfl
@[simp] theorem tlbPut_pair (s : State) (x) : (s.tlbPut x).pair = s.pair := rfl
@[simp] theorem tlbPut_free (s : State) (x) : (s.tlbPut x).free = s.free := rfl
@[simp] theorem tlbPut_next (s : State) (x) : (s.tlbPut x).next = s.next := rfl
@[simp] theorem tlbPut_groups (s : State) (x) : (s.tlbPut x).groups = s.groups := rfl
@[simp] theorem tlbPut_acc (s : State) (x) : (s.tlbPut x).acc = s.acc := rfl
@[simp] theorem tlbPut_mats (s : State) (x) : (s.tlbPut x).mats = s.mats := rfl
@[simp] theorem tlbPut_copies (s : State) (x) : (s.tlbPut x).copies = s.copies := rfl
@[simp] theorem tlbPut_colls (s : State) (x) : (s.tlbPut x).colls = s.colls := rfl
@[simp] theorem tlbPut_teams (s : State) (x) : (s.tlbPut x).teams = s.teams := rfl
@[simp] theorem tlbPut_kernels (s : State) (x) : (s.tlbPut x).kernels = s.kernels := rfl
@[simp] theorem tlbPut_mem (s : State) (x) : (s.tlbPut x).mem = s.mem := rfl
@[simp] theorem tlbPut_sram (s : State) (x) : (s.tlbPut x).sram = s.sram := rfl
@[simp] theorem tlbPut_tile (s : State) (x) : (s.tlbPut x).tile = s.tile := rfl
@[simp] theorem tlbPut_poison (s : State) (x) : (s.tlbPut x).poison = s.poison := rfl
@[simp] theorem tlbPut_sramPoison (s : State) (x) : (s.tlbPut x).sramPoison = s.sramPoison := rfl
@[simp] theorem tlbPut_tilePoison (s : State) (x) : (s.tlbPut x).tilePoison = s.tilePoison := rfl
@[simp] theorem tlbPut_l1 (s : State) (x) : (s.tlbPut x).l1 = s.l1 := rfl
@[simp] theorem tlbPut_l2 (s : State) (x) : (s.tlbPut x).l2 = s.l2 := rfl
@[simp] theorem tlbPut_cores (s : State) (x) : (s.tlbPut x).cores = s.cores := rfl
@[simp] theorem tlbPut_stks (s : State) (x) : (s.tlbPut x).stks = s.stks := rfl
@[simp] theorem tlbPut_dies (s : State) (x) : (s.tlbPut x).dies = s.dies := rfl
@[simp] theorem tlbPut_regEvents (s : State) (x) : (s.tlbPut x).regEvents = s.regEvents := rfl
@[simp] theorem tlbPut_matStall (s : State) (x) : (s.tlbPut x).matStall = s.matStall := rfl
@[simp] theorem tlbPut_allow (s : State) (x) : (s.tlbPut x).allow = s.allow := rfl
@[simp] theorem tlbPut_ctxs (s : State) (x) : (s.tlbPut x).ctxs = s.ctxs := rfl
@[simp] theorem tlbPut_queues (s : State) (x) : (s.tlbPut x).queues = s.queues := rfl
@[simp] theorem tlbPut_sets (s : State) (x) : (s.tlbPut x).sets = s.sets := rfl
@[simp] theorem tlbPut_lastDie (s : State) (x) : (s.tlbPut x).lastDie = s.lastDie := rfl
@[simp] theorem tlbPut_rot (s : State) (x) : (s.tlbPut x).rot = s.rot := rfl
@[simp] theorem tlbPut_headClock (s : State) (x) : (s.tlbPut x).headClock = s.headClock := rfl
@[simp] theorem tlbPut_replies (s : State) (x) : (s.tlbPut x).replies = s.replies := rfl
@[simp] theorem tlbPut_dbarHeld (s : State) (x) : (s.tlbPut x).dbarHeld = s.dbarHeld := rfl
@[simp] theorem tlbPut_rings (s : State) (x) : (s.tlbPut x).rings = s.rings := rfl
@[simp] theorem tlbPut_invals (s : State) (x) : (s.tlbPut x).invals = s.invals := rfl
@[simp] theorem tlbPut_migrs (s : State) (x) : (s.tlbPut x).migrs = s.migrs := rfl
@[simp] theorem tlbPut_links (s : State) (x) : (s.tlbPut x).links = s.links := rfl
@[simp] theorem tlbPut_heldFlits (s : State) (x) : (s.tlbPut x).heldFlits = s.heldFlits := rfl
@[simp] theorem tlbPut_routes (s : State) (x) : (s.tlbPut x).routes = s.routes := rfl
@[simp] theorem tlbPut_doms (s : State) (x) : (s.tlbPut x).doms = s.doms := rfl
@[simp] theorem tlbPut_parts (s : State) (x) : (s.tlbPut x).parts = s.parts := rfl
@[simp] theorem tlbPut_chans (s : State) (x) : (s.tlbPut x).chans = s.chans := rfl
@[simp] theorem tlbPut_vfs (s : State) (x) : (s.tlbPut x).vfs = s.vfs := rfl
@[simp] theorem tlbPut_errs (s : State) (x) : (s.tlbPut x).errs = s.errs := rfl
@[simp] theorem tlbPut_scores (s : State) (x) : (s.tlbPut x).scores = s.scores := rfl
@[simp] theorem tlbPut_cap (s : State) (x) : (s.tlbPut x).cap = s.cap := rfl
@[simp] theorem tlbPut_share (s : State) (x) : (s.tlbPut x).share = s.share := rfl
@[simp] theorem tlbPut_snpSeq (s : State) (x) : (s.tlbPut x).snpSeq = s.snpSeq := rfl
@[simp] theorem tlbPut_snpAddr (s : State) (x) : (s.tlbPut x).snpAddr = s.snpAddr := rfl
@[simp] theorem tlbPut_snap (s : State) (x) : (s.tlbPut x).snap = s.snap := rfl
@[simp] theorem tlbPut_log (s : State) (x) : (s.tlbPut x).log = s.log := rfl
@[simp] theorem tlbPut_logHeld (s : State) (x) : (s.tlbPut x).logHeld = s.logHeld := rfl
@[simp] theorem tlbPut_logSeq (s : State) (x) : (s.tlbPut x).logSeq = s.logSeq := rfl
@[simp] theorem tlbPut_rndKind (s : State) (x) : (s.tlbPut x).rndKind = s.rndKind := rfl
@[simp] theorem tlbPut_rndPhase (s : State) (x) : (s.tlbPut x).rndPhase = s.rndPhase := rfl
@[simp] theorem tlbPut_resets (s : State) (x) : (s.tlbPut x).resets = s.resets := rfl
@[simp] theorem tlbPut_expSeq (s : State) (x) : (s.tlbPut x).expSeq = s.expSeq := rfl
@[simp] theorem tlbPut_sweeps (s : State) (x) : (s.tlbPut x).sweeps = s.sweeps := rfl
@[simp] theorem tlbPut_touched (s : State) (x) : (s.tlbPut x).touched = s.touched := rfl
@[simp] theorem tlbPut_keys (s : State) (x) : (s.tlbPut x).keys = s.keys := rfl
@[simp] theorem tlbPut_keyIds (s : State) (x) : (s.tlbPut x).keyIds = s.keyIds := rfl
@[simp] theorem tlbPut_sealKey (s : State) (x) : (s.tlbPut x).sealKey = s.sealKey := rfl
@[simp] theorem tlbPut_stackCopy (s : State) (x) : (s.tlbPut x).stackCopy = s.stackCopy := rfl
@[simp] theorem tlbPut_outbox (s : State) (x) : (s.tlbPut x).outbox = s.outbox := rfl
@[simp] theorem tlbPut_irqs (s : State) (x) : (s.tlbPut x).irqs = s.irqs := rfl

end Sys2Proof.Laws
end

