-- ==== Sys2Proof/Tests/Slice0.lean ====
section
/-! SUPPORT. Tests: the well-formedness checks refuse, words of the spec decode, and the hypotheses of every statement
are met. A state is a small change of `base`: one group of one team of one kernel of context 0 on core 0. -/

namespace Sys2Proof.Tests

open Sys2Proof Sys2Proof.Machine

/-! ## Helpers -/

def g0 : Group := { slot0 := { mask := 0xFFFFFFFF } }
def t0 : Team := { slots := [0], live := [0], scratchLen := 1024, tiles := 64 }
def k0 : Kernel := { rec_ := { regs := 256, team := 1, gridTeams := 1, flags := 0 }, st := .running }
def base : State :=
  { groups := [(0, g0)], teams := [(0, t0)], kernels := [(0, k0)]
    ctxs := [(0, { st := .active, rate := 0xFFFFFF, enable := true })], next := 1 }

def withG (g : Group) : State := { base with groups := [(0, g)] }
def withS (l : Tbl W64) : State := withG { g0 with sreg := l }

/-- The environment of the issuer, where it has a group. -/
def at_ (o : Fields) (s : State) : Env := (s.envAt s.cur o).getD ⟨{}, {}, 0, 0, 0, o, {}, 0, {}⟩

def readyB (mk : Fields → Instr) (o : Fields) (s : State) : Bool :=
  decide ((mk o).fields = some o) && (s.envAt s.cur o).isSome && decide ((mk o).check = none) &&
    !s.waits (mk o) (at_ o s) && !accBad (mk o) (at_ o s) && !latchBad (at_ o s).g (mk o) o

theorem at_o {o : Fields} {s : State} : (at_ o s).o = o := by
  unfold at_ State.envAt; split <;> rfl

theorem ready {mk : Fields → Instr} {o : Fields} {s : State} (h : readyB mk o s = true) :
    Ready (mk (at_ o s).o) s (at_ o s) := by
  simp only [readyB, Bool.and_eq_true, decide_eq_true_eq, Bool.not_eq_true'] at h
  obtain ⟨⟨⟨⟨⟨hf, he⟩, hc⟩, hw⟩, ha⟩, hl⟩ := h
  rw [at_o]
  refine ⟨?_, by rw [at_o]; exact hf, hc, fun _ => hw, ha, by rw [at_o]; exact hl⟩
  rw [at_o]; unfold at_
  obtain ⟨e, he⟩ := Option.isSome_iff_exists.1 he
  rw [he]; rfl

/-- The first of some operand records that passes the checks. -/
def pick (mk : Fields → Instr) (l : List Fields) : Fields := (l.find? fun o => decide ((mk o).check = none)).getD {}

def ss (t : Ty) : List Fields :=
  [{ a := .s 1, ty := t }, { a := .s 1, b := .s 2, ty := t }, { a := .s 1, b := .s 2, c := .s 3, ty := t }]
def vs (t : Ty) : List Fields := [{ dst := 8, a := .v 2, ty := t }, { dst := 8, a := .v 2, b := .v 4, ty := t },
  { dst := 8, a := .v 2, b := .v 4, c := .v 6, ty := t }]

/-- An instruction issues somewhere, and its result has room. -/
def Issues (mk : Fields → Instr) : Prop :=
  ∃ (s : State) (e : Env) (now : Group), Ready (mk e.o) s e ∧ s.group? e.me.core e.me.slot = some now ∧ e.run ≠ 0 ∧
    e.room (e.issued (mk e.o) s.pair.isSome now).v (resultNames e.o.dst.toNat true) ∧
    e.room (e.issued (mk e.o) s.pair.isSome now).v (resultNames e.o.dst.toNat false)

def roomB (e : Env) (v : Tbl VReg) (names : List Nat) : Bool :=
  decide ((names.foldl (fun t n => t.put n []) v).length ≤ e.kern.rec_.regs)

def issuesB (mk : Fields → Instr) (o : Fields) (s : State) (g : Group) : Bool :=
  let e := at_ o s
  readyB mk o s && decide (s.group? e.me.core e.me.slot = some g) && decide (e.run ≠ 0) &&
    roomB e (e.issued (mk o) s.pair.isSome g).v (resultNames o.dst.toNat true) &&
    roomB e (e.issued (mk o) s.pair.isSome g).v (resultNames o.dst.toNat false)

theorem issues {mk : Fields → Instr} (o : Fields) (s : State) (g : Group) (h : issuesB mk o s g = true) : Issues mk := by
  simp only [issuesB, Bool.and_eq_true, decide_eq_true_eq] at h
  obtain ⟨⟨⟨⟨h1, h2⟩, h3⟩, h4⟩, h5⟩ := h
  exact ⟨s, at_ o s, g, ready h1, h2, h3, by rw [at_o]; unfold Env.room; exact of_decide_eq_true h4,
    by rw [at_o]; unfold Env.room; exact of_decide_eq_true h5⟩

theorem issues_all {α : Type} {l : List α} {f : α → Fields → Instr} {cs : List Fields}
    (h : l.all (fun p => issuesB (f p) (pick (f p) cs) base g0) = true) : ∀ p ∈ l, Issues (f p) :=
  fun p hp => issues _ base g0 (List.all_eq_true.1 h p hp)

/-! ## Witnesses: registers, integer and floating instructions -/

theorem witness_IntegerResults : (∀ p ∈ scalarOps, Issues p.1) ∧ (∀ p ∈ vectorOps, Issues p.1) :=
  ⟨issues_all (f := Prod.fst) (cs := ss .i64) (by decide), issues_all (f := Prod.fst) (cs := vs .i64 ++ vs .b64) (by decide)⟩

theorem witness_ScalarOtherResults : Issues .ssel ∧ Issues .slea ∧ Issues .smovi ∧ Issues .scmp :=
  ⟨issues { dst := 8, a := .s 1, b := .s 2, ty := .i32 } base g0 (by decide),
   issues { dst := 8, a := .s 1, b := .s 2, ty := .n64 } base g0 (by decide),
   issues { dst := 8, a := .imm, ty := .b64, wide := some 5 } base g0 (by decide),
   issues { dst := 1, a := .s 1, b := .s 2, ty := .i32 } base g0 (by decide)⟩

theorem witness_VectorOtherResults : Issues .vmadw ∧ Issues .vdot4 ∧ Issues .vsel ∧ Issues .vcmp :=
  ⟨issues { dst := 8, a := .v 2, b := .v 4, c := .v 6, ty := .n64 } base g0 (by decide),
   issues { dst := 8, a := .v 2, b := .v 4, c := .v 6, ty := .i32, low := 0x20000 } base g0 (by decide),
   issues { dst := 8, a := .v 2, b := .v 4, c := .v 1, ty := .b64 } base g0 (by decide),
   issues { dst := 1, a := .v 2, b := .v 4, ty := .i32 } base g0 (by decide)⟩

theorem witness_PredicateResults : (∀ p ∈ predOps, Issues p.1) ∧ Issues .pmov :=
  ⟨issues_all (f := Prod.fst) (cs := [{ dst := 1, a := .v 2, b := .v 3, ty := .pred }, { dst := 1, a := .v 2, ty := .pred }])
     (by decide),
   issues { dst := 1, a := .s 2, ty := .pred } base g0 (by decide)⟩

theorem witness_LaneResults : Issues .pcnt ∧ Issues .pffs ∧ (∀ m ∈ [VoteMode.any, .all, .eq, .ballot], Issues (.vote m)) ∧
    Issues .vfirst ∧ Issues .vmovs ∧ (∀ m ∈ [ShflMode.idx, .up, .down, .xor], Issues (.shfl m)) :=
  ⟨issues { dst := 8, a := .v 1, ty := .pred } base g0 (by decide), issues { dst := 8, a := .v 1, ty := .pred } base g0 (by decide),
   issues_all (cs := [{ dst := 8, a := .v 1, ty := .pred }]) (by decide),
   issues { dst := 8, a := .v 2, ty := .b32 } base g0 (by decide),
   issues { dst := 8, a := .v 2, b := .s 1, ty := .b32 } base g0 (by decide),
   issues_all (cs := [{ dst := 8, a := .v 2, b := .v 4, ty := .b32 }]) (by decide)⟩

theorem witness_Reductions : Issues .vred ∧ Issues .vscan ∧
    ∃ s e, Ready (.vred e.o) s e ∧ e.o.ty = .n32 ∧ e.o.md.spec.toNat % 8 = 0 :=
  ⟨issues { dst := 8, a := .v 2, ty := .f32 } base g0 (by decide), issues { dst := 8, a := .v 2, ty := .i32 } base g0 (by decide),
   base, at_ { dst := 8, a := .v 2, ty := .n32 } base, ready (by decide), by decide, by decide⟩

theorem witness_FloatResults : (∀ p ∈ floatOps, Issues p.1) ∧ Issues .fcmp ∧
    (∀ mk ∈ [Instr.fclass, .fscale, .frnd], Issues mk) :=
  ⟨issues_all (f := Prod.fst) (cs := vs .f64) (by decide), issues { dst := 1, a := .v 2, b := .v 4, ty := .f32 } base g0 (by decide),
   issues_all (f := id) (cs := vs .f32) (by decide)⟩

/-- A result of a deferred function that has come back, of a group whose tag is `t`. -/
def afterFdiv (t : Nat) : State :=
  { base with
    acc := [(7, { core := 0, slot := 0, pcs := 0, tag := 0, team := 0, ctx := 0, space := .sfu, op := .load, ty := .f32,
                  dst := some 8, lanes := 3, got := [(0, [5]), (1, [6])] })]
    cores := [(0, { tags := [(0, t)] })] }

theorem witness_DeferredFunctions : Issues .fdiv ∧ Issues .fsqrt ∧ (∀ p ∈ approxOps, Issues p.1) ∧
    (∃ (s : State) (id d : Nat) (a : Access) (now : Group), s.acc.find? id = some a ∧ a.dst = some d ∧ a.left = 0 ∧
      a.count = 1 ∧ a.path = none ∧ a.dying = 0 ∧ (s.coreSt a.core).tags.get 0 a.slot = a.tag ∧
      s.group? a.core a.slot = some now ∧ now.arrival = none ∧ s.returnBlocked id a = false ∧ s.teams.has now.team = true ∧
      ((resultNames d (a.ty.width = 64)).foldl (fun t n => t.put n []) now.v).length ≤
        (s.kern (s.team now.team).kid).rec_.regs) ∧
    ∃ (s : State) (id d : Nat) (a : Access), s.acc.find? id = some a ∧ a.dst = some d ∧ a.left = 0 ∧
      (s.coreSt a.core).tags.get 0 a.slot ≠ a.tag :=
  ⟨issues { dst := 8, a := .v 2, b := .v 4, ty := .f32 } base g0 (by decide), issues { dst := 8, a := .v 2, ty := .f64 } base g0 (by decide),
   issues_all (f := Prod.fst) (cs := vs .f32) (by decide),
   ⟨afterFdiv 0, 7, 8, _, g0, rfl, rfl, rfl, rfl, rfl, rfl, by decide, rfl, rfl, by decide, by decide, by decide⟩,
   afterFdiv 3, 7, 8, _, rfl, rfl, rfl, by decide⟩

theorem witness_Conversions : Issues .cvt ∧ Issues .qcvt :=
  ⟨issues { dst := 8, a := .v 2, ty := .i32, low := 0x160000 } base g0 (by decide),
   issues { dst := 8, a := .v 2, b := .v 4, ty := .q8, low := 0x80160000 } base g0 (by decide)⟩

/-! ## Witnesses: control -/

/-- An instruction of operands `o` is ready in `s`, and more holds. -/
def Meets (mk : Fields → Instr) (o : Fields) (s : State) (x : Env → Prop) : Prop := Ready (mk (at_ o s).o) s (at_ o s) ∧ x (at_ o s)

theorem meets {mk : Fields → Instr} {o : Fields} {s : State} {x : Env → Prop} (h : readyB mk o s = true) (hx : x (at_ o s)) :
    Meets mk o s x := ⟨ready h, hx⟩

def can (e : Env) : Prop := e.abortable base

theorem can_base {o : Fields} {s : State} (h : s.kernels = base.kernels) (hk : (at_ o s).kid = 0) : (at_ o s).abortable s :=
  ⟨k0, by rw [hk, h]; rfl, rfl⟩

theorem witness_Transfers :
    (∀ mk ∈ [Instr.bra, .call], ∃ o, Meets mk o base fun e => branchTarget e.pc e.o.low = some 12) ∧
    (∀ all, ∃ o, Meets (.bru all) o base fun e => condDiff e = 0 ∧ branchTarget e.pc e.o.low = some 64) ∧
    (∀ mk ∈ [Instr.brx, .ret, .callx], ∃ o s, Meets mk o s fun e =>
      e.scal e.o.a .n64 < 2 ^ 57 ∧ (slotIndex (e.scal e.o.a .n64)).isSome = true) ∧
    (∃ o, Meets .bra o base fun e => branchTarget e.pc e.o.low = none ∧ e.abortable base) ∧
    (∃ o s, Meets .brx o s fun e => 2 ^ 57 ≤ e.scal e.o.a .n64 ∧ e.abortable s) ∧
    ∃ o s, Meets .brx o s fun e => e.scal e.o.a .n64 < 2 ^ 57 ∧ slotIndex (e.scal e.o.a .n64) = none ∧ e.abortable s := by
  refine ⟨?_, ?_, ?_, ?_, ?_, ?_⟩
  · intro mk h
    simp only [List.mem_cons, List.not_mem_nil, or_false] at h
    rcases h with rfl | rfl <;> exact ⟨{ low := 1 }, meets (by decide) (by decide)⟩
  · rintro (_ | _) <;> exact ⟨{ low := 5, pred := 1 }, meets (by decide) (by decide)⟩
  · intro mk h
    simp only [List.mem_cons, List.not_mem_nil, or_false] at h
    rcases h with rfl | rfl | rfl <;>
      exact ⟨{ a := .s 1 }, withS [(1, BitVec.ofNat 64 (2 ^ 57 - 16))], meets (by decide) (by decide)⟩
  · exact ⟨{ low := 0xFFFFFFFF }, meets (by decide) ⟨by decide, can_base rfl rfl⟩⟩
  · exact ⟨{ a := .s 1 }, withS [(1, BitVec.ofNat 64 (2 ^ 57))], meets (by decide) ⟨by decide, can_base rfl rfl⟩⟩
  · exact ⟨{ a := .s 1 }, withS [(1, 13)], meets (by decide) ⟨by decide, by decide, can_base rfl rfl⟩⟩

theorem witness_LoopCounts :
    ∀ n ∈ [(0 : Nat), 1, 2], ∃ o s, Meets .loop o s fun e => e.g.sval e.o.dst.toNat = n ∧ branchTarget e.pc e.o.low = some 12 := by
  intro n h
  simp only [List.mem_cons, List.not_mem_nil, or_false] at h
  rcases h with rfl | rfl | rfl
  · exact ⟨{ dst := 1, low := 1 }, withS [], meets (by decide) (by decide)⟩
  · exact ⟨{ dst := 1, low := 1 }, withS [(1, 1)], meets (by decide) (by decide)⟩
  · exact ⟨{ dst := 1, low := 1 }, withS [(1, 2)], meets (by decide) (by decide)⟩

/-- The issuing slot at index `x` with the other slot `y`, stack depth `d`, and p1. -/
def split (x : Nat) (y : PcSlot) (d : Nat) (p : W32) : State :=
  withG { slot0 := { mask := 0xFFFF, index := x }, slot1 := y, depth := d, preds := [(1, p)] }

def other (m : Mask) (x : Nat) (h : Held) : PcSlot := { mask := m, index := x, held := h }

theorem witness_SplitsAndMerges_DBR :
    let o : Fields := { pred := 1, dst := 3, low := 5 }
    let d (s : State) (x : Env → Prop) := Meets .dbr o s fun e =>
      condDiff e = 0 ∧ branchTarget e.pc e.o.low = some 64 ∧ (s.group? 0 0).isSome = true ∧ x e
    d (split 255 {} 0 0) (fun e => e.run = 0) ∧
    d (split 255 {} 0 0xFFFF) (fun e => e.run ≠ 0 ∧ e.run = e.live) ∧
    d (split 255 {} 0 1) (fun e => e.run ≠ 0 ∧ e.run ≠ e.live ∧ (e.g.slotAt e.me.pcs).index = 0xFF) ∧
    d (split 254 (other 0xF0000 254 .no) 63 1) (fun e => e.run ≠ 0 ∧ e.run ≠ e.live ∧ (e.g.slotAt e.me.pcs).index ≠ 0xFF ∧
      e.g.depth < 64 ∧ e.me.pcs < 2 ∧ (e.g.slotAt (1 - e.me.pcs)).held = .no ∧ e.g.cinch.find? (1 - e.me.pcs) = none) ∧
    d (split 3 { other 0xF0000 3 (.rcv 3) with pc := 64 } 0 1) (fun e => e.run ≠ 0 ∧ e.run ≠ e.live ∧
      (e.g.slotAt e.me.pcs).index = 3 ∧ (e.g.slotAt (1 - e.me.pcs)).held = .rcv 3 ∧
      (e.g.slotAt (1 - e.me.pcs)).pc = slotAddr (4 + 1) ∧ e.g.cinch.find? (1 - e.me.pcs) = none) ∧
    d (split 3 (other 0xF0000 3 .bar) 0 1) (fun e => e.run ≠ 0 ∧ e.run ≠ e.live ∧ (e.g.slotAt e.me.pcs).index = 3 ∧
      (e.g.slotAt (1 - e.me.pcs)).held = .bar ∧ e.g.depth < 64) ∧
    d (split 0 (other 0xF0000 0 .no) 64 1) (fun e => e.run ≠ 0 ∧ e.run ≠ e.live ∧ (e.g.slotAt e.me.pcs).index ≠ 0xFF ∧
      64 ≤ e.g.depth ∧ e.abortable (split 0 (other 0xF0000 0 .no) 64 1)) :=
  ⟨meets (by decide) (by decide), meets (by decide) (by decide), meets (by decide) (by decide), meets (by decide) (by decide),
   meets (by decide) (by decide), meets (by decide) (by decide),
   meets (by decide) ⟨by decide, by decide, by decide, by decide, by decide, by decide, by decide, can_base rfl rfl⟩⟩

/-- R68, R69: a slot pushed while it waits at RCV 3, whose next slot is slot 0 of line 1, is pushed at slot 4 of line 0. -/
theorem test_pushed_at_rcv : ({ other 0xF0000 3 (.rcv 3) with pc := 64 } : PcSlot).pushedPc = 48 := by decide

/-- R324: lanes on the stack are live lanes of the group. -/
theorem test_stacked_lanes_live : ({ slot0 := { mask := 1 }, depth := 1, gone := 2, dead := 4 } : Group).liveLanes = 0xFFFFFFF9 := by
  decide

theorem witness_SplitsAndMerges_RCV :
    let r (s : State) (x : PcSlot → PcSlot → Group → Prop) := Meets .rcv { dst := 3 } s fun e =>
      e.me.pcs < 2 ∧ s.group? e.me.core e.me.slot = some e.g ∧ e.g.arrival = none ∧
        x (e.g.slotAt e.me.pcs) (e.g.slotAt (1 - e.me.pcs)) e.g
    r (split 2 {} 0 0) (fun x _ _ => x.index ≠ 3) ∧
    r (split 3 (other 0xF0000 3 .no) 0 0) (fun x y _ => x.index = 3 ∧ y.mask ≠ 0 ∧ y.index = 3 ∧ y.held ≠ .rcv 3) ∧
    r (split 3 {} 0 0) (fun x y g => x.index = 3 ∧ (y.mask = 0 ∧ y.held = .no) ∧ g.depth = 0) ∧
    r (split 3 (other 0xF0000 3 (.rcv 3)) 0 0) (fun x y g => x.index = 3 ∧ y.held = .rcv 3 ∧ g.depth = 0) ∧
    r (split 3 (other 0xF0000 3 (.rcv 3)) 1 0) (fun x y g => x.index = 3 ∧ y.held = .rcv 3 ∧ 0 < g.depth) :=
  ⟨meets (by decide) (by decide), meets (by decide) (by decide), meets (by decide) (by decide), meets (by decide) (by decide),
   meets (by decide) (by decide)⟩

/-- The load of a popped entry of two 64-bit words has been performed. -/
def popped (lo hi : Nat) : State :=
  { base with
    groups := [(0, { slot0 := { mask := 1, index := 3 }, slot1 := { held := .pop 7, index := 3 } })]
    acc := [(7, { core := 0, slot := 0, pcs := 1, tag := 0, team := 0, ctx := 0, space := .global, op := .pop 1,
                  lanes := 1, got := [(0, [lo, hi])], done := true })] }

theorem witness_SplitsAndMerges_pop :
    let ok (s : State) (x : Access → Prop) := ∃ id a now, s.group? 0 0 = some now ∧ (id, a) ∈ s.accOf 0 0 now.tag ∧
      a.op = .pop 1 ∧ a.left = 0 ∧ a.dying = 0 ∧ now.arrival = none ∧
      (∀ y ∈ s.accOf 0 0 now.tag, y = (id, a)) ∧ now.cinch.find? (2 + now.depth) = none ∧
      now.parked.find? now.depth = none ∧ x a
    ok (popped (2 ^ 57 - 4) (0xF0 * 2 ^ 16 + 254 * 2 ^ 48))
      (fun a => popEntry a = (2 ^ 57 - 4) + 2 ^ 80 * (0xF0 : Mask).toNat + 2 ^ 112 * 254) ∧
    (∃ k, (popped 0 0).kernels.find? 0 = some k ∧ k.st.abortable = true) ∧
    ok (popped 0 (2 ^ 56)) (fun a => 2 ^ 120 ≤ popEntry a ∧ popEntry a < 2 ^ 128) ∧
    ok (popped (2 ^ 57) 0) (fun a => popEntry a / 2 ^ 57 % 2 ^ 23 ≠ 0 ∧ popEntry a < 2 ^ 128) ∧
    ok (popped 0 (255 * 2 ^ 48)) (fun a => popEntry a / 2 ^ 112 % 256 = 255 ∧ popEntry a < 2 ^ 128) :=
  ⟨⟨7, _, _, rfl, .head _, rfl, rfl, rfl, rfl, by decide, rfl, rfl, by decide⟩, ⟨k0, rfl, rfl⟩,
   ⟨7, _, _, rfl, .head _, rfl, rfl, rfl, rfl, by decide, rfl, rfl, by decide⟩,
   ⟨7, _, _, rfl, .head _, rfl, rfl, rfl, rfl, by decide, rfl, rfl, by decide⟩,
   ⟨7, _, _, rfl, .head _, rfl, rfl, rfl, rfl, by decide, rfl, rfl, by decide⟩⟩

theorem witness_ExitYieldNop :
    Issues .nop ∧ Issues .yield ∧
    (let x (s : State) (o : Fields) (p : PcSlot → PcSlot → Env → Prop) := Meets .exit o s fun e =>
       s.group? e.me.core e.me.slot = some e.g ∧ e.g.arrival = none ∧ e.me.pcs < 2 ∧ (e.g.slotAt e.me.pcs).held = .no ∧
         p (e.g.slotAt e.me.pcs) (e.g.slotAt (1 - e.me.pcs)) e
     x (split 255 {} 0 1) { pred := 1 } (fun a _ e => a.mask &&& ~~~e.run ≠ 0) ∧
     x (split 255 {} 0 0) {} (fun a b e => a.mask &&& ~~~e.run = 0 ∧ b.mask = 0 ∧ b.held = .no ∧ e.g.depth = 0) ∧
     x (split 255 {} 1 0) {} (fun a b e => a.mask &&& ~~~e.run = 0 ∧ b.mask = 0 ∧ b.held = .no ∧ 0 < e.g.depth) ∧
     x (split 3 (other 0xF0000 3 (.rcv 3)) 0 0) {} (fun a b e => a.mask &&& ~~~e.run = 0 ∧ b.held = .rcv 3 ∧ b.mask ≠ 0 ∧
       e.g.depth = 0)) :=
  ⟨issues {} base g0 (by decide), issues {} base g0 (by decide), meets (by decide) (by decide), meets (by decide) (by decide),
   meets (by decide) (by decide), meets (by decide) (by decide)⟩

/-! ## Witnesses: memory instructions -/

def clustered (s : State) : State := { s with teams := [(0, { t0 with cluster := some 0 })] }

/-- The last lane of the active ones lies at the end of the allocation. -/
def placesB (p : (Fields → Instr) × Bool × MemForm) (o : Fields) (s : State) : Bool :=
  let e := at_ o s
  let n := p.2.2.count o * tyBytes o.ty
  readyB p.1 o s && decide (s.group? e.me.core e.me.slot = some e.g) && decide (e.run ≠ 0) &&
    (!p.2.2.compared || e.pairBad (fun l => wrapN 65 (e.sea l)) (p.2.2.data e) == 0) &&
    (List.range 32).all fun l => !e.run.getLsbD l ||
      (((s.atIssue (p.1 o) e).sramPlace e p.2.1 n l).isSome && decide (e.sea l % (tyBytes o.ty : Nat) = 0))

theorem witness_AccessesIssue :
    (∀ p ∈ scratchForms, placesB p (pick p.1 [{ dst := 8, a := .v 2, b := .imm, c := .v 4, ty := .i32, low := 1020 },
      { dst := 8, a := .v 2, b := .imm, ty := .i32, low := 0 }, { dst := 8, a := .v 2, b := .imm, c := .v 4, ty := .i32 },
      { a := .v 2, b := .imm, c := .v 4, ty := .i32 }]) (clustered base) = true) ∧
    (∀ p ∈ globalForms, ∃ o, Meets p.1 o base fun e => base.group? e.me.core e.me.slot = some e.g ∧ e.run ≠ 0 ∧
      (p.2.2.compared = true → e.pairBad e.gea (p.2.2.data e) = 0) ∧ base.globalFault e (isAtom (p.2.2.op e.o)) = none) ∧
    ∃ p ∈ (scratchForms.map fun p => (p.1, 0, p.2.2)) ++ globalForms, ∃ o, Meets p.1 o base fun e =>
      base.group? e.me.core e.me.slot = some e.g ∧ e.run = 0 ∧ p.2.2.ret e.o = false ∧
        ∀ x ∈ base.accOf e.me.core e.me.slot e.g.tag, x.2.path ≠ some p.2.1 := by
  refine ⟨by decide, ?_, _, List.mem_of_getElem? (i := 1) rfl,
    { pred := 1, a := .v 2, b := .imm, c := .v 4, ty := .i32 }, meets (by decide) ⟨rfl, by decide, rfl, fun _ h => nomatch h⟩⟩
  have h : globalForms.all (fun p =>
      let o := pick p.1 [{ dst := 8, a := .v 2, b := .imm, ty := .f32 }, { dst := 8, a := .v 2, b := .imm, c := .v 4, ty := .i32 },
        { a := .v 2, b := .imm, c := .v 4, ty := .f32 }, { a := .v 2, b := .imm, c := .v 4, ty := .i32 }]
      let e := at_ o base
      readyB p.1 o base && decide (base.group? e.me.core e.me.slot = some e.g) && decide (e.run ≠ 0) &&
        (!p.2.2.compared || e.pairBad e.gea (p.2.2.data e) == 0) && decide (base.globalFault e (isAtom (p.2.2.op e.o)) = none)) =
      true := by decide
  intro p hp
  have h := List.all_eq_true.1 h p hp
  simp only [Bool.and_eq_true, decide_eq_true_eq, Bool.or_eq_true, Bool.not_eq_true', beq_iff_eq] at h
  obtain ⟨⟨⟨⟨h1, h2⟩, h3⟩, h4⟩, h5⟩ := h
  exact ⟨_, ready h1, h2, h3, fun hc => by simpa [hc] using h4, h5⟩

theorem witness_MemoryFaultsAtIssue :
    (∃ s l, Meets .ldgRaw { dst := 8, a := .s 1, b := .imm, ty := .i32 } s fun e => e.abortable s ∧ l < 32 ∧ e.run.getLsbD l = true ∧
      2 ^ 57 ≤ e.gea l ∧ ∀ k < l, e.run.getLsbD k = true → e.gea k < 2 ^ 57) ∧
    (let m (x : Nat) (c : Bool) := ∃ s l, Meets .atomg { dst := 8, a := .s 1, b := .imm, c := .v 4, ty := .i32 } s fun e =>
        e.abortable s ∧ e.pairBad e.gea (fun l => e.atomData l) = 0 ∧ (∀ k, k < 32 → e.run.getLsbD k = true → e.gea k < 2 ^ 57) ∧
        l < 32 ∧ e.run.getLsbD l = true ∧
        e.gea l = x ∧ e.gea l % 4 ≠ 0 ∧ decide (e.gea l / 4096 = (e.gea l + 3) / 4096) = c;
      m 4091 true ∧ m 4093 false) ∧
    (let m (low : W32) (x : Int) := ∃ s l, Meets .sts { a := .v 2, b := .imm, c := .v 4, ty := .i32, low := low } s fun e =>
        e.abortable s ∧ e.pairBad (fun l => wrapN 65 (e.sea l)) (fun l => e.storeData (vecCount e.o) l) = 0 ∧ l < 32 ∧
        e.run.getLsbD l = true ∧ e.sea l = x ∧ (x < 0 ∨ (roundUp e.team.scratchLen 32 : Int) < x + 4);
      m 0xFFFFFFFF (-1) ∧ m 1021 1021) :=
  ⟨⟨withS [(1, BitVec.ofNat 64 (2 ^ 57))], 0, meets (by decide) ⟨can_base rfl rfl, by decide, by decide, by decide, by decide⟩⟩,
   ⟨⟨withS [(1, 4091)], 0, meets (by decide) ⟨can_base rfl rfl, by decide, by decide, by decide, by decide, by decide, by decide, by decide⟩⟩,
    ⟨withS [(1, 4093)], 0, meets (by decide) ⟨can_base rfl rfl, by decide, by decide, by decide, by decide, by decide, by decide, by decide⟩⟩⟩,
   ⟨⟨base, 0, meets (by decide) ⟨can_base rfl rfl, by decide, by decide, by decide, by decide, by decide⟩⟩,
    ⟨base, 0, meets (by decide) ⟨can_base rfl rfl, by decide, by decide, by decide, by decide, by decide⟩⟩⟩⟩

/-- A page of context 0 whose leaf lets everything through, at physical address 0. -/
def page0 (s : State) : State := { s with tlb := [{ stack := 0, ctx := 0, level := 0, vnum := 0, pte := 0x3F, wr := true }] }

def flight (a : Access) : State := page0 { base with acc := [(7, a)], next := 8 }

def acc0 (sp : Space) (op : AccOp) : Access :=
  { core := 0, slot := 0, pcs := 0, tag := 0, team := 0, ctx := 0, space := sp, op := op, path := some 0, ty := .i32,
    lanes := 3, left := 3, ea := [0, 4088], data := [[1], [2]] }

theorem performs {s : State} {id : Nat} {a : Access} {l : List Nat} (h : s.acc.find? id = some a)
    (hr : s.readyLanes id a = l) (hl : l ≠ []) (hh : l.all (fun x => match s.placeOf a (a.ea.getD x 0) with
      | .here _ => true | _ => false) = true) (hc : l.all (fun x => decide (s.checkLane a x = .ok)) = true)
    (hq : (s.group? a.core a.slot).all (fun g => decide (g.arrival = none)) = true) : Performs s id a l := by
  refine ⟨h, hr, hl, fun x hx => ?_, fun x hx => ?_, fun g hg => ?_⟩
  · have := List.all_eq_true.1 hh x hx; split at this
    · exact ⟨_, ‹_›⟩
    · exact absurd this (by decide)
  · exact of_decide_eq_true (List.all_eq_true.1 hc x hx)
  · rw [hg] at hq; exact of_decide_eq_true hq

theorem witness_AccessesPerform :
    (∀ sp ∈ [Space.global, .scratch, .cluster], ∃ s id a lanes, Performs s id a lanes ∧ a.op = .store ∧ a.space = sp ∧
      a.raised = 0 ∧ a.dying = 0) ∧
    (∀ sp ∈ [Space.global, .scratch, .cluster], ∃ s id a lanes d, Performs s id a lanes ∧ a.op = .load ∧ a.space = sp ∧ a.dst = some d) ∧
    ∃ s id a l op d, Performs s id a [l] ∧ a.op = .atom op true ∧ a.space = .scratch ∧ a.dst = some d ∧
      a.left = BitVec.ofNat 32 (2 ^ l) ∧ l < 32 ∧ s.sramPoison.contains (a.ea.getD l 0 / 8) = false := by
  refine ⟨?_, ?_, ?_⟩
  · intro sp h
    simp only [List.mem_cons, List.not_mem_nil, or_false] at h
    rcases h with rfl | rfl | rfl
    · exact ⟨flight (acc0 .global .store), 7, _, _, performs rfl rfl (by decide) (by decide) (by decide) (by decide), rfl, rfl, rfl, rfl⟩
    · exact ⟨flight (acc0 .scratch .store), 7, _, _, performs rfl rfl (by decide) (by decide) (by decide) (by decide), rfl, rfl, rfl, rfl⟩
    · exact ⟨flight (acc0 .cluster .store), 7, _, _, performs rfl rfl (by decide) (by decide) (by decide) (by decide), rfl, rfl, rfl, rfl⟩
  · intro sp h
    simp only [List.mem_cons, List.not_mem_nil, or_false] at h
    rcases h with rfl | rfl | rfl
    · exact ⟨flight { acc0 .global .load with dst := some 8 }, 7, _, _, 8, performs rfl rfl (by decide) (by decide) (by decide) (by decide), rfl, rfl, rfl⟩
    · exact ⟨flight { acc0 .scratch .load with dst := some 8 }, 7, _, _, 8, performs rfl rfl (by decide) (by decide) (by decide) (by decide), rfl, rfl, rfl⟩
    · exact ⟨flight { acc0 .cluster .load with dst := some 8 }, 7, _, _, 8, performs rfl rfl (by decide) (by decide) (by decide) (by decide), rfl, rfl, rfl⟩
  · exact ⟨flight { acc0 .scratch (.atom 0 true) with dst := some 8, lanes := 1, left := 1 }, 7, _, 0, 0, 8,
      performs rfl rfl (by decide) (by decide) (by decide) (by decide), rfl, rfl, rfl, rfl, by decide, by decide⟩

/-! ## Witnesses: waits, faults, caches -/

theorem witness_WaitsChangeNothing :
    let o : Fields := { a := .s 1, low := 0 }
    let w := withG { g0 with pathc := [1, 0, 0, 0] }
    let f : State := { withG { slot0 := { mask := 1, seen := [7] } } with acc := [(7, acc0 .scratch .store)] }
    let m : State := { withG { g0 with batch := 1 } with
      mats := [(7, { core := 0, team := 0, kid := 0, ctx := 0, ins := .mzero {}, members := [⟨0, 0, 0, 0, 0, 0⟩] })] }
    let o2 : Fields := { dst := 8, a := .s 1, b := .s 2, ty := .i32, sm := true }
    let s2 := flight { acc0 .scratch .load with dst := some 8 }
    let e2 := at_ o2 s2
    (Meets .waitc o w fun e => w.group? e.me.core e.me.slot = some e.g ∧ e.scal e.o.a .n64 < e.g.pathc.getD (e.o.md.spec.toNat % 4) 0) ∧
    (Meets .fence { low := 0x1800000 } f fun e => f.group? e.me.core e.me.slot = some e.g ∧
      f.fenceOver e.o.md.order.toNat e.o.md.scope.toNat (e.g.slotAt e.me.pcs).seen = false) ∧
    (Meets .mwait {} m fun e => m.group? e.me.core e.me.slot = some e.g ∧
      e.o.md.spec.toNat % 8 < m.closedOpen e.me.core e.me.slot e.g) ∧
    s2.pair = none ∧ s2.waits (.sadd o2) e2 = true ∧ s2.envAt s2.cur e2.o = some e2 ∧ (Instr.sadd o2).fields = some e2.o ∧ (Instr.sadd o2).check = none ∧ e2.o.sm = true ∧
      s2.group? e2.me.core e2.me.slot = some e2.g ∧ ∃ x ∈ s2.acc, x.2.core = e2.me.core ∧ x.2.slot = e2.me.slot ∧
        x.2.tag = e2.g.tag ∧ x.2.dst.isSome = true :=
  ⟨meets (by decide) ⟨rfl, by decide⟩, meets (by decide) ⟨rfl, by decide⟩, meets (by decide) ⟨rfl, by decide⟩, rfl, by decide,
   rfl, rfl, by decide, rfl, rfl, _, .head _, rfl, rfl, rfl, rfl⟩

theorem witness_IllegalInstructionsAbort :
    let bad : Fields := { dst := 9, a := .v 2, b := .v 4, ty := .i64 }
    let mz : Fields := { dst := 1, low := 1 }
    let few : State := { base with teams := [(0, { t0 with tiles := 0 })] }
    let la : Fields := { dst := 8, a := .latch 0, b := .v 4, ty := .i32 }
    ((base.envAt base.cur bad = some (at_ bad base)) ∧ (∀ raw, Instr.vadd bad ≠ .unassignedOpcode raw) ∧
      (Instr.vadd bad).check = some .illegalOperand ∧ (at_ bad base).abortable base) ∧
    (base.envAt base.cur (fieldsOf 0xFF none) = some (at_ (fieldsOf 0xFF none) base)) ∧
    (few.envAt few.cur mz = some (at_ mz few) ∧ (Instr.mzero mz).check = none ∧ few.waits (.mzero mz) (at_ mz few) = false ∧
      accBad (.mzero mz) (at_ mz few) = true) ∧
    base.envAt base.cur la = some (at_ la base) ∧ (Instr.vadd la).check = none ∧ base.waits (.vadd la) (at_ la base) = false ∧
      accBad (.vadd la) (at_ la base) = false ∧ latchBad (at_ la base).g (.vadd la) la = true :=
  ⟨⟨rfl, (fun _ h => nomatch h), by decide, can_base rfl rfl⟩, rfl, ⟨rfl, by decide, by decide, by decide⟩,
   rfl, by decide, by decide, by decide, by decide⟩

theorem witness_FencesAndCaches :
    (∀ x ∈ [(1, 1), (1, 2), (1, 3), (1, 4), (1, 5), (2, 1), (2, 5), (3, 1), (3, 4), (3, 5)], ∃ o, Meets .fence o base fun e =>
      (e.o.md.order.toNat, e.o.md.scope.toNat) = x ∧ base.fenceOver e.o.md.order.toNat e.o.md.scope.toNat (g0.slotAt e.me.pcs).seen = true) ∧
    (∃ o, Meets .waitc o base fun e => g0.pathc.getD (e.o.md.spec.toNat % 4) 0 ≤ e.scal e.o.a .n64) ∧ (∃ o, Meets .cinv o base fun e => e.o.md.spec.getLsbD 0 = true) ∧
    (∃ o, Meets .cinv o base fun e => e.o.md.spec.getLsbD 0 = false) ∧
    ∀ x ∈ [false, true], ∃ o s, Meets .pref o s fun e => e.o.md.spec.getLsbD 0 = x ∧ e.run = 1#32 <<< 0 ∧
      (∀ l, l < 32 → e.run.getLsbD l = true → e.gea l < 2 ^ 56 → ∃ n p,
        s.cached e.team.ctx (stackOfCore e.me.core) (e.gea l) false = some (n, p) ∧ s.permit e.team.ctx p .read = none ∧
          pteOrder p ≠ 0 ∧ s.poisoned (paOf n p (e.gea l)) = false ∧ (s.l1Hit e.me.core e.team.ctx (e.gea l)).isSome = false) := by
  have hf : [(1, 1), (1, 2), (1, 3), (1, 4), (1, 5), (2, 1), (2, 5), (3, 1), (3, 4), (3, 5)].all (fun x =>
      let o : Fields := { low := BitVec.ofNat 32 (2 ^ 23 * x.1 + 2 ^ 25 * x.2) }
      readyB .fence o base && decide ((at_ o base).o = o) && decide ((o.md.order.toNat, o.md.scope.toNat) = x) &&
        base.fenceOver o.md.order.toNat o.md.scope.toNat (g0.slotAt (at_ o base).me.pcs).seen) = true := by decide
  have hf' : ∀ x ∈ [(1, 1), (1, 2), (1, 3), (1, 4), (1, 5), (2, 1), (2, 5), (3, 1), (3, 4), (3, 5)], ∃ o, Meets .fence o base fun e =>
      (e.o.md.order.toNat, e.o.md.scope.toNat) = x ∧ base.fenceOver e.o.md.order.toNat e.o.md.scope.toNat (g0.slotAt e.me.pcs).seen = true := by
    intro x hx
    have h := List.all_eq_true.1 hf x hx
    simp only [Bool.and_eq_true, decide_eq_true_eq] at h
    exact ⟨_, ready h.1.1.1, by dsimp only; rw [at_o]; exact ⟨h.1.2, h.2⟩⟩
  refine ⟨hf', ⟨{ a := .s 1 }, meets (by decide) (by decide)⟩, ⟨{ low := 1 }, meets (by decide) (by decide)⟩,
    ⟨{ a := .s 1, b := .const 0 }, meets (by decide) (by decide)⟩, ?_⟩
  intro x h
  simp only [List.mem_cons, List.not_mem_nil, or_false] at h
  rcases h with rfl | rfl
  · refine ⟨{ a := .s 1, b := .const 0 }, page0 (withG { slot0 := { mask := 1 } }), meets (by decide) ⟨by decide, by decide, ?_⟩⟩
    intro l h1 h2 _
    have : l = 0 := by revert l; decide
    subst this
    exact ⟨0, 0x3F, rfl, by decide, by decide, by decide, by decide⟩
  · refine ⟨{ a := .s 1, b := .const 0, low := 1 }, page0 (withG { slot0 := { mask := 1 } }), meets (by decide) ⟨by decide, by decide, ?_⟩⟩
    intro l h1 h2 _
    have : l = 0 := by revert l; decide
    subst this
    exact ⟨0, 0x3F, rfl, by decide, by decide, by decide, by decide⟩

/-! ## Witnesses: the matrix unit, copies, collectives and records -/

/-- Two groups of a team in slots 0 and 256, the first with gang register `r`, the second's arrivals `c` at the cinch. -/
def pair (r : W64) (c : Tbl CinchArr) (s1 : W64) : State :=
  { base with
    groups := [(0, { g0 with gang := r, sreg := [(1, s1)] }), (256, { g0 with idx := 1, gang := 3, cinch := c })]
    teams := [(0, { t0 with slots := [0, 256], live := [0, 1] })]
    kernels := [(0, { k0 with rec_ := { k0.rec_ with team := 2 } })] }

def mmaO : Fields := { a := .s 2, b := .s 2, c := .s 2, ty := .f32, low := 0x160000 }

def arr1 : CinchArr := { seq := 1, ins := .mma mmaO, gang := 3, batch := 0, a := 0, b := 0, c := 0, upto := 0, pc := 0 }

theorem witness_MatrixIssue :
    let now (s : State) (e : Env) : Prop := s.group? e.me.core e.me.slot = some e.g
    (∃ s, Meets .gang { a := .s 1, ty := .b64 } s fun e => now s e ∧ BitVec.ofNat 64 (e.scal e.o.a .b64) ≠ e.g.gang ∧
      s.gangBroken e.g.team e.g.idx e.g.mmaSeq (· == e.g.gang) = false) ∧
    (∃ s, Meets .gang { a := .s 1, ty := .b64 } s fun e => now s e ∧ BitVec.ofNat 64 (e.scal e.o.a .b64) ≠ e.g.gang ∧
      s.gangBroken e.g.team e.g.idx e.g.mmaSeq (· == e.g.gang) = true ∧ e.abortable s) ∧
    (∃ s, Meets .mma mmaO s fun e => now s e ∧ gangOk e.g.gang e.kern.rec_.team e.g.idx = true ∧
      s.memberLost e.g.team e.g.gang (e.g.mmaSeq + 1) = false) ∧
    (∃ s, Meets .mma mmaO s fun e => now s e ∧ gangOk e.g.gang e.kern.rec_.team e.g.idx = false ∧ e.abortable s) ∧
    Issues .mzero ∧
    (∃ o, Meets .mld o base fun e => now base e ∧ e.blockFault (nTiles e.o * viewRows e.o.ty) (128 * tyBytes e.o.ty) = none) ∧
    (∃ o, Meets .mst o base fun e => now base e ∧ e.blockFault (nTiles e.o * viewRows e.o.md.type2) (128 * tyBytes e.o.ty) = none) ∧
    (∃ o n, Meets .mmov o base fun e => now base e ∧ e.prot = false ∧ e.o.a = .v n) ∧ Issues .mfence ∧
    ∃ s o, Meets .mwait o s fun e => now s e ∧ s.closedOpen e.me.core e.me.slot e.g ≤ e.o.md.spec.toNat % 8 :=
  ⟨⟨pair 0 [] 3, meets (by decide) ⟨rfl, by decide, by decide⟩⟩,
   ⟨pair 3 [(0, arr1)] 0, meets (by decide) ⟨rfl, by decide, by decide, ⟨_, rfl, rfl⟩⟩⟩,
   ⟨pair 3 [] 0, meets (by decide) ⟨rfl, by decide, by decide⟩⟩,
   ⟨pair 2 [] 0, meets (by decide) ⟨rfl, by decide, ⟨_, rfl, rfl⟩⟩⟩,
   issues { dst := 1, low := 1 } base g0 (by decide),
   ⟨{ dst := 1, a := .s 1, b := .s 2, ty := .f32 }, meets (by decide) ⟨rfl, by decide⟩⟩,
   ⟨{ a := .s 1, b := .s 2, ty := .f32, low := 0x160000 }, meets (by decide) ⟨rfl, by decide⟩⟩,
   ⟨{ dst := 8, b := .s 1, ty := .b32 }, 0, meets (by decide) ⟨rfl, by decide, rfl⟩⟩,
   issues {} base g0 (by decide),
   ⟨{ withG { g0 with batch := 1 } with
      mats := [(7, { core := 0, team := 0, kid := 0, ctx := 0, ins := .mzero {}, members := [⟨0, 0, 0, 0, 0, 0⟩] })] },
    { low := 1 }, meets (by decide) ⟨rfl, by decide⟩⟩⟩

theorem witness_AsyncIssue :
    let now (s : State) (e : Env) : Prop := s.group? e.me.core e.me.slot = some e.g ∧ e.prot = false ∧ e.takes = true
    let o : Fields := { a := .s 1, b := .s 2, c := .s 3 }
    (∃ s, Meets .cpy o s fun e => now s e ∧ e.scal e.o.c .n64 = 2 ^ 32 ∧ e.scal e.o.a .n64 + 2 ^ 32 = 2 ^ 56 ∧ e.scal e.o.b .n64 + 2 ^ 32 ≤ 2 ^ 56 ∧
      e.o.md.spec.getLsbD 8 = false ∧ e.o.md.spec.getLsbD 9 = false) ∧
    (∃ s, Meets .cpy { o with low := 0x100 } s fun e => now s e ∧ e.o.md.spec.getLsbD 8 = true ∧
      e.scal e.o.a .n64 + e.scal e.o.c .n64 = roundUp e.team.scratchLen 32) ∧
    (∃ s, Meets .tcpy { o with c := .s 4 } s fun e => now s e ∧ e.scal e.o.a .n64 < 2 ^ 56 ∧ e.scal e.o.a .n64 % 128 = 0) ∧
    (∃ s, Meets .spawn o s fun e => now s e ∧ e.scal e.o.b .n64 % 1024 = 0 ∧ e.scal e.o.c .n64 % 32 = 0 ∧ e.kern.rec_.cluster = 0) ∧
    (∃ s, Meets .jdec { a := .s 1 } s fun e => now s e ∧ e.scal e.o.a .n64 < 2 ^ 56 ∧ e.scal e.o.a .n64 % 32 = 0) ∧
    (∃ s lvl p, Meets .coll { a := .s 1 } s fun e => now s e ∧ e.scal e.o.a .n64 < 2 ^ 56 ∧ e.scal e.o.a .n64 % 64 = 0 ∧
      s.cached e.team.ctx 0 0 false = some (lvl, p) ∧ s.permit e.team.ctx p .read = none ∧
      (s.part (s.partOfCtx e.team.ctx)).ownsEngine (dieOfCore e.me.core) = true ∧
      let bs := s.bytesAt e.team.ctx 0 0 64
      collOk bs (s.selfRank e.team.ctx) (s.domOf e.team.ctx).isSome = true ∧ field bs 0x18 8 = 0 ∧ field bs 0x20 8 = 0 ∧
        field bs 0x28 8 = 0 ∧ field bs 8 8 = 1) ∧
    (∀ mk ∈ [Instr.cpy, .tcpy, .spawn, .jdec, .coll], ∃ o, Meets mk o base fun e => e.prot = false ∧ e.takes = false) := by
  refine ⟨⟨withS [(1, BitVec.ofNat 64 (2 ^ 56 - 2 ^ 32)), (3, BitVec.ofNat 64 (2 ^ 32))], meets (by decide) ⟨⟨rfl, by decide, by decide⟩, by decide, by decide, by decide, by decide, by decide⟩⟩,
    ⟨withS [(1, 1000), (3, 24)], meets (by decide) ⟨⟨rfl, by decide, by decide⟩, by decide, by decide⟩⟩,
    ⟨withS [(1, 128)], meets (by decide) ⟨⟨rfl, by decide, by decide⟩, by decide, by decide⟩⟩,
    ⟨withS [(2, 1024)], meets (by decide) ⟨⟨rfl, by decide, by decide⟩, by decide, by decide, by decide⟩⟩,
    ⟨withS [(1, 32)], meets (by decide) ⟨⟨rfl, by decide, by decide⟩, by decide, by decide⟩⟩,
    ⟨page0 { base with mem := [(2, 3), (8, 1), (16, 1)] }, 0, 0x3F, meets (by decide) ⟨⟨rfl, by decide, by decide⟩, by decide, by decide, rfl, by decide,
      by decide, by decide, by decide, by decide, by decide, by decide⟩⟩, ?_⟩
  intro mk h
  simp only [List.mem_cons, List.not_mem_nil, or_false] at h
  rcases h with rfl | rfl | rfl | rfl | rfl
  · exact ⟨{ pred := 1, a := .s 1, b := .s 2, c := .s 3 }, meets (by decide) (by decide)⟩
  · exact ⟨{ pred := 1, a := .s 1, b := .s 2, c := .s 4 }, meets (by decide) (by decide)⟩
  · exact ⟨{ pred := 1, a := .s 1, b := .s 2, c := .s 3 }, meets (by decide) (by decide)⟩
  · exact ⟨{ pred := 1, a := .s 1 }, meets (by decide) (by decide)⟩
  · exact ⟨{ pred := 1, a := .s 1 }, meets (by decide) (by decide)⟩

/-! ## Witnesses: barriers and system instructions -/

theorem arrives {e : Env} {s : State} {now : Group} (h : (decide (s.group? e.me.core e.me.slot = some now) &&
    decide (now.arrival = none) && decide (now.liveLanes &&& ~~~e.live = 0) && decide (now.liveLanes ≠ 0) &&
    decide (s.accOf e.me.core e.me.slot now.tag = [])) = true) : e.lastToArrive s now := by
  simp only [Bool.and_eq_true, decide_eq_true_eq] at h
  exact ⟨h.1.1.1.1, h.1.1.1.2, h.1.1.2, h.1.2, h.2⟩

/-- One of two arms of a group, sixteen lanes each. -/
def halves (a : Option Arrival) : Group :=
  { g0 with slot0 := { mask := 0xFFFF }, slot1 := { mask := 0xFFFF0000 }, depth := 1, arrival := a }

/-- Domain 0 of context 0, of ranks 0 and 1 or 0 alone. -/
def inDomain (d : DomSt) (s : State) : State := { s with doms := [(0, { d with ctx := 0 })] }

def oBar (mk : Fields → Instr) : Fields := pick mk [{ low := 15 }, { a := .s 1, low := 15 }, {}, { a := .s 1 }]

theorem witness_TeamBarrier :
    (∀ p ∈ barForms, ∃ s, Meets p.1 (oBar p.1) (inDomain { st := .up } s) fun e => (inDomain { st := .up } s).group? e.me.core e.me.slot = some e.g ∧
      e.g.arrival = none ∧ e.g.liveLanes &&& ~~~e.live ≠ 0) ∧
    (∀ p ∈ barForms, ∃ s a, Meets p.1 (oBar p.1) (inDomain { st := .up } s) fun e => (inDomain { st := .up } s).group? e.me.core e.me.slot = some e.g ∧
      e.g.arrival = some a ∧ ¬ (a.op = p.2.op ∧ a.n = p.2.n e ∧ a.val = p.2.val e) ∧ e.abortable (inDomain { st := .up } s)) ∧
    (∀ n ∈ [1, 2], ∀ mk ∈ [Instr.bar, .cbar], ∃ s, s.kernels = base.kernels ∧ Meets mk (oBar mk) s fun e =>
      e.lastToArrive s e.g ∧ e.team = s.team e.g.team ∧ e.team.cluster = none ∧ e.team.live.length = n ∧ e.team.barArr = 0) ∧
    ∀ n ∈ [1, 2], ∃ s c, Meets .cbar (oBar .cbar) s fun e => e.lastToArrive s e.g ∧ e.team = s.team e.g.team ∧
      e.team.cluster = some c ∧ (s.teams.map Prod.fst).Pairwise (· < ·) ∧ s.teams.find? e.g.team = some e.team ∧
      ((s.clusterOf e.g.team).map fun x => x.2.clusArr).sum = 0 ∧ ((s.clusterOf e.g.team).map fun x => x.2.live.length).sum = n := by
  refine ⟨fun p hp => ?_, fun p hp => ?_, fun n hn mk hm => ?_, fun n hn => ?_⟩
  · simp only [barForms, List.mem_cons, List.not_mem_nil, or_false] at hp
    rcases hp with rfl | rfl | rfl | rfl | rfl <;>
      exact ⟨withG (halves none), meets (by decide) ⟨rfl, rfl, by decide⟩⟩
  · simp only [barForms, List.mem_cons, List.not_mem_nil, or_false] at hp
    rcases hp with rfl | rfl | rfl | rfl | rfl <;>
      exact ⟨withG (halves (some { op := 0, n := 0, val := 0, lanes := 0, prior := [] })), _, meets (by decide) ⟨rfl, rfl, by decide, can_base rfl rfl⟩⟩
  · simp only [List.mem_cons, List.not_mem_nil, or_false] at hn hm
    rcases hn with rfl | rfl <;> rcases hm with rfl | rfl
    · exact ⟨base, rfl, meets (by decide) ⟨arrives (by decide), rfl, rfl, rfl, rfl⟩⟩
    · exact ⟨base, rfl, meets (by decide) ⟨arrives (by decide), rfl, rfl, rfl, rfl⟩⟩
    · exact ⟨{ base with teams := [(0, { t0 with live := [0, 1] })] }, rfl, meets (by decide) ⟨arrives (by decide), rfl, rfl, rfl, rfl⟩⟩
    · exact ⟨{ base with teams := [(0, { t0 with live := [0, 1] })] }, rfl, meets (by decide) ⟨arrives (by decide), rfl, rfl, rfl, rfl⟩⟩
  · simp only [List.mem_cons, List.not_mem_nil, or_false] at hn
    rcases hn with rfl | rfl
    · exact ⟨clustered base, 0, meets (by decide) ⟨arrives (by decide), rfl, rfl, by decide, rfl, rfl, rfl⟩⟩
    · exact ⟨{ base with teams := [(0, { t0 with cluster := some 0, live := [0, 1] })] }, 0,
        meets (by decide) ⟨arrives (by decide), rfl, rfl, by decide, rfl, rfl, rfl⟩⟩

theorem witness_NamedBarriers :
    (∀ mk ∈ [Instr.bara, .barn], ∀ c ∈ [1, 2], ∃ s, Meets mk (oBar mk) s fun e => e.lastToArrive s e.g ∧ e.team = s.team e.g.team ∧
      s.kern e.team.kid = e.kern ∧ e.scal e.o.a .n32 = c ∧ c ≤ e.kern.rec_.team ∧
      (e.team.named.get {} (e.o.md.spec.toNat % 16)).counting = false) ∧
    (∃ s, Meets .barw (oBar .barw) s fun e => ∃ a, e.g.arrival = some a ∧ (a.op = opBara ∨ a.op = opBarn) ∧ a.n = e.o.md.spec.toNat % 16) ∧
    (∃ s, Meets .barw (oBar .barw) s fun e => e.g.arrival = none ∧ e.g.named.find? (e.o.md.spec.toNat % 16) =
      some ((s.team e.g.team).named.get {} (e.o.md.spec.toNat % 16)).phase) ∧
    ∃ s, Meets .barw (oBar .barw) s fun e => e.g.arrival = none ∧ e.g.named.find? (e.o.md.spec.toNat % 16) = none := by
  refine ⟨fun mk hm c hc => ?_, ⟨withG { g0 with arrival := some { op := opBara, n := 15, val := 0, lanes := 0, prior := [] } }, meets (by decide) ⟨_, rfl, .inl rfl, by decide⟩⟩,
    ⟨withG { g0 with named := [(15, false)] }, meets (by decide) ⟨rfl, by decide⟩⟩, base, meets (by decide) ⟨rfl, by decide⟩⟩
  let two (w : W64) : State := { withS [(1, w)] with kernels := [(0, { k0 with rec_ := { k0.rec_ with team := 2 } })] }
  simp only [List.mem_cons, List.not_mem_nil, or_false] at hm hc
  rcases hm with rfl | rfl <;> rcases hc with rfl | rfl
  · exact ⟨two 1, meets (by decide) ⟨arrives (by decide), rfl, rfl, by decide, by decide, rfl⟩⟩
  · exact ⟨two 2, meets (by decide) ⟨arrives (by decide), rfl, rfl, by decide, by decide, rfl⟩⟩
  · exact ⟨two 1, meets (by decide) ⟨arrives (by decide), rfl, rfl, by decide, by decide, rfl⟩⟩
  · exact ⟨two 2, meets (by decide) ⟨arrives (by decide), rfl, rfl, by decide, by decide, rfl⟩⟩

theorem witness_DomainBarrier :
    (Meets .dbar (oBar .dbar) base fun e => base.domOf e.team.ctx = none ∧ e.abortable base) ∧
    (∃ s m d, Meets .dbar (oBar .dbar) s fun e => s.domOf e.team.ctx = some (m, d) ∧ d.st = .broken ∧ e.abortable s) ∧
    (∃ s m d, Meets .dbar (oBar .dbar) s fun e => s.domOf e.team.ctx = some (m, d) ∧ s.doms.find? m = some d ∧ d.st ≠ .broken ∧
      e.lastToArrive s e.g ∧ e.team = s.team e.g.team ∧ d.barVal = none ∧ d.barLocal = false ∧ d.liveRanks = [d.rank] ∧
      d.rekeyPending = false ∧ d.barEarly = [] ∧ ∀ x ∈ s.groups, x.1 = gkey e.me.core e.me.slot ∨ x.2.holds (· == .dbar) = false) ∧
    ∃ s m d r, Meets .dbar (oBar .dbar) s fun e => s.domOf e.team.ctx = some (m, d) ∧ s.doms.find? m = some d ∧ d.st ≠ .broken ∧
      e.lastToArrive s e.g ∧ e.team = s.team e.g.team ∧ d.barVal = none ∧ d.barLocal = false ∧ r ∈ d.liveRanks ∧ r ≠ d.rank :=
  ⟨meets (by decide) ⟨rfl, can_base rfl rfl⟩,
   ⟨inDomain { st := .broken } base, 0, _, meets (by decide) ⟨rfl, rfl, can_base rfl rfl⟩⟩,
   ⟨inDomain { st := .up, group := [(0, { valid := true, live := true })] } base, 0, _, meets (by decide)
    ⟨rfl, rfl, by decide, arrives (by decide), rfl, rfl, rfl, by decide, rfl, rfl, by decide⟩⟩,
   ⟨inDomain { st := .up, group := [(0, { valid := true, live := true }), (1, { valid := true, live := true })] } base, 0, _, 1, meets (by decide)
    ⟨rfl, rfl, by decide, arrives (by decide), rfl, rfl, rfl, by decide, by decide⟩⟩⟩

theorem witness_SpecialRegisters :
    (∃ o, Meets .srd o base fun e => base.group? e.me.core e.me.slot = some e.g ∧ e.o.md.spec.toNat % 256 = 0 ∧
      e.run ≠ 0 ∧ e.room (e.issued (.srd e.o) base.pair.isSome e.g).v [e.o.dst.toNat]) ∧
    (∀ c ∈ (List.range 16).drop 1, ∃ o, Meets .srd o base fun e => e.o.md.spec.toNat % 256 = c) ∧
    (∀ c ∈ [0x09, 0x0B, 0x0C], ∀ t ∈ [false, true], ∃ o, Meets .swr o base fun e => e.o.md.spec.toNat % 256 = c ∧ e.takes = t) ∧
    (∀ x ∈ [(EnrdForm.team, 0), (.ctx, 0), (.ctx, 4), (.kern, 0), (.kern, 5)], ∃ o, Meets (.enrd x.1) o base fun e =>
      e.o.md.spec.toNat % 8 = x.2) ∧
    ∀ c ∈ List.range 6, ∃ o, Meets .caprd o base fun e => e.o.md.spec.toNat % 8 = c := by
  have h1 : ∀ c ∈ (List.range 16).drop 1, readyB .srd { dst := 8, low := BitVec.ofNat 32 c } base = true ∧
    ({ dst := 8, low := BitVec.ofNat 32 c } : Fields).md.spec.toNat % 256 = c := by decide
  have h2 : ∀ c ∈ [0x09, 0x0B, 0x0C], ∀ t ∈ [false, true], let o : Fields := { pred := if t then 0 else 1, a := .s 1, low := BitVec.ofNat 32 c }
    readyB .swr o base = true ∧ (at_ o base).o.md.spec.toNat % 256 = c ∧ (at_ o base).takes = t := by decide
  have h3 : ∀ x ∈ [(EnrdForm.team, 0), (.ctx, 0), (.ctx, 4), (.kern, 0), (.kern, 5)],
    let o : Fields := { dst := 8, low := BitVec.ofNat 32 x.2 }
    readyB (.enrd x.1) o base = true ∧ (at_ o base).o.md.spec.toNat % 8 = x.2 := by decide
  have h4 : ∀ c ∈ List.range 6, let o : Fields := { dst := 8, low := BitVec.ofNat 32 c }
    readyB .caprd o base = true ∧ (at_ o base).o.md.spec.toNat % 8 = c := by decide
  refine ⟨⟨{ dst := 8 }, meets (by decide) ⟨rfl, by decide, by decide, of_decide_eq_true (p := _ ≤ _) rfl⟩⟩,
    fun c hc => ⟨_, meets (h1 c hc).1 ?_⟩, fun c hc t ht => ⟨_, meets (h2 c hc t ht).1 (h2 c hc t ht).2⟩,
    fun x hx => ⟨_, meets (h3 x hx).1 (h3 x hx).2⟩, fun c hc => ⟨_, meets (h4 c hc).1 (h4 c hc).2⟩⟩
  rw [at_o]; exact (h1 c hc).2

/-- The service ring of context 0 has sixteen entries at address 0, which a page holds; the kernel is a debug launch. -/
def service (flags : Nat) : State :=
  page0 { base with ctxs := [(0, { st := .active, rate := 0xFFFFFF, enable := true, svcLog := 4, irqEnable := true })]
                    kernels := [(0, { k0 with rec_ := { k0.rec_ with flags := flags } })] }

theorem witness_ServiceAndTraps :
    let holds (s : State) (e : Env) : Prop := s.group? e.me.core e.me.slot ≠ none ∧
      ∀ u ∈ unitsOf ((s.ctx e.team.ctx).svcBase + 192 * ((s.ctx e.team.ctx).svcProd % svcEntries (s.ctx e.team.ctx))) 192,
        ∃ n p, s.cached e.team.ctx (stackOfCore e.me.core) u true = some (n, p) ∧ s.permit e.team.ctx p .write = none
    let o : Fields := { dst := 8, a := .v 2, b := .s 1, ty := .b32 }
    (Meets .svc o (service 0) fun e => e.run ≠ 0 ∧ e.prot = false ∧ holds (service 0) e) ∧
    (Meets .trap { low := 7 } (service 2) fun e => e.takes = true ∧ e.kern.rec_.flags.testBit 1 = true ∧ holds (service 2) e) ∧
    (Meets .svc { o with pred := 1 } (service 0) fun e => e.run = 0) ∧
    (Meets .trap { low := 7 } (service 0) fun e => e.takes = true ∧ e.kern.rec_.flags.testBit 1 = false ∧ e.abortable (service 0)) ∧
    Meets .trap { pred := 1 } (service 0) fun e => e.takes = false := by
  have h : ∀ u ∈ unitsOf 0 192, ∃ n p, (service 0).cached 0 0 u true = some (n, p) ∧ (service 0).permit 0 p .write = none := by
    intro u hu
    have : u = 0 := by revert hu; decide +revert
    subst this; exact ⟨_, _, rfl, by decide⟩
  exact ⟨meets (by decide) ⟨by decide, by decide, by decide, h⟩, meets (by decide) ⟨by decide, by decide, by decide, h⟩,
    meets (by decide) (by decide), meets (by decide) ⟨by decide, by decide, ⟨_, rfl, rfl⟩⟩, meets (by decide) (by decide)⟩

/-! ## Witnesses: walks, records, the matrix unit's events, copies and collectives -/

/-- Tables at 8 KiB, 16 KiB and 24 KiB map the first GiB of context 0. -/
def mapped (s : State) : State :=
  { s with mem := [(0x2000, 1), (0x2001, 0x40), (0x4000, 1), (0x4001, 0x60), (0x6000, 0x3F)]
           ctxs := [(0, { st := .active, rate := 0xFFFFFF, enable := true, root := 1 })] }

def oneLane (op : AccOp) : Access := { acc0 .global op with lanes := 1, left := 1, ea := [0] }
def pf : PageFault := { va := 0, cause := 1, detail := 0, level := 4, kind := 0, lanes := 1 }
def copy0 (i : Instr) (a b : Nat) (c : List Nat) : CopyOp :=
  { core := 0, team := 0, gidx := 0, kid := 0, ctx := 0, pcs := 0, prior := [], pc := 0, ins := i, a := a, b := b, c := c }
def coll0 (op ranks : Nat) : CollOp :=
  { die := 0, core := 0, team := 0, gidx := 0, kid := 0, ctx := 0, op := op, redop := 0, ty := .i32, flags := 0, root := 0, count := 2
    ranks := ranks, send := 0, recv := 64, doneW := 128, ctag := 5 }
def mat0 (i : Instr) (n : Nat) : MatOp :=
  { core := 0, team := 0, kid := 0, ctx := 0, ins := i, c := 1
    members := (List.range n).map fun k => { slot := 256 * k, tag := 0, idx := k, batch := 0 } }

theorem witness_PageWalks_miss :
    let a := oneLane .load
    let s (c : Ctx) : State := { base with acc := [(7, a)], next := 8, ctxs := [(0, c)] }
    let miss (s : State) : Prop := s.acc.find? 7 = some a ∧ a.fault = none ∧ a.left ≠ 0 ∧ a.space = .global ∧ a.op ≠ .fetch ∧
      a.op ≠ .record ∧ a.op ≠ .spawn ∧ (∃ l ∈ lanesOf a.left, (∃ va, s.placeOf a (a.ea.getD l 0) = .here va) ∧ 0 ∈ s.missing a l)
    (miss (s { st := .active }) ∧ ((s { st := .active }).ctx 0).enable = false) ∧
    (∃ s, miss s ∧ (s.ctx 0).enable = true ∧ s.tlbTable 0 0 0 = none ∧ ∃ d n, (s.walkLoop 0 5 0).1 = .fault 1 d n) ∧
    ∃ s n e pa, miss s ∧ (s.ctx 0).enable = true ∧ s.tlbTable 0 0 0 = none ∧ (s.walkLoop 0 5 8192).1 = .leaf n e pa :=
  ⟨⟨⟨rfl, rfl, by decide, rfl, by decide, by decide, by decide, 0, by decide, ⟨0, rfl⟩, by decide⟩, rfl⟩,
   ⟨{ base with acc := [(7, oneLane .load)], next := 8 },
    ⟨rfl, rfl, by decide, rfl, by decide, by decide, by decide, 0, by decide, ⟨0, rfl⟩, by decide⟩, rfl, rfl, 0, 4, rfl⟩,
   ⟨mapped { base with acc := [(7, oneLane .load)], next := 8 }, 2, 0x3F, 0x6000,
    ⟨rfl, rfl, by decide, rfl, by decide, by decide, by decide, 0, by decide, ⟨0, rfl⟩, by decide⟩, rfl, rfl, by decide⟩⟩

theorem witness_PageWalks_record :
    let room (s : State) (ctx : Nat) : Prop := let r := s.ring (s.ctx ctx).fn
      r.entries ≠ 0 ∧ (r.prod + 2 ^ 32 - r.cons) % 2 ^ 32 < r.entries
    let with_ (n : Nat) (s : State) : State := { s with rings := [(0, { log2 := n })] }
    (∃ n s a, (with_ n s).acc.find? 7 = some a ∧ a.fault = some pf ∧ pf.recorded = false ∧ room (with_ n s) a.ctx) ∧
    (∃ s a, s.acc.find? 7 = some a ∧ a.fault = some pf ∧ ¬ room s a.ctx) ∧
    (∃ n s c, (with_ n s).acc.find? 7 = none ∧ (with_ n s).copies.find? 7 = some c ∧ c.fault = some pf ∧ room (with_ n s) c.ctx) ∧
    (∃ n s m, (with_ n s).acc.find? 7 = none ∧ (with_ n s).copies.find? 7 = none ∧ (with_ n s).mats.find? 7 = some m ∧
      m.fault = some pf ∧ room (with_ n s) m.ctx) ∧
    ∃ n s c, (with_ n s).acc.find? 7 = none ∧ (with_ n s).copies.find? 7 = none ∧ (with_ n s).mats.find? 7 = none ∧
      (with_ n s).colls.find? 7 = some c ∧ c.fault = some pf ∧ room (with_ n s) c.ctx :=
  ⟨⟨8, flight { oneLane .load with fault := some pf }, _, rfl, rfl, rfl, by decide⟩,
   ⟨flight { oneLane .load with fault := some pf }, _, rfl, rfl, by decide⟩,
   ⟨8, { base with copies := [(7, { copy0 (.cpy {}) 0 0 [1] with fault := some pf })] }, _, rfl, rfl, rfl, by decide⟩,
   ⟨8, { base with mats := [(7, { mat0 (.mzero {}) 1 with fault := some pf })] }, _, rfl, rfl, rfl, rfl, by decide⟩,
   ⟨8, { base with colls := [(7, { coll0 0 1 with fault := some pf })] }, _, rfl, rfl, rfl, rfl, rfl, by decide⟩⟩

theorem witness_RecordsAndJoins :
    (∃ (s : State) (a : Access) (k : Kernel), s.acc.find? 7 = some a ∧ a.op = .spawn ∧ a.left ≠ 0 ∧ a.data = [[1, 2, 3]] ∧
      (∀ x ∈ s.among a.prior, x.2.left = 0) ∧ s.kernels.find? a.kid = some k ∧ k.pool = [] ∧ k.outside = [] ∧
      ∃ g, s.group? a.core a.slot = some g ∧ g.arrival = none) ∧
    (∃ (s : State) (a : Access) (k : Kernel), s.acc.find? 7 = some a ∧ a.op = .jdec ∧ a.left ≠ 0 ∧ s.readyLanes 7 a = [0] ∧ s.checkLane a 0 = .ok ∧
      s.kernels.find? a.kid = some k ∧ k.st.abortable = true ∧ k.pool = [] ∧ k.outside = [] ∧
      s.poisoned (s.paFor a (a.ea.getD 0 0)) = false) ∧
    (∃ (s : State) (k : Kernel) (r : Rec), s.kernels.find? 0 = some k ∧ k.outside = [(r, none)] ∧ k.pool = []) ∧
    (∃ (s : State) (k : Kernel), s.kernels.find? 0 = some k ∧ k.outside = []) ∧
    (∃ (s : State) (k : Kernel) (j : Nat × Nat) (pa : Nat), s.kernels.find? 0 = some k ∧ k.joins = [j] ∧ s.acc = [] ∧ k.st.abortable = true ∧ k.pool = [] ∧
      k.outside = [] ∧ j.2 < 2 ^ 56 ∧ j.2 % 32 = 0 ∧ s.headPa k.ctx j.2 .both = some pa ∧ s.poisoned pa = false) ∧
    ∀ j ∈ [2 ^ 56, 33, 2 ^ 30], ∃ (s : State) (k : Kernel), s.kernels.find? 0 = some k ∧ k.joins = [(9, j)] ∧ s.acc = [] ∧
      (2 ^ 56 ≤ j ∨ j % 32 ≠ 0 ∨ s.headPa k.ctx j .both = none) := by
  refine ⟨⟨flight { oneLane .spawn with data := [[1, 2, 3]] }, _, _, rfl, rfl, by decide, rfl, by decide, rfl, rfl, rfl, _, rfl, rfl⟩,
    ⟨flight (oneLane .jdec), _, _, rfl, rfl, by decide, rfl, by decide, rfl, rfl, rfl, rfl, by decide⟩,
    ⟨{ base with kernels := [(0, { k0 with outside := [(⟨0, 1, 2, 3, true⟩, none)] })] }, _, _, rfl, rfl, rfl⟩,
    ⟨base, _, rfl, rfl⟩,
    ⟨mapped { base with kernels := [(0, { k0 with joins := [(9, 32)] })] }, _, _, 32, rfl, rfl, rfl, rfl, rfl, rfl, by decide, by decide, by decide, by decide⟩,
    fun j hj => ⟨mapped { base with kernels := [(0, { k0 with joins := [(9, j)] })] }, _, rfl, rfl, rfl, ?_⟩⟩
  simp only [List.mem_cons, List.not_mem_nil, or_false] at hj
  rcases hj with rfl | rfl | rfl
  · exact .inl (Nat.le_refl _)
  · exact .inr (.inl (by decide))
  · exact .inr (.inr (by decide))

/-- Two groups of one team whose MMAs wait at the cinch. -/
def atCinch (arr : CinchArr) : State :=
  { base with
    groups := [(0, { g0 with gang := 3, cinch := [(0, arr)] }), (256, { g0 with idx := 1, gang := 3, cinch := [(0, arr)] })]
    teams := [(0, { t0 with slots := [0, 256], live := [0, 1] })] }

def inUnit (m : MatOp) : State := { base with mats := [(7, m)] }

theorem witness_MatrixFetches :
    let gone (arr : CinchArr) (o : Fields) (f : Option Cause) : Prop := ∃ (s : State) (now : Group) (ms : List (Nat × Nat × Group × CinchArr)),
      (s.groups.map Prod.fst).Pairwise (· < ·) ∧ s.group? 0 0 = some now ∧ (0, arr) ∈ now.cinch ∧ (∀ x ∈ now.cinch, x = (0, arr) ∨ arr.seq < x.2.seq) ∧ arr.ins = .mma o ∧
      (gangMembers arr.gang).map (fun i => s.arrivalOf now.team i arr.seq) = ms.map some ∧ (s.matsOn 0).length < 16 ∧
      releaseFault o (s.team now.team) (ms.map fun m => m.2.2.2) = f ∧ (s.kernels.find? 0).isSome = true
    gone { arr1 with c := 1 } mmaO none ∧ gone arr1 mmaO (some .descriptor) ∧
    ∀ m ∈ [mat0 (.mzero {}) 1, mat0 (.mmov {}) 1, mat0 (.mld { ty := .f32, low := 4 }) 1, mat0 (.mst { ty := .f32, low := 0x160004 }) 1,
        mat0 (.mma { mmaO with low := 0x160003 }) 2],
      ∃ s : State, s.mats.find? 7 = some m ∧ m.fetched = false ∧ m.fault = none ∧ s.matsOn m.core = [(7, m)] ∧
        (∀ o, m.ins = .mld o ∨ m.ins = .mst o → o.md.spec.getLsbD 2 = true) ∧
        (∀ o, m.ins = .mma o → o.md.spec.getLsbD 0 = true ∧ o.md.spec.getLsbD 1 = true ∧ o.ty ≠ .q8 ∧ o.ty ≠ .q4) ∧
        ∀ x ∈ m.members, ∀ e ∈ s.acc, e.2.team = m.team → e.2.gidx = x.idx → e.1 < x.upto → e.2.left = 0 := by
  refine ⟨⟨atCinch { arr1 with c := 1 }, _, [(0, 0, _, _), (256, 0, _, _)], by decide, rfl, .head _, ?_, rfl, rfl, by decide, by decide, rfl⟩,
    ⟨atCinch arr1, _, [(0, 0, _, _), (256, 0, _, _)], by decide, rfl, .head _, ?_, rfl, rfl, by decide, by decide, rfl⟩, fun m hm => ⟨inUnit m, rfl, ?_⟩⟩
  · intro x hx; exact .inl (List.mem_singleton.1 hx)
  · intro x hx; exact .inl (List.mem_singleton.1 hx)
  simp only [List.mem_cons, List.not_mem_nil, or_false] at hm
  rcases hm with rfl | rfl | rfl | rfl | rfl <;>
    exact ⟨rfl, rfl, rfl, by rintro o (h | h) <;> cases h <;> rfl, by intro o h; cases h <;> decide, fun _ _ _ h => nomatch h⟩

theorem witness_MatrixComputes :
    let ends (m : MatOp) : Prop := ∃ s : State, s.mats.find? 7 = some m ∧ m.fetched = true ∧ s.matsOn m.core = [(7, m)] ∧
      (∀ j < 32, s.tileBad m.core ((s.team m.team).tileAt + j) = false) ∧ ∃ x, s.teams.find? m.team = some x ∧ x.live ≠ []
    (∀ i ∈ [Instr.mzero { low := 1 }, .mst { ty := .f32, low := 0x160004 }, .mmov { dst := 8 }, .mmov { low := 1 }],
      ends { mat0 i 1 with fetched := true }) ∧
    (∃ m o, ends m ∧ m.ins = .mld o ∧ viewRows o.ty * viewRowBytes o.ty = 2 ^ 14 ∧ m.adata.length = nTiles o * viewRows o.ty ∧
      ∀ r ∈ m.adata, r.length = viewRowBytes o.ty ∧ ∀ x ∈ r, x < 256) ∧
    (∃ m o, ends m ∧ m.ins = .mma o ∧ m.members.length = 6) ∧
    (∃ (s : State) (m : MatOp) (o : Fields) (x : Member) (g : Group), s.mats.find? 7 = some m ∧ m.fetched = true ∧
      s.matsOn m.core = [(7, m)] ∧ m.ins = .mmov o ∧ m.members = [x] ∧ (s.kern m.kid).rec_.flags.testBit 0 = false ∧
      o.md.spec.getLsbD 0 = false ∧ o.a = .v 1 ∧ s.findMember m.team x.idx = some (m.core, x.slot) ∧
      s.group? m.core x.slot = some g ∧ s.team g.team = s.team m.team ∧ s.tileBad m.core ((s.team m.team).tileAt + 1) = false ∧
      m.lanes &&& ~~~g.dead ≠ 0 ∧
      ((List.range 4).foldl (fun v i => v.put (o.dst.toNat + i) []) g.v).length ≤ (s.kern (s.team m.team).kid).rec_.regs) ∧
    ∃ (m : MatOp) (o : Fields), ends m ∧ m.ins = .mmov o ∧ o.md.spec.getLsbD 0 = true ∧ m.vals.length = 4 := by
  refine ⟨?_, ⟨{ mat0 (.mld { ty := .f32 }) 1 with fetched := true, adata := List.replicate 32 (List.replicate 512 0) }, _,
      ⟨inUnit _, rfl, rfl, rfl, by decide, _, rfl, by decide⟩, rfl, by decide, rfl, ?_⟩,
    ⟨{ mat0 (.mma mmaO) 6 with fetched := true }, _, ⟨inUnit _, rfl, rfl, rfl, by decide, _, rfl, by decide⟩, rfl, by decide⟩,
    ⟨inUnit { mat0 (.mmov { dst := 8, a := .v 1 }) 1 with fetched := true, lanes := 1 }, _, _, _, _, rfl, rfl, rfl, rfl, rfl, by decide, by decide, rfl,
      rfl, rfl, rfl, by decide, by decide, by decide⟩,
    ⟨{ mat0 (.mmov { low := 1 }) 1 with fetched := true, vals := [[], [], [], []] }, _, ⟨inUnit _, rfl, rfl, rfl, by decide, _, rfl, by decide⟩, rfl, by decide, rfl⟩⟩
  · intro i h
    simp only [List.mem_cons, List.not_mem_nil, or_false] at h
    rcases h with rfl | rfl | rfl | rfl <;> exact ⟨inUnit _, rfl, rfl, rfl, by decide, _, rfl, by decide⟩
  · intro r hr
    obtain rfl := List.eq_of_mem_replicate hr
    exact ⟨List.length_replicate, fun x hx => by rw [List.eq_of_mem_replicate hx]; decide⟩

theorem reaches0 {s : State} {ctx stack va n : Nat} {k : AccKind} (hu : unitsOf va n = [0])
    (h : ((s.cached ctx stack 0 (k == .write || k == .both)).any fun p => decide (s.permit ctx p.2 k = none)) = true) :
    s.reaches ctx stack va n k := by
  intro u hm
  obtain rfl := List.mem_singleton.1 (hu ▸ hm)
  cases hc : s.cached ctx stack 0 (k == .write || k == .both) with
  | none => rw [hc] at h; cases h
  | some p => rw [hc] at h; exact ⟨p.1, p.2, rfl, of_decide_eq_true h⟩

theorem no_l2 {s : State} (h : s.l2 = []) : s.upToDate := by
  intro a
  unfold State.clearByte
  rw [h]
  split
  · rename_i he; cases he
  · rfl

def copying (c : CopyOp) (m : List (Nat × Byte)) : State := page0 { base with copies := [(7, c)], mem := m }

/-- A descriptor at address 0: one dimension of four elements at 512 bytes, a box of two, elements of type code `t`. -/
def desc0 (t stored : Byte) : List (Nat × Byte) := [(1, 2), (8, t), (9, 1)] ++ (if stored = 0 then [] else [(10, stored)]) ++ [(16, 4), (96, 2)]

def loadOf (i : Instr) (a b : Nat) (c : List Nat) (m : List (Nat × Byte)) : State := copying (copy0 i a b c) m

theorem witness_CopiesPerform :
    let acq (s : State) (c : CopyOp) (o : Fields) : State :=
      s.engineAcquire c.core c.ctx (if o.md.spec.getLsbD 0 then some (bitsN o.md.spec.toNat 3 1) else none)
    let ready (s : State) (c : CopyOp) : Prop := s.copies.find? 7 = some c ∧ c.fin = false ∧ c.fault = none ∧
      (∀ x ∈ s.among c.prior, x.2.left = 0) ∧ ∃ x, s.teams.find? c.team = some x ∧ x.live ≠ []
    (∀ w ∈ [0x000, 0x100, 0x200, 0x300], ∃ s c o, ready s c ∧ c.ins = .cpy o ∧ o.low = BitVec.ofNat 32 w ∧ c.c = [16] ∧
      s.reaches c.ctx 0 c.b 16 .read ∧ s.reaches c.ctx 0 c.a 16 .write) ∧
    (∃ s c, ready s c ∧ c.ins = .cpy {} ∧ c.c = [16] ∧ c.a ≠ c.b ∧ c.a ≤ c.b + 12 ∧ c.b + 12 < c.a + 16 ∧
      s.reaches c.ctx 0 c.b 16 .read ∧ s.reaches c.ctx 0 c.a 16 .write) ∧
    (∃ s c o, ready s c ∧ c.ins = .tcpy o ∧ c.a % 128 = 0 ∧ s.reaches c.ctx 0 c.a 128 .read ∧ tensorOk ((acq s c o).bytesAt c.ctx 0 c.a 128) = false ∧
      ∃ k, s.kernels.find? c.kid = some k ∧ k.st.abortable = true) ∧
    (∀ w ∈ [0x000, 0x100], ∃ s c o, ready s c ∧ c.ins = .tcpy o ∧ o.low = BitVec.ofNat 32 w ∧ c.a % 128 = 0 ∧ s.reaches c.ctx 0 c.a 128 .read ∧ (acq s c o).upToDate ∧
      let T := tensorOf ((acq s c o).bytesAt c.ctx 0 c.a 128)
      tensorOk ((acq s c o).bytesAt c.ctx 0 c.a 128) = true ∧ T.stored = 0 ∧ T.swizzle = 0 ∧
      c.b + tyBytes T.ty * (boxPoints (T.box.take T.dims)).length ≤ roundUp (s.team c.team).scratchLen 32 ∧
      ((boxPoints (T.box.take T.dims)).filterMap fun b => (T.posOf c.c b).map T.placeOf) = [(524, 0)] ∧ 524 < 2 ^ 56 ∧
      s.reaches c.ctx 0 524 T.size (if o.md.spec.getLsbD 8 then .write else .read) ∧
      ∀ u ∈ unitsOf 524 T.size, pteFormat (s.leafAt c.ctx 0 u).2 = T.stored) ∧
    ∃ s c o, ready s c ∧ c.ins = .tcpy o ∧ o.md.spec.getLsbD 8 = false ∧ c.a % 128 = 0 ∧ s.reaches c.ctx 0 c.a 128 .read ∧ (acq s c o).upToDate ∧
      let T := tensorOf ((acq s c o).bytesAt c.ctx 0 c.a 128)
      tensorOk ((acq s c o).bytesAt c.ctx 0 c.a 128) = true ∧ T.stored = 1 ∧ T.swizzle = 0 ∧
      c.b + tyBytes T.ty * (boxPoints (T.box.take T.dims)).length ≤ roundUp (s.team c.team).scratchLen 32 ∧
      ((boxPoints (T.box.take T.dims)).filterMap fun b => (T.posOf c.c b).map T.placeOf) = [(515, 0)] ∧
      s.reaches c.ctx 0 515 T.size .read ∧ (∀ u ∈ unitsOf 515 T.size, pteFormat (s.leafAt c.ctx 0 u).2 = T.stored) ∧
      recBad ((acq s c o).record (s.keyVia c.ctx 0 515) (recordAt (s.leafAt c.ctx 0 515).2 (elemIndex (s.leafAt c.ctx 0 515).1 (s.leafAt c.ctx 0 515).2 515 0))) = false := by
  refine ⟨?_, ⟨loadOf (.cpy {}) 68 64 [16] [], _, ⟨rfl, rfl, rfl, by decide, _, rfl, by decide⟩, rfl, rfl, by decide, by decide, by decide,
    reaches0 (by decide) (by decide), reaches0 (by decide) (by decide)⟩, ?_, ?_, ?_⟩
  · intro w hw
    simp only [List.mem_cons, List.not_mem_nil, or_false] at hw
    rcases hw with rfl | rfl | rfl | rfl <;>
      exact ⟨loadOf (.cpy { low := BitVec.ofNat 32 _ }) 64 128 [16] [], _, _, ⟨rfl, rfl, rfl, by decide, _, rfl, by decide⟩, rfl, rfl, rfl,
        reaches0 (by decide) (by decide), reaches0 (by decide) (by decide)⟩
  · exact ⟨loadOf (.tcpy {}) 0 0 [0] [], _, {}, ⟨rfl, rfl, rfl, by decide, _, rfl, by decide⟩, rfl, rfl, reaches0 (by decide) (by decide), by decide, _, rfl, rfl⟩
  · intro w hw
    simp only [List.mem_cons, List.not_mem_nil, or_false] at hw
    rcases hw with rfl | rfl
    · exact ⟨loadOf (.tcpy {}) 0 0 [3] (desc0 3 0), _, {}, ⟨rfl, rfl, rfl, by decide, _, rfl, by decide⟩, rfl, rfl, rfl, reaches0 (by decide) (by decide), no_l2 rfl, by decide, by decide,
        by decide, by decide, by decide, by decide, reaches0 (by decide) (by decide), by decide⟩
    · exact ⟨loadOf (.tcpy { low := 0x100 }) 0 0 [3] (desc0 3 0), _, _, ⟨rfl, rfl, rfl, by decide, _, rfl, by decide⟩, rfl, rfl, rfl, reaches0 (by decide) (by decide), no_l2 rfl, by decide, by decide,
        by decide, by decide, by decide, by decide, reaches0 (by decide) (by decide), by decide⟩
  · exact ⟨{ loadOf (.tcpy {}) 0 0 [3] (desc0 11 1) with tlb := [{ stack := 0, ctx := 0, level := 0, vnum := 0, pte := 0x3F + 2 ^ 64, wr := true }] }, _, _,
      ⟨rfl, rfl, rfl, by decide, _, rfl, by decide⟩, rfl, rfl, rfl, reaches0 (by decide) (by decide), no_l2 rfl, by decide, by decide, by decide, by decide, by decide,
      reaches0 (by decide) (by decide), by decide, by decide⟩

def duo : DomSt := { st := .up, group := [(0, { valid := true, live := true }), (1, { valid := true, live := true })] }

theorem witness_CollectivesComplete :
    let at7 (s : State) (c : CollOp) : Prop := s.colls.find? 7 = some c ∧ c.fault = none ∧ s.reaches c.ctx 0 c.doneW 8 .write ∧
      s.collTagBusy 7 c = false ∧ ∀ m d, s.domOf c.ctx = some (m, d) → d.inbox = [] ∧ d.rekeyPending = false
    (∀ op ∈ [0, 1, 2, 3], ∃ s c, at7 s c ∧ (s.kern c.kid).abort = none ∧ c.op = op ∧ c.sent = false ∧ c.bad = false ∧ c.members = [s.selfRank c.ctx] ∧
      c.root = s.selfRank c.ctx ∧ c.clashes = false ∧ s.reaches c.ctx 0 c.send (tyBytes c.ty * c.count) .read ∧
      s.reaches c.ctx 0 c.recv (tyBytes c.ty * c.count) .write) ∧
    (∀ op ∈ [0, 1, 2, 3], ∃ s c d r, at7 s c ∧ (s.kern c.kid).abort = none ∧ c.op = op ∧ c.sent = false ∧ c.bad = false ∧ s.domOf c.ctx = some (0, d) ∧ s.doms.find? 0 = some d ∧
      d.rank ∈ c.members ∧ r ∈ c.members ∧ r ≠ d.rank ∧ r < 64 ∧ c.inputs = [] ∧ s.reaches c.ctx 0 c.send (tyBytes c.ty * (c.members.length * c.count)) .read) ∧
    (∃ s c, at7 s c ∧ (s.kern c.kid).abort = none ∧ c.sent = true ∧ c.bad = false ∧ s.selfRank c.ctx ∈ c.members ∧ c.members.length = 2 ∧ c.clashes = false ∧
      (∀ r ∈ c.members, r = s.selfRank c.ctx ∨ c.inputs.has r = true) ∧ s.reaches c.ctx 0 c.recv
        ((collResult c (c.members.idxOf (s.selfRank c.ctx)) (c.members.map fun r => if r = s.selfRank c.ctx then c.vals else c.inputs.get [] r)).1.flatMap
          (leBytes (tyBytes c.ty))).length .write) ∧
    (∃ s c, at7 s c ∧ s.reaches c.ctx 0 c.recv c.recvLen .write ∧ s.kernels.find? c.kid = none) ∧
    (∃ s c, at7 s c ∧ s.reaches c.ctx 0 c.recv c.recvLen .write ∧ c.bad = true) ∧
    (∃ s c, at7 s c ∧ s.reaches c.ctx 0 c.recv c.recvLen .write ∧ s.domOf c.ctx = none ∧ c.ranks ≠ 2 ^ s.selfRank c.ctx) ∧
    ∃ s c d, at7 s c ∧ s.reaches c.ctx 0 c.recv c.recvLen .write ∧ s.domOf c.ctx = some (0, d) ∧ d.st = .broken ∧ c.ranks ≠ 2 ^ s.selfRank c.ctx := by
  let s (c : CollOp) : State := page0 { base with colls := [(7, c)] }
  have two (d : DomSt) (h1 : d.inbox = []) (h2 : d.rekeyPending = false) (c : CollOp) (m : Nat) (d' : DomSt)
      (h : (inDomain d (s c)).domOf 0 = some (m, d')) : d'.inbox = [] ∧ d'.rekeyPending = false := by
    unfold State.domOf inDomain at h
    have := List.mem_of_find?_eq_some h
    obtain h := Prod.mk.inj (List.mem_singleton.1 this)
    rw [h.2]; exact ⟨h1, h2⟩
  refine ⟨fun op h => ?_, fun op h => ?_,
    ⟨inDomain duo (s { coll0 2 3 with sent := true, vals := [1, 2], inputs := [(1, [3, 4])] }), _, ⟨rfl, rfl, reaches0 (by decide) (by decide), rfl, two duo rfl rfl _⟩, rfl, rfl, rfl,
      by decide, by decide, by decide, by decide, reaches0 (by decide) (by decide)⟩,
    ⟨s { coll0 0 1 with kid := 9 }, _, ⟨rfl, rfl, reaches0 (by decide) (by decide), rfl, fun _ _ h => nomatch h⟩, reaches0 (by decide) (by decide), rfl⟩,
    ⟨s { coll0 0 1 with bad := true }, _, ⟨rfl, rfl, reaches0 (by decide) (by decide), rfl, fun _ _ h => nomatch h⟩, reaches0 (by decide) (by decide), rfl⟩,
    ⟨s (coll0 0 3), _, ⟨rfl, rfl, reaches0 (by decide) (by decide), rfl, fun _ _ h => nomatch h⟩, reaches0 (by decide) (by decide), rfl, by decide⟩,
    ⟨inDomain { st := .broken } (s (coll0 0 3)), _, _, ⟨rfl, rfl, reaches0 (by decide) (by decide), rfl, two _ rfl rfl _⟩, reaches0 (by decide) (by decide), rfl, rfl, by decide⟩⟩
  · simp only [List.mem_cons, List.not_mem_nil, or_false] at h
    rcases h with rfl | rfl | rfl | rfl <;>
      exact ⟨s (coll0 _ 1), _, ⟨rfl, rfl, reaches0 (by decide) (by decide), rfl, fun _ _ h => nomatch h⟩, rfl, rfl, rfl, rfl, by decide, rfl, by decide,
        reaches0 (by decide) (by decide), reaches0 (by decide) (by decide)⟩
  · simp only [List.mem_cons, List.not_mem_nil, or_false] at h
    rcases h with rfl | rfl | rfl | rfl <;>
      exact ⟨inDomain duo (s (coll0 _ 3)), _, _, 1, ⟨rfl, rfl, reaches0 (by decide) (by decide), rfl, two duo rfl rfl _⟩, rfl, rfl, rfl, rfl, rfl, rfl,
        by decide, by decide, by decide, by decide, rfl, reaches0 (by decide) (by decide)⟩

/-! ## Witnesses: queues, kernels, service and privileged commands -/

/-- Queue 0 of context 0 is enabled, privileged, of sixteen entries, and holds one command; the record is ready. -/
def queued (s : State) : State :=
  { mapped s with rndPhase := 4, queues := [(0, { enable := true, log2 := 4, prod := 1, priv := true })] }

theorem witness_QueueStarts :
    (∃ c, base.canStart c = false) ∧ base.ready = false ∧
    (∀ x ∈ [(false, true, false), (true, false, false), (true, true, false), (true, true, true)], ∃ (s : State) (fn q : Nat) (p : W32), s.ready = x.1 ∧
      ((s.reachQ fn q = true ∧ (s.fnLive fn = true ∨ (s.vf fn).st = .suspended ∨ (s.vf fn).st = .suspending)) ↔ x.2.1 = true) ∧
      ((s.queue q).entries ≠ 0 ∧ (p.toNat + 2 ^ 32 - (s.queue q).cons) % 2 ^ 32 ≤ (s.queue q).entries ↔ x.2.2 = true)) ∧
    (∃ (s : State) (c : Cmd), s.canStart c = true ∧ c.clean = false) ∧
    ∀ n ∈ [0, 1], ∃ (s : State) (c : Cmd), s.canStart c = true ∧ c.clean = true ∧ c.rest = true ∧ c.done % 8 = 0 ∧ c.o20 = 0 ∧ c.ctx < 4096 ∧
      s.notAllowed c = true ∧ c.o10 = 4096 * n ∧ c.o18 = 6 := by
  refine ⟨⟨{ q := 0 }, rfl⟩, rfl, fun x hx => ?_, ⟨queued base, { q := 0, clean := false }, by decide, rfl⟩,
    fun n _ => ⟨{ queued base with queues := [(0, { enable := true, log2 := 4, prod := 1 })] }, { q := 0, o10 := 4096 * n, o18 := 6 },
      rfl, rfl, rfl, rfl, rfl, (by decide : 0 < 4096), rfl, rfl, rfl⟩⟩
  simp only [List.mem_cons, List.not_mem_nil, or_false] at hx
  rcases hx with rfl | rfl | rfl | rfl
  · exact ⟨base, 0, 0, 1, by decide, by decide, by decide⟩
  · exact ⟨queued base, 1, 1023, 1, by decide, by decide, by decide⟩
  · exact ⟨queued base, 0, 0, 17, by decide, by decide, by decide⟩
  · exact ⟨queued base, 0, 0, 16, by decide, by decide, by decide⟩

/-- A launch record at 0x8000, of `regs` registers a group. -/
def launching (regs : Byte) : State :=
  let s := queued base
  { s with mem := s.mem ++ [(0x8008, regs), (0x800A, 1), (0x800C, 64), (0x8028, 1), (0x8039, 4), (0x8040, 8)] }

def launch0 : Cmd := { q := 0, o10 := 0x8000 }

theorem witness_KernelLife_launch (r : Byte) (n : Nat) (h : (r, n) = (1, 0) ∨ (r, n) = (0, 2)) :
    let s := launching r
    s.canStart launch0 = true ∧ launch0.o10 % 64 = 0 ∧ launch0.o10 < 2 ^ 57 ∧ ∃ pas, s.headPas 0 launch0.o10 128 = some pas ∧
      let bs := s.headGot pas
      let k : Kernel := { ctx := 0, queue := 0, rec_ := launchOf bs, accepted := s.headClock }
      s.refusal k (launchClean bs) = n ∧ k.rec_.join = 0 ∧ s.abortsOf s.next = [] ∧ Running.launch s.next ∉ (s.queue 0).running ∧
        ∀ e ∈ s.l2, e.2.dirty = none := by
  rcases h with h | h <;> cases h <;>
    exact ⟨by decide, by decide, by decide, _, rfl, by decide, by decide, by decide, by decide, fun _ h => nomatch h⟩

/-- A launch record where no page is. -/
theorem witness_KernelLife_unreadable : let c : Cmd := { q := 0, o10 := 2 ^ 31 }
    (queued base).canStart c = true ∧ c.o10 % 64 = 0 ∧ c.o10 < 2 ^ 57 ∧ (queued base).headPas 0 c.o10 128 = none := by decide

theorem witness_KernelLife_ends :
    (∃ (s : State) (k : Kernel), s.kernels.find? 0 = some k ∧ k.st = .running ∧ (∀ x ∈ s.teams, x.2.kid ≠ 0) ∧ k.pool = [] ∧ k.outside = [] ∧ k.joins = []) ∧
    (∃ (s : State) (k : Kernel), s.kernels.find? 0 = some k ∧ k.st = .running ∧ ∃ x ∈ s.teams, x.2.kid = 0) ∧
    (∀ j ∈ [0, 32], ∃ (s : State) (k : Kernel), (s.queues.map Prod.fst).Pairwise (· < ·) ∧ s.kernels.find? 0 = some k ∧
      k.st = .completing ∧ (∀ x ∈ s.acc, x.2.kid = 0 → x.2.left = 0) ∧ k.rec_.join = j ∧ (s.headPa k.ctx j .both).isSome = true) ∧
    (∀ a ∈ [0, 64], ∃ (s : State) (k : Kernel), (s.queues.map Prod.fst).Pairwise (· < ·) ∧ s.kernels.find? 0 = some k ∧
      k.st = .aborting ∧ k.abort.isSome = true ∧ (∀ x ∈ s.acc, x.2.kid = 0 → x.2.left = 0) ∧ (∀ x ∈ s.colls, x.2.kid ≠ 0) ∧
      (∀ x ∈ s.queues, ∀ r ∈ x.2.running, ∀ uid i n d, r = .reply uid i n d → (s.team uid).kid ≠ 0) ∧ k.rec_.report = a ∧ (s.headWord k.ctx a 64).isSome = true) ∧
    (∃ (s : State) (k : Kernel), s.kernels.find? 0 = some k ∧ k.rec_.flags.testBit 3 = true ∧ k.rec_.deadline = 1 ∧
      k.accepted + 1 = s.headClock ∧ k.st.abortable = true) ∧
    ∃ k, base.kernels.find? 0 = some k ∧ k.rec_.flags.testBit 3 = false := by
  refine ⟨⟨{ base with teams := [] }, _, rfl, rfl, (fun _ h => nomatch h), rfl, rfl, rfl⟩, ⟨base, _, rfl, rfl, _, .head _, rfl⟩, fun j hj => ?_, fun j hj => ?_,
    ⟨{ base with kernels := [(0, { k0 with rec_ := { k0.rec_ with flags := 8, deadline := 1 } })], headClock := 1 }, _, rfl, by decide, rfl, by decide, rfl⟩,
    _, rfl, by decide⟩
  · simp only [List.mem_cons, List.not_mem_nil, or_false] at hj
    rcases hj with rfl | rfl <;>
      exact ⟨mapped { base with kernels := [(0, { k0 with st := .completing, rec_ := { k0.rec_ with join := _ } })], queues := [(0, {}), (1, {})] },
        _, (by decide : ([0, 1] : List Nat).Pairwise (· < ·)), rfl, rfl, (fun _ h => nomatch h), rfl, by decide⟩
  · simp only [List.mem_cons, List.not_mem_nil, or_false] at hj
    rcases hj with rfl | rfl <;>
      exact ⟨mapped { base with kernels := [(0, { k0 with st := .aborting, abort := some { status := 5 }, rec_ := { k0.rec_ with report := _ } })] },
        _, .nil, rfl, rfl, rfl, (fun _ h => nomatch h), (fun _ h => nomatch h), (fun _ h => nomatch h), rfl, by decide⟩

/-- The reply block at address 0x9000, whose first word is `n`, for a request of the group in slot 0. -/
def asking (n : Byte) (trap : Bool) : State :=
  let s := queued (withG { g0 with svc := some { seq := some 0, lanes := 1, dst := 8, trap := trap } })
  if n = 0 then s else { s with mem := s.mem ++ [(0x9000, n)] }

/-- The same group in the image of its team. -/
def askingAway : State :=
  { queued base with
    groups := []
    teams := [(0, { t0 with slots := [], image := some { groups := [(0, { g0 with svc := some { seq := some 0, lanes := 1, dst := 8, trap := false } })], log := [], mats := [], copies := [], scratch := [], tiles := [], tpoison := [], spoison := [], addr := 0, len := 0, counter := 0, body := 0 } })] }

theorem witness_ServiceCommands_reply :
    let c : Cmd := { q := 0, o10 := 0, o18 := 0x9000 }
    let fits (s : State) : Prop := s.canStart c = true ∧ (s.headPas (s.queue c.q).ctx c.o18 136).isSome = true ∧ s.replies = []
    ((queued base).canStart c = true ∧ (queued base).replyFor 0 c.o10 = none) ∧
    (let s : State := { askingAway with replies := [{ q := 0, team := 0, idx := 0, seq := 0, bytes := [] }] }
     s.canStart c = true ∧ s.replyFor 0 c.o10 = some (0, 0) ∧ ∃ r ∈ s.replies, r.team = 0 ∧ r.idx = 0 ∧ r.seq = c.o10) ∧
    (fits askingAway ∧ askingAway.replyFor 0 0 = some (0, 0) ∧ askingAway.findMember 0 0 = none) ∧
    ∀ x ∈ [((0 : Byte), false), (0, true), (1, false)], let s := asking x.1 x.2
      fits s ∧ s.replyFor 0 0 = some (0, 0) ∧ s.findMember 0 0 = some (0, 0) ∧ (s.kernels.find? 0).isSome = true ∧
      ∃ g w, s.group? 0 0 = some g ∧ g.svc = some w ∧ w.trap = x.2 ∧ w.lanes &&& g.liveLanes ≠ 0 ∧
        (g.v.put w.dst []).length ≤ (s.kern (s.team g.team).kid).rec_.regs ∧
        ((s.headPas 0 0x9000 136).map fun p => field (s.headGot p) 0 8) = some x.1.toNat := by
  refine ⟨by decide, ⟨by decide, rfl, _, .head _, rfl, rfl, rfl⟩, by decide, fun x hx => ?_⟩
  simp only [List.mem_cons, List.not_mem_nil, or_false] at hx
  rcases hx with rfl | rfl | rfl <;>
    exact ⟨by decide, rfl, rfl, rfl, _, _, rfl, rfl, rfl, by decide, by decide, by decide⟩

theorem witness_ServiceCommands_wait :
    let s := queued base
    let word (s : State) (a : Nat) : Option Nat := (s.headPas 0 a 8).map fun p => leNat (s.headGot p)
    let polls (p now v cond : Nat) : State := { s with headClock := now, queues := [(0, { enable := true, running := [.wait 0x6000 v cond 8 p] })] }
    (∀ c ∈ [({ q := 0, o10 := 0x6000, o18 := 63 } : Cmd), { q := 0, o10 := 0x6000, o18 := 63, o20 := 1 }, { q := 0, o10 := 0x6000, o18 := 64 }],
      s.canStart c = true ∧ word s c.o10 = some 0x3F) ∧
    (s.canStart { q := 0, o10 := 2 ^ 31 } = true ∧ word s (2 ^ 31) = none) ∧
    (let s := { polls 0 0 0 0 with queues := [(0, { enable := true, running := [.launch 3, .wait 0x6000 0 0 8 0, .abort 1 2] })] }
     (s.queue 0).running = [.launch 3] ++ .wait 0x6000 0 0 8 0 :: [.abort 1 2] ∧ ∀ r ∈ [Running.launch 3] ++ [.abort 1 2],
       ∀ a v c d p, r ≠ .wait a v c d p) ∧
    (∀ x ∈ [(255, 63, 0), (256, 63, 0), (256, 63, 1), (256, 64, 0), (256, 64, 1)],
      ((polls 0 x.1 x.2.1 x.2.2).queue 0).running = [.wait 0x6000 x.2.1 x.2.2 8 0] ∧ (polls 0 x.1 x.2.1 x.2.2).headClock = x.1 ∧
      word (polls 0 x.1 x.2.1 x.2.2) 0x6000 = some 0x3F) := by
  refine ⟨by decide, by decide, ⟨rfl, ?_⟩, by decide⟩
  intro r hr
  simp only [List.cons_append, List.nil_append, List.mem_cons, List.not_mem_nil, or_false] at hr
  rcases hr with rfl | rfl <;> exact fun _ _ _ _ _ h => nomatch h

theorem witness_PrivilegedCommands :
    let c : Cmd := { q := 0, o10 := 0x1000, o18 := 1 }
    let may (s : State) (c : Cmd) : Prop := s.canStart c = true ∧ s.notAllowed c = false ∧ (s.ctx c.ctx).st ≠ .teardown ∧ (s.ctx c.ctx).st ≠ .dead
    let s1 := queued base
    (∃ s : State, may s c ∧ s.acc.length = 1 ∧ s.copies.length = 1 ∧ s.mats.length = 1 ∧ (∀ f ∈ s.acc.map (·.2.fault), ∃ x, f = some x ∧ x.va = 0x1000)) ∧
    (∀ st ∈ [KState.running, .completing], ∃ s : State, may s { c with o10 := 64, o18 := 13 } ∧ ∃ k, s.kernels.find? 0 = some k ∧ k.st = st ∧
      (st = .running → k.st.abortable = true) ∧
      List.find? (fun e => e.2.ctx == 0 && e.2.rec_.done == 64 && e.2.st != .done) s.kernels = some (0, k)) ∧
    (may s1 { c with o10 := 64, o18 := 6 } ∧ List.find? (fun e => e.2.ctx == 0 && e.2.rec_.done == 64 && e.2.st != .done) s1.kernels = none) ∧
    (∀ o ∈ [0x9000, 0xA000], ∃ s : State, may s { q := 0, o10 := o } ∧ (s.headPas 0 o 32).isSome = true ∧ s.partOfCtx 0 = s.partOfQ 0 ∧
      leNat (readBytes s.mem 0x9008 8) = 0 ∧ leNat (readBytes s.mem 0xA000 8) = 0 ∧ leNat (readBytes s.mem 0xA008 8) = 4096 ∧
      leNat (readBytes s.mem 0xA010 4) = 1 ∧ tierOfPa 0 = tierOfPa 4095 ∧ tierOfPa 4096 = tierOfPa 8191 ∧ (tierOfPa 0).isSome = true ∧
      (tierOfPa 4096).isSome = true) ∧
    (∀ f ∈ [false, true], ∃ (s : State) (v : Inval), s.invals.find? 5 = some v ∧ v.doneW % 8 = 0 ∧ (tierOfPa v.doneW).isSome = true ∧
      v.wb = true ∧ v.mats = [7] ∧ ∃ x, s.mats.find? 7 = some x ∧ x.fetched = f) ∧
    ∀ x ∈ [(0, []), (1, []), (1, [1])], ∃ (s : State) (m : Migr), s.migrs.find? 5 = some m ∧ m.key = x.1 ∧ m.doneW % 8 = 0 ∧
      (tierOfPa m.doneW).isSome = true ∧ m.src % 32 = 0 ∧
      (s.poison.find? fun p => m.src / 32 ≤ p && p < (m.src + 4096 * m.pages) / 32) = x.2.head? := by
  refine ⟨⟨{ queued base with acc := [(7, { oneLane .load with fault := some { pf with va := 0x1000 } })],
                              copies := [(8, { copy0 (.cpy {}) 0 0 [1] with fault := some { pf with va := 0x1000 } })],
                              mats := [(9, { mat0 (.mzero {}) 1 with fault := some { pf with va := 0x1000 } })] }, by decide, rfl, rfl, rfl, ?_⟩,
    fun st hs => ⟨{ queued base with kernels := [(0, { k0 with st := st, rec_ := { k0.rec_ with done := 64 } })] }, ?_⟩, by decide, ?_, ?_,
    fun x hx => ⟨{ base with migrs := [(5, { q := 0, src := 0, dst := 4096, pages := 1, ctx := 0, key := x.1, doneW := 8192 })], poison := x.2 },
      _, rfl, rfl, (by decide : 8192 % 8 = 0), (by decide : (tierOfPa 8192).isSome = true), (by decide : 0 % 32 = 0), ?_⟩⟩
  · intro f hf; exact ⟨_, List.mem_singleton.1 hf, rfl⟩
  · simp only [List.mem_cons, List.not_mem_nil, or_false] at hs
    rcases hs with rfl | rfl <;> exact ⟨by decide, _, rfl, rfl, by decide, by decide⟩
  · intro o ho
    simp only [List.mem_cons, List.not_mem_nil, or_false] at ho
    rcases ho with rfl | rfl <;>
      exact ⟨{ queued base with mem := (queued base).mem ++ [(0xA009, 16), (0xA010, 1)] }, by decide, by decide, by decide, by decide, by decide,
        by decide, by decide, by decide, by decide, by decide, by decide⟩
  · intro p _
    exact ⟨{ base with invals := [(5, { q := 0, start := 0, pages := 1, ctx := 0, phys := false, wb := true, doneW := 8, mats := [7] })]
                       mats := [(7, { mat0 (.mzero {}) 1 with fetched := p })] }, _, rfl, rfl, by decide, rfl, rfl, _, rfl, rfl⟩
  · simp only [List.mem_cons, List.not_mem_nil, or_false] at hx
    rcases hx with rfl | rfl | rfl <;> decide

/-! ## Witnesses: placement, images, energy -/

/-- Partition 0 owns stack 0 and queue 0 alone; queue 0 has a deficit and kernel 0 has a grid team left. -/
def choosing : State :=
  { mapped base with
    teams := [], groups := []
    parts := [(0, { own := [(0, 1), (11, 1)] })]
    queues := [(0, { enable := true, log2 := 4, priv := true, deficit := 1, head := some 0, prod := 1 })]
    kernels := [(0, { k0 with st := .queued, rec_ := { k0.rec_ with class_ := 2, scratch := 64 } })] }

def set0 : PlaceSet := { q := 0, kid := 0, die := 0, recs := [⟨0, 0, 0, 0, false⟩] }
def placing : State := { choosing with sets := [set0], kernels := [(0, { k0 with st := .dispatching, rec_ := { k0.rec_ with class_ := 2, scratch := 64 } })] }

def image0 (n : Nat) : Image :=
  { groups := [(0, g0)], log := [], mats := [], copies := [], scratch := [], tiles := [], tpoison := [], spoison := [], addr := 0, len := 4096, counter := n, body := 0 }
/-- A set that restores team 0, whose image bears counter `n` where memory holds zero. -/
def restoring (n : Nat) : State :=
  { placing with sets := [{ set0 with recs := [], restore := [0] }], teams := [(0, { t0 with slots := [], image := some (image0 n) })] }

/-- Team 0 is asked to leave; its save area has `pages` pages. -/
def leaving (evict : Bool) (pages : Nat) : State :=
  { base with teams := [(0, { t0 with evict := evict, tiles := 0 })]
              ctxs := [(0, { st := .active, rate := 0xFFFFFF, enable := true, cmd := 4, saveBase := 1, saveSize := pages })] }

theorem witness_SelectionAndPlacement :
    (∃ pl b, choosing.sets = [] ∧ (∃ i < 16, (choosing.part 0).ownsStack (16 * 0 + i) = true) ∧ choosing.competing 0 = [(0, pl)] ∧
      (∀ r < 64, r ≠ 0 → choosing.parts.has r = false) ∧ choosing.nextDie (choosing.planPlaces pl) = some 0 ∧
      choosing.bestPlace 0 (choosing.planPlaces pl) = some b ∧ choosing.urgentNow 0 = false ∧ 0 < (choosing.queue 0).deficit ∧
      (choosing.queue 0).band < 4) ∧
    (∃ x ∈ placing.sets, x.die = 0) ∧
    (∃ b, placing.headSet 0 = some set0 ∧ placing.firstOf 0 = some set0 ∧ placing.bestPlace 0 (placing.places (placing.kern 0) (placing.planKind ⟨0, set0.recs, []⟩) true
      (placing.planNeed ⟨0, set0.recs, []⟩)) = some b ∧ b.2.length = set0.recs.length ∧ (placing.kernels.find? 0).isSome = true ∧
      (∀ c ∈ b.2, (placing.stackSt (stackOfCore c)).retention = false) ∧ (placing.queue 0).head = some 0) ∧
    (∃ s : State, (s.stackSt 0).pool ≠ (s.stackSt 0).cls ∧ s.stackEmpty 0 = true ∧ s.leasing 0 = false ∧ (s.stackSt 0).retention = false ∧
      (s.ownerOf 0 0).isSome = true) ∧
    (choosing.stackSt 0).pool = (choosing.stackSt 0).cls := by
  refine ⟨⟨⟨0, set0.recs, []⟩, ([0], [0]), rfl, ⟨0, by decide, by decide⟩, by decide +kernel, ?_, by decide +kernel, by decide +kernel, by decide, by decide, by decide⟩,
    ⟨_, .head _, rfl⟩, ⟨([0], [0]), rfl, rfl, by decide +kernel, rfl, rfl, by decide, rfl⟩,
    ⟨{ choosing with stks := [(0, { pool := 1 })] }, by decide, by decide, by decide, rfl, by decide⟩, rfl⟩
  intro r _ h
  show Tbl.has [(0, _)] r = false
  cases r with
  | zero => exact absurd rfl h
  | succ n => rfl

theorem witness_TeamMoves :
    (∃ u, (leaving false 0).teams.find? 0 = some u ∧ u.image = none ∧ u.live ≠ [] ∧ (leaving false 0).evictAsked u = true ∧ u.evict = false) ∧
    (∀ x ∈ [(0, false), (4, true)], ∃ u n, (leaving true x.1).teams.find? 0 = some u ∧ u.image = none ∧ u.live ≠ [] ∧
      (leaving true x.1).evictAsked u = true ∧ u.evict = true ∧ (leaving true x.1).evictSizes 0 = [(0, n)] ∧
      (leaving true x.1).settled 0 = true ∧ ((leaving true x.1).saveRange u.ctx n []).isSome = x.2) ∧
    (∃ s : State, s.sets = (restoring 0).sets ∧ (s.stackSt (stackOfCore 0)).retention = true) ∧
    ∀ n ∈ [0, 1], ((restoring n).stackSt (stackOfCore 0)).retention = false ∧ ∃ x u im, (restoring n).sets.find? (fun x => x.restore.contains 0) = some x ∧ (restoring n).headSet x.die = some x ∧
      x.restore = [0] ∧ (restoring n).bestPlace x.die ((restoring n).places (restoring n |>.kern x.kid) ((restoring n).planKind ⟨x.kid, [], [0]⟩) true
        ((restoring n).planNeed ⟨x.kid, [], [0]⟩)) = some ([0], [0]) ∧
      (restoring n).teams.find? 0 = some u ∧ u.image = some im ∧ im.mats = [] ∧ im.copies = [] ∧ (restoring n).replies = [] ∧
      0 ∉ (restoring n).dbarHeld ∧ (restoring n).imageGood u im = decide (n = 0) ∧ ((restoring n).ctx 0).st = .active := by
  refine ⟨⟨_, rfl, rfl, by decide, by decide, rfl⟩, fun x hx => ?_,
    ⟨{ restoring 0 with stks := [(0, { retention := true })] }, rfl, rfl⟩, fun n hn => ?_⟩
  · simp only [List.mem_cons, List.not_mem_nil, or_false] at hx
    rcases hx with rfl | rfl <;> exact ⟨_, _, rfl, rfl, by decide, by decide, rfl, rfl, by decide, by decide⟩
  · simp only [List.mem_cons, List.not_mem_nil, or_false] at hn
    rcases hn with rfl | rfl <;>
      exact ⟨rfl, _, _, _, rfl, rfl, rfl, by decide +kernel, rfl, rfl, rfl, rfl, rfl, by decide, by decide, rfl⟩

theorem witness_EnergyEvents :
    let stk (x : StackSt) : State := { base with stks := [(0, x)] }
    (∀ n ∈ [1023, 1024], ((stk { clock := n }).stackSt 0).sampled < ((stk { clock := n }).stackSt 0).clock / 1024 ↔ n = 1024) ∧
    (∀ n ∈ [65535, 65536], ((stk { clock := n, charges := [(0, 1)] }).stackSt 0).reconciled <
      ((stk { clock := n, charges := [(0, 1)] }).stackSt 0).clock / 2 ^ 16 ↔ n = 65536) ∧ (∀ e ∈ base.kernels, e.2.rec_.limit = 0) ∧
    (∀ n ∈ [1023, 1024], ∀ b ∈ [false, true], let s : State := { base with dies := [(0, { ref := n, paced := b })] }
      ((s.dieSt 0).refills < (s.dieSt 0).ref / 1024 ↔ n = 1024) ∧ (s.dieSt 0).paced = b ∧ (s.ctxs.map Prod.fst).Nodup ∧ ∀ e ∈ s.teams, e.2.image = none) ∧
    (∀ l ∈ [(0 : Int), 1], let s : State := { base with ctxs := [(0, { st := .active, level := l })] }
      (s.ctx 0).unmetered = false ∧ (∃ e ∈ s.groupsOn 0, (s.team e.2.team).ctx = 0) ∧ s.allow.get 0 0 < 2 ^ 31 ∧ (s.ctx 0).st = .active ∧
      s.heldBack (dieOfCore 0) 0 = false) ∧
    (base.ctx 0).unmetered = true := by decide

/-! ## Witnesses: contexts, dies, cores, stacks -/

def ofCtx (x : Ctx) : State := { queued base with ctxs := [(0, x)] }

theorem witness_ContextLife :
    (base.ready = false ∧ (queued base).ready = true ∧ (queued base).fnLive 1 = false ∧ (queued base).reachC 1 0 = false) ∧
    (∀ x ∈ [({ st := .free } : Ctx), { st := .free, world := 1 }, { st := .ready }, { st := .active }, { st := .parked }, { st := .evicted },
        { st := .evicted, held := true }, { st := .faulted }, { st := .teardown }, { st := .dead }, { st := .active, world := 1, keySlot := 1 }],
      (ofCtx x).ready = true ∧ (ofCtx x).fnLive 0 = true ∧ (ofCtx x).reachC 0 0 = true ∧ (ofCtx x).ctx 0 = x ∧ ((ofCtx x).ctxs.map Prod.fst).Nodup) ∧
    ((base.part 0).worlds.testBit 1 = false ∧ ∃ s : State, (s.part 0).worlds.testBit 1 = true ∧ s.keys.has 1 = false) ∧
    (∃ s : State, s.keys.has 1 = true ∧ s.doms = [] ∧ (s.queues.find? 0).isSome = true ∧ (s.kernels.find? 0).isSome = true ∧ (s.dieSt 0).latched = 1) ∧
    (∀ n ∈ [0, 1], ∃ s : State, (s.ctx 0).st = .teardown ∧ (s.ctx 0).stage = 1 ∧ (∀ d < 4, (s.dieSt d).scrubFor = if d = 0 ∧ n = 1 then some 0 else none) ∧
      ∀ e ∈ s.kernels, e.2.ctx = 0 → e.2.st = .done) ∧
    (∃ s : State, (s.ctx 0).st = .teardown ∧ (s.ctx 0).stage = 0 ∧ s.kernels = [] ∧ (s.ctx 0).world = 1 ∧
      (∀ e ∈ s.ctxs, e.1 ≠ 0 → e.2.world = 1 → e.2.st = .free ∨ e.2.st = .dead) ∧ ∃ d < 4, (s.dieSt d).latched = 1) ∧
    ∀ n ∈ [2 ^ 30 - 1, 2 ^ 30], ∃ s : State, s.sweeps.get 0 1 = 0 ∧ s.headClock / 2 ^ 30 = n / 2 ^ 30 ∧ (s.ctx 0).world = 1 ∧ (s.ctx 0).st = .active := by
  refine ⟨by decide, by decide, ⟨by decide, { base with parts := [(0, { worlds := 3 })] }, by decide, rfl⟩,
    ⟨{ ofCtx { st := .active, world := 1, keySlot := 1 } with keys := [(1, 1)], dies := [(0, { latched := 1 })] }, by decide⟩, ?_,
    ⟨{ ofCtx { st := .teardown, world := 1 } with kernels := [], dies := [(0, { latched := 1 })] }, by decide⟩,
    fun n _ => ⟨{ ofCtx { st := .active, world := 1 } with headClock := n }, rfl, rfl, rfl, rfl⟩⟩
  intro n hn
  simp only [List.mem_cons, List.not_mem_nil, or_false] at hn
  rcases hn with rfl | rfl
  · exact ⟨{ ofCtx { st := .teardown, stage := 1 } with kernels := [] }, by decide⟩
  · exact ⟨{ ofCtx { st := .teardown, stage := 1 } with kernels := [], dies := [(0, { scrubFor := some 0 })] }, by decide⟩

def ofDie (d : DieSt) : State := { base with dies := [(0, d)] }

theorem witness_WorldsAndScrubs :
    (∀ d ∈ [({} : DieSt), { changing := true }], let s : State := { queued base with dies := [(0, d)] }
      s.ready = true ∧ (s.dieSt 0).changing = d.changing ∧ (s.part 0).worlds.testBit 1 = false ∧ (s.part 0).ownsStack 15 = true) ∧
    (∀ x ∈ [(false, false, 0), (true, true, 0), (true, false, 0), (true, false, 1)],
      let s := ofDie { changing := x.1, busy := x.2.1, latched := x.2.2, target := 1 }
      (s.dieSt 0).changing = x.1 ∧ (s.dieSt 0).busy = x.2.1 ∧ (s.dieSt 0).latched = x.2.2) ∧
    (∃ e ∈ base.teams, e.2.image = none ∧ dieOfCore e.2.core = 0 ∧ (base.ctx e.2.ctx).world = 0 ∧ e.2.live ≠ []) ∧
    (ofDie { busy := true }).cores = [] ∧
    ∃ s : State, (s.dieSt 0).busy = true ∧ (s.coreSt 63).st = .test :=
  ⟨by decide, by decide, ⟨_, .head _, by decide⟩, rfl, { ofDie { busy := true } with cores := [(63, { st := .test })] }, by decide⟩

def ofCore (c : CoreSt) : State := { base with teams := [], cores := [(0, c)] }

def ofLink (l : LinkSt) : State := { queued base with links := [(0, l)] }

theorem witness_Leases :
    (∀ x ∈ [(0, 0), (63, 63 * 2 ^ 34)], let s := ofDie { interval := x.1, awl := x.2 }
      (s.dieSt 0).late = [] ∧ (s.dieSt 0).interval < 64 ∧ (s.dieSt 0).boundary + (s.dieSt 0).interval * (2 ^ (s.dieSt 0).period / 64) ≤ (s.dieSt 0).awl ∧
      s.coreLeasable x.1 = true) ∧
    (∀ x ∈ [({ st := .up } : LinkSt), { st := .up, unacked := [{ kind := 1, dst := 0, src := 0 }] }], (ofLink x).linkLeasable 0 = true) ∧
    (let s := ofDie { interval := 1 }; (s.dieSt 0).late = [] ∧ (s.dieSt 0).awl < (s.dieSt 0).boundary + 2 ^ (s.dieSt 0).period / 64) ∧
    (∀ c ∈ [({} : CoreSt), { st := .retired }, { st := .test }], let s : State := { ofCore c with dies := [(0, { interval := 64, late := [0] })] }
      (s.dieSt 0).late = [0] ∧ 64 ≤ (s.dieSt 0).interval ∧ (s.coreLeasable 0 = true ↔ c.st = .service)) ∧
    (∀ n ∈ [0, 1], let s : State := { base with cores := [(0, { st := .drain, grace := n })] }
      (s.coreSt 0).st = .drain ∧ ((s.coreSt 0).grace ≤ (s.stackSt 0).clock ↔ n = 0) ∧ ∃ e ∈ s.teams, e.2.core = 0 ∧ e.2.image = none ∧ e.2.live ≠ []) ∧
    (∀ r ∈ [false, true], let s : State := { ofCore { st := .drain, retiring := r } with scores := [(0, { score := 4096 })] }
      (s.coreSt 0).st = .drain ∧ (s.coreSt 0).retiring = r ∧ s.teams = [] ∧ 4096 ≤ (s.scoreOf 0).score ∧ (s.kernels.map Prod.fst).Nodup ∧
      ∀ k ∈ stackCores 0, k ≠ 0 → (s.coreSt k).st ≠ .retired) ∧
    (∀ e ∈ base.kernels, e.2.noted = false) ∧
    ∀ n ∈ [2 ^ 40 - 1, 2 ^ 40], let d := (ofDie { awl := n }).dieSt 0
      (d.boundary + 2 ^ d.period ≤ d.awl ↔ n = 2 ^ 40) := by decide

theorem witness_TestsAndChannels :
    (∀ r ∈ [false, true], let s : State := ofCore { st := .test, retiring := r }
      (s.coreSt 0).st = .test ∧ (s.coreSt 0).retiring = r ∧ (s.stackSt 0).heldOut = false ∧ (r = false → ∀ k ∈ stackCores 0, (s.coreSt k).retiring = false)) ∧
    (∀ f ∈ [false, true], let s : State := { base with stks := [(0, { heldOut := true })], cores := [(0, { st := .test }), (1, { forced := f })] }
      (s.stackSt 0).heldOut = true ∧ (∀ k ∈ stackCores 0, k ≠ 0 → (s.coreSt k).st = .service) ∧ (s.coreSt 0).st = .test) ∧
    (base.coreSt 0).st ≠ .test ∧
    (∀ n ∈ [3071, 3072], let s : State := { ofCore { st := .test } with scores := [(0, { score := n })] }
      (s.coreSt 0).st = .test ∧ (s.scoreOf 0).score = n ∧ ∀ k ∈ stackCores 0, k ≠ 0 → (s.coreSt k).st ≠ .retired) ∧
    (∀ c ∈ [0, 255, 256, 303], ∀ n ∈ [0, 1], let s : State := { base with chans := [(c, { leaseEnd := some n })] }
      (s.chan c).leaseEnd = some n ∧ (n ≤ (s.chan c).clock ↔ n = 0)) ∧
    (base.chan 0).leaseEnd = none ∧
    ∀ k ∈ [272, 575], ∀ p ∈ [false, true], let s : State := { queued base with scores := [(k, { pending := p })] }
      s.ready = true ∧ (s.scoreOf k).pending = p := by decide

theorem witness_StackHealth :
    let stk (x : StackSt) : State := { base with groups := [], stks := [(0, x)] }
    (∀ n ∈ [1023, 1024], ((stk { clock := n }).stackSt 0).refreshed < ((stk { clock := n }).stackSt 0).clock / 1024 ↔ n = 1024) ∧
    (∀ n ∈ [255, 256], ((stk { clock := n }).coreSt 0).budWin < ((stk { clock := n }).stackSt 0).clock / 256 ↔ n = 256) ∧
    (∀ n ∈ [65535, 65536], (2 ^ 16 ≤ ((stk { idle := n }).stackSt 0).idle ↔ n = 65536) ∧ ((stk { idle := n }).stackSt 0).retention = false ∧
      (stk { idle := n }).stackBusy 0 = false) ∧
    (∀ c ∈ [1, 2], (stk { retention := true, cls := c }).stackNeeded 0 = decide (c = 1)) ∧
    ∃ e ∈ base.teams, e.2.image = none ∧ stackOfCore e.2.core = 0 ∧ (base.kern e.2.kid).st.abortable = true ∧ base.kernels.has e.2.kid = true := by decide

/-! ## Witnesses: links, domains, loans -/

def ofDom (d : DomSt) : State := inDomain d (queued base)

/-- Ranks 0 to 2, this chip the first, and a spare. -/
def trio : DomSt :=
  { st := .up, group := [(0, { fabric := Config.fabricId, self := true, valid := true, live := true }), (1, { fabric := Config.fabricId + 1, valid := true, live := true }),
      (2, { fabric := Config.fabricId + 2, valid := true, live := true }), (3, { fabric := Config.fabricId + 3, valid := true, spare := true, live := true })] }

def m1 : Sent := { kind := 1, dst := 0, src := 0, counter := 4 }

theorem witness_LinkStates :
    ((queued base).ready = true ∧ base.ready = false) ∧
    (∀ x ∈ [(LinkState.down, false), (.up, true), (.up, false), (.train, true), (.secure, true), (.loop, true), (.retired, true), (.failed, true)],
      ((ofLink { st := x.1, enable := x.2 }).link 0).st = x.1 ∧ ((ofLink { st := x.1, enable := x.2 }).link 0).enable = x.2) ∧
    (∀ x ∈ [((1 : Nat), 20, true), (2, 11, true), (2, 12, false), (255, 28, false), (255, 29, true)], let v : W64 := BitVec.ofNat 64 (2 ^ 16 * x.1 + 2 ^ 8 * x.2.1)
      (v.toNat / 2 ^ 16 % 256 < 2 ∨ v.toNat / 2 ^ 8 % 256 < 12 ∨ 28 < v.toNat / 2 ^ 8 % 256) ↔ x.2.2 = true) ∧
    (∀ n ∈ [4 * 2 ^ 20 - 1, 4 * 2 ^ 20], let l := (ofLink { st := .up, sinceFlit := n }).link 0
      l.st = .up ∧ (l.hbMiss * 2 ^ l.hbLog ≤ l.sinceFlit ↔ n = 4 * 2 ^ 20)) ∧
    (∀ n ∈ [3071, 3072], let s : State := { ofLink { st := .loop } with scores := [(256, { score := n })] }
      (s.link 0).st = .loop ∧ (s.scoreOf 256).retired = false ∧ (s.scoreOf 256).score = n) ∧
    ∀ n ∈ [2 ^ 40 - 1, 2 ^ 40], ∀ q ∈ [[], [m1]], let l := (ofLink { st := .up, sendCtr := n, unacked := q }).link 0
      l.st = .up ∧ (2 ^ 40 ≤ l.sendCtr ↔ n = 2 ^ 40) ∧ l.unacked = q := by decide

theorem witness_Flits :
    (ofLink {}).link 0 = {} ∧
    (∀ x ∈ [(false, 5), (true, 4)], ∀ r ∈ [0, 2], let s := ofLink { st := .up, lastAcc := 5, badRun := r, badCtr := x.2 }
      (s.link 0).st = .up ∧ (x.1 = false ∨ x.2 < (s.link 0).lastAcc) ∧ (s.scoreOf 256).retired = false ∧ (s.scoreOf 256).score < 3500 ∧ (s.link 0).badRun = r) ∧
    (∀ f ∈ [({ counter := 5, kind := 2, ackTo := 3 } : Flit), { counter := 5, kind := 2, ackTo := 4 }, { counter := 5, kind := 5, payload := [11, 1] }],
      let l := (ofLink { st := .up, lastAcc := 5, inOrder := 5, lastAck := 4, unacked := [m1] }).link 0
      l.st = .up ∧ f.counter = l.inOrder ∧ f.tagOk = true ∧ l.lastAcc ≤ f.counter ∧ (f.kind = 5 ∨ ((l.unacked.filter fun m => f.ackTo + 1 < m.counter + m.flits) = l.unacked ↔ f.ackTo = 3))) ∧
    (∀ f ∈ [({ counter := 5, kind := 2, ackTo := 3 } : Flit), { counter := 5, kind := 2, ackTo := 4 }],
      let l := (ofLink { st := .up, leased := true, unacked := [m1] }).link 0
      l.leased = true ∧ ((l.unacked.filter fun m => f.ackTo + 1 < m.counter + m.flits) = [] ↔ f.ackTo = 4)) ∧
    (∃ f : Flit, f.kind = 1 ∧ f.dst ≠ Config.fabricId) ∧ ((ofLink { lastAcc := 5, inOrder := 3 }).link 0).inOrder ≠ 5 ∧
    (∃ (s : State) (f : Flit), f.kind = 4 ∧ f.dst = Config.fabricId ∧ f.payload.headD 0 = 7 ∧ (f.payload.getD 1 0).toNat = 0 ∧
      (s.dom 0).fabricOf 1 = some f.src ∧ (∀ q < 1, (s.dom 0).fabricOf q ≠ some f.src) ∧ (s.link 0).st = .up ∧ f.tagOk = true ∧
      (s.link 0).lastAcc ≤ f.counter) ∧
    (∃ (s : State) (f : Flit), f.kind = 4 ∧ f.payload.headD 0 = 7 ∧ ∀ r < 64, (s.dom (f.payload.getD 1 0).toNat).fabricOf r ≠ some f.src) ∧
    (∀ n ∈ [2 ^ 20 - 1, 2 ^ 20], let l := (ofLink { st := .up, clock := n }).link 0
      l.st = .up ∧ (l.hbAt + 2 ^ l.hbLog ≤ l.clock ↔ n = 2 ^ 20)) ∧
    (∃ s : State, s.heldFlits ≠ [] ∧ (s.link 0).st ≠ .up ∧ ∀ x ∈ s.heldFlits, s.routeBy (s.linkFor x) x.dst = none) ∧
    ∃ (s : State) (x : Sent) (j : Nat) (h : Bool), (if (s.link 1).st = .up then [] else (s.link 1).unacked) ++ s.heldFlits = [x] ∧ x.dom = none ∧
      (s.routeBy (s.linkFor x) x.dst).map (fun p => (p.1, decide (p.2 = p.2))) = some (j, h) := by
  refine ⟨rfl, by decide, by decide, by decide, ⟨{ counter := 0, kind := 1, dst := Config.fabricId + 1 }, rfl, by exact Nat.succ_ne_self _⟩, by decide,
    ⟨{ ofDom trio with links := [(0, { st := .up })] }, { counter := 0, kind := 4, dst := Config.fabricId, src := Config.fabricId + 1, payload := [7] },
      rfl, rfl, rfl, rfl, rfl, ?_, rfl, rfl, by decide⟩,
    ⟨base, { counter := 0, kind := 4, payload := [7] }, rfl, rfl, by decide⟩, by decide, ⟨{ base with heldFlits := [m1] }, by decide, by decide, ?_⟩,
    ⟨{ base with heldFlits := [m1], links := [(0, { st := .up, peer := 0 })] }, m1, 0, true, rfl, rfl, ?_⟩⟩
  · intro q hq
    obtain rfl : q = 0 := by omega
    exact fun h => Nat.succ_ne_self _ (Option.some.inj h).symm
  · intro x hx; obtain rfl := List.mem_singleton.1 hx; decide
  · decide

theorem witness_DomainMembership :
    (∀ m ∈ [0, 15], (queued base).reachD 0 m = true) ∧ (queued base).reachD 0 16 = false ∧ (queued base).ready = true ∧ base.ready = false ∧
    (∀ x ∈ [DomState.idle, .forming, .up, .broken, .rekey], ((ofDom { st := x }).dom 0).st = x) ∧
    (∀ l ∈ [([] : List Nat), [1], [1, 2]], let d := (ofDom { trio with leaving := l }).dom 0
      d.member ∧ d.leaving = l ∧ d.liveRanks.filter (· != d.rank) = [1, 2] ∧ d.selfEntry = some 0 ∧ d.entryOf 1 = some 1 ∧
        (d.group.get {} 3).spare = true ∧ (d.group.get {} 1).spare = false ∧ d.entryOf 9 = none ∧ d.liveRanks.head? = some d.rank) ∧
    (∀ st ∈ [DomState.up, .rekey, .broken], let d := (ofDom { trio with st := st }).dom 0
      (∀ ctl ∈ [false, true], d.hears 1 ctl ↔ st ≠ .broken ∨ ctl = true) ∧ d.nextFrom 1 {} ∧ d.early = [] ∧ ¬ d.hears 0 true ∧ 1 ∈ d.liveRanks ∧
        63 ∉ d.liveRanks) ∧
    ∃ e ∈ trio.group, e.2.valid = true ∧ e.2.fabric ≠ Config.fabricId := by
  refine ⟨by decide, rfl, rfl, rfl, by decide, fun l _ => ⟨.inl rfl, rfl, rfl, by simp [DomSt.selfEntry, ofDom, inDomain, State.dom, Tbl.get, Tbl.find?, trio], rfl, rfl, rfl, rfl, rfl⟩, ?_, (1, _), .tail _ (.head _), rfl, ?_⟩
  · simp only [DomSt.hears, DomSt.nextFrom, DomSt.keyed, DomSt.expects]; decide
  · exact Nat.succ_ne_self _

theorem witness_DomainTraffic :
    let d (x : DomSt) : DomSt := (ofDom x).dom 0
    (∀ l ∈ [([1] : List Nat), []], (d { trio with st := .broken, failed := l }).failed = l ∧ (d { trio with st := .broken }).st = .broken) ∧
    ((d trio).freeSpare = some 3 ∧ (d { trio with group := trio.group.take 3 }).freeSpare = none ∧ (d { trio with rank := 1 }).liveRanks.head? ≠ some 1) ∧
    (∀ n ∈ [0, 4 * 2 ^ 20], ∀ st ∈ [LinkState.up, .loop], let s : State := { ofDom trio with links := [(0, { st := st, clock := n })] }
      ((s.link 0).st ≠ .loop ↔ st = .up) ∧ ((s.dom 0).hbSince.get 0 1 + (s.link 0).hbMiss * 2 ^ (s.link 0).hbLog ≤ (s.link 0).clock ↔ n = 4 * 2 ^ 20)) ∧
    ((d trio).st = .up ∧ (d trio).entryOf 1 = some 1 ∧ (d trio).rank = 0 ∧ (d trio).entryOf 3 = none) ∧
    (∀ x ∈ [((4 : Nat), true), (5, false), (69, false), (70, true)],
      (x.1 < (d { trio with recvSeq := [(1, 5)] }).recvSeq.get 0 1 ∨ (d { trio with recvSeq := [(1, 5)] }).recvSeq.get 0 1 + 64 < x.1) ↔ x.2 = true) ∧
    ((255 + 1) % 256 = (d { trio with rekeyed := true, epoch := 0 }).epoch ∧ (d { trio with st := .rekey, epoch := 255 }).st = .rekey ∧
      0 = ((d { trio with st := .rekey, epoch := 255 }).epoch + 1) % 256) ∧
    (∀ c ∈ [false, true], let d := d { trio with st := .rekey, newSecret := true, rekeyed := true, epoch := 255, recvSeq := [(1, 5)], ctlRecv := [(1, 7)] }
      let n (e : Nat) : DomHead := { epoch := e, ctl := c, seq := if c then 7 else 5 }
      d.hears 1 false ∧ d.nextFrom 1 (n (if c then 0 else 255)) ∧
      (d.oldKeys (n (if c then 255 else 254)) ∧ ¬ d.keyed (n (if c then 255 else 254)))) ∧
    (∀ x ∈ [(DomState.up, true), (.rekey, false)], let d := d { trio with st := x.1 }
      ∀ e ∈ [1, 3], ¬ d.keyed { epoch := e, ctl := x.2 } ∧ ¬ d.oldKeys { epoch := e, ctl := x.2 } ∧ (d.nextKeys { epoch := e, ctl := x.2 } ↔ e = 1)) ∧
    (∀ l ∈ [([0, 2] : List Nat), [0]], (∀ r ∈ (d trio).liveRanks, r ∈ setIns l 1) ↔ l = [0, 2]) ∧
    (let s := ofDom { trio with st := .rekey, rekeyPending := true, newSecret := true, barVal := some 1, barRanks := [0, 1, 2] };
      (s.dom 0).barVal ≠ none ∧ (∀ r ∈ (s.dom 0).liveRanks, r ∈ (s.dom 0).barRanks) ∧ s.domQuiet 0 = true ∧ (s.dom 0).early = [] ∧ (s.dom 0).barEarly = []) ∧
    -- an answer to a window request that waits for it
    (∃ (s : State) (a : Access), (s.dom 0).st = .up ∧ (s.dom 0).entryOf 1 = some 1 ∧ (s.dom 0).rank = 0 ∧ (s.dom 0).epoch = 0 ∧
      (s.dom 0).recvSeq.get 0 1 = 0 ∧ (s.dom 0).early = [] ∧ (7, a) ∈ s.acc ∧ s.acc.find? 7 = some a ∧ a.ctx = (s.dom 0).ctx ∧
      a.req.find? 1 = some 3 ∧ (∀ y ∈ s.acc, y = (7, a)) ∧ (∃ g, s.group? a.core a.slot = some g ∧ g.arrival = none) ∧ a.dst ≠ none ∧
      a.lanesAt a.sent 1 = [0]) ∧
    ∃ s : State, (s.dom 0).st = .up ∧ (s.dom 0).entryOf 1 = some 1 ∧ (s.dom 0).rank = 0 ∧ 0 + 16 ≤ (s.dom 0).limit ∧
      (∀ i < 16, s.poisoned (s.paVia (s.dom 0).ctx (s.headStack (s.dom 0).ctx) (((s.dom 0).export_ + 0) % 2 ^ 57 + i)) = false) ∧
      s.reaches (s.dom 0).ctx (s.headStack (s.dom 0).ctx) (((s.dom 0).export_ + 0) % 2 ^ 57) 16 .read ∧
      s.reaches (s.dom 0).ctx (s.headStack (s.dom 0).ctx) (((s.dom 0).export_ + 0) % 2 ^ 57) 16 .write := by
  refine ⟨by decide, ⟨rfl, rfl, by decide⟩, by decide, ⟨rfl, rfl, rfl, rfl⟩, by decide, by decide,
    by simp only [DomSt.hears, DomSt.nextFrom, DomSt.keyed, DomSt.expects, DomSt.oldKeys]; decide,
    by simp only [DomSt.keyed, DomSt.oldKeys, DomSt.nextKeys]; decide, by decide, by decide,
    ⟨{ ofDom trio with acc := [(7, { acc0 .global .load with dst := some 8, lanes := 1, left := 1, ea := [2 ^ 56 + 2 ^ 50], sent := 1, req := [(1, 3)] })] },
      _, rfl, rfl, rfl, rfl, rfl, rfl, .head _, rfl, rfl, rfl, fun _ h => List.mem_singleton.1 h, ⟨_, rfl, rfl⟩, by decide, by decide⟩,
    { page0 (ofDom { trio with limit := 16 }) with
      tlb := (List.range 64).map fun k => { stack := k, ctx := 0, level := 0, vnum := 0, pte := 0x3F, wr := true } }, rfl, rfl, rfl, by decide, fun _ _ => rfl,
    reaches0 (by decide) (by decide), reaches0 (by decide) (by decide)⟩

theorem witness_PowerLoans :
    let l (k : Nat) (x : LinkSt) : State := { base with links := [(k, { x with st := .up })], dies := [(0, { ref := 2 ^ 16 })] }
    (∀ k ∈ [0, 15, 16 + 1, 16 + 128 * 64], k < 16 + 128 * 65 ∧ (l k {}).dealing k = true) ∧
    (∀ k ∈ [0, 16], base.dealing k = false) ∧
    (∀ n ∈ [0, 1], let s := l 0 { offers := n }; (s.link 0).offers < s.govClock 0 / 2 ^ 16 ↔ n = 0) ∧
    (∀ k ∈ [0, 16 + 1], 0 < min 5 ((l k {}).lendable k)) ∧
    (∀ n ∈ [1, 2], let s := l 0 { offered := n, asked := n, lent := 1, borrowed := 1 }
      (2 ≤ (s.link 0).offered ↔ n = 2) ∧ (2 ≤ (s.link 0).asked ↔ n = 2) ∧ (s.link 0).lent ≠ 0 ∧ (s.link 0).reclaimAt = none) ∧
    ∀ n ∈ [2 ^ 16 - 1000, 2 ^ 16 - 999], let s := l 0 { lent := 1, reclaimAt := some n }
      (s.link 0).reclaimAt = some n ∧ (n + 1000 ≤ s.govClock 0 ↔ n = 2 ^ 16 - 1000) := by decide

/-! ## Witnesses: partitions, registers, resets, steps, sources, moves -/

def ofVf (v : Vf) : State := { queued base with vfs := [(1, v)] }

theorem witness_PartitionsAndFunctions :
    (∀ n ∈ [1023, 1024], let d := (ofDie { ref := n }).dieSt 0; d.railSteps < d.ref / 1024 ↔ n = 1024) ∧
    base.highVote 0 = some (0, 110) ∧ ({ base with parts := [(0, { own := [] })] } : State).highVote 0 = none ∧
    (∀ x ∈ [(100, 110, true), (120, 110, false)], let s := ofDie { railTo := x.1, railBy := 0 }
      ((s.dieSt 0).railTo ≤ 110 ↔ x.2.2 = true) ∧ s.voterGone 0 0 = false) ∧ base.voterGone 0 1 = true ∧
    (∀ w ∈ [0, 26], ((base.part 0).own.get 0 w) &&& ownAll w = (base.part 0).own.get 0 w) ∧
    (∀ x ∈ [((∅ : List Nat), false), ([0], true)], let s : State := { base with chans := [(303, { held := x.1.map fun i => { p := 63, id := i, start := 0 } })] }
      (s.chan 303).leaseEnd = none ∧ ((s.chan 303).held ≠ [] ↔ x.2 = true)) ∧
    (∀ v ∈ [({} : Vf), { save := 1 }, { st := .active }, { st := .suspended }, { st := .suspended, save := 1 }, { st := .suspending }],
      let s := ofVf v; s.ready = true ∧ s.vf 1 = v ∧ (s.ctxs.map Prod.fst).Nodup ∧ (s.teams.map Prod.fst).Nodup ∧ (∀ e ∈ s.ctxs, e.2.fn = 1 → e.2.st = .free)) ∧
    ((ofVf {}).barOf 1 2 ∧ (∀ r, ¬ (ofVf { save := 1 }).barsVf 1 r)) ∧
    ((ofVf { save := 1, qcount := 1 }).barsVf 1 3 → False) ∧ ({ ofVf {} with vfs := [(1, {}), (2, { st := .active })] } : State).barsVf 1 4 ∧
    ∃ e ∈ ({ ofCtx { st := .active, fn := 1 } with vfs := [(1, { st := .suspending })] } : State).teams,
      (({ ofCtx { st := .active, fn := 1 } with vfs := [(1, { st := .suspending })] } : State).ctx e.2.ctx).fn = 1 ∧ e.2.image = none ∧ e.2.live ≠ [] := by
  have none4 (v : Vf) : ¬ (ofVf v).barsVf 1 4 := by rintro ⟨e, he, h, -⟩; exact h (by rw [List.mem_singleton.1 he])
  have none3 (v : Vf) (h : v.qcount = 0) : ¬ (ofVf v).barsVf 1 3 := by
    rintro ⟨i, hi, -⟩; have : i < v.qcount := hi; omega
  refine ⟨by decide, by decide, by decide, by decide, by decide, by decide, by decide, by decide, ⟨⟨rfl, fun _ => none4 _, fun _ => none3 _ rfl⟩, ?_⟩, ?_,
    ⟨_, .tail _ (.head _), by decide, rfl, .inl rfl⟩, _, .head _, rfl, rfl, by decide⟩
  · intro r h
    match r, h with
    | 4, h => exact none4 _ h
    | 3, h => exact none3 _ rfl h
    | 2, h => exact absurd (show (1 : Nat) = 0 from h) (by decide)
  · rintro ⟨i, hi, h⟩
    have : i = 0 := Nat.lt_one_iff.1 hi
    subst this
    rcases h with h | h | ⟨e, he, h, -⟩
    · exact absurd h (by decide)
    · exact absurd h (by decide)
    · exact h (by rw [List.mem_singleton.1 he])

theorem witness_RegisterAccess :
    base.ready = false ∧ (queued base).ready = true ∧ (queued base).fnLive 1 = false ∧
    (∀ r ∈ [Reg.errCount 64 15, .lnkStatus 15, .stkState 63, .awlCtl 3, .qQuantum 1023, .ctxPtRoot 4095, .ctxIrq 0, .pgFaultRing 0, .govCap, .stkClass 63, .ctxCtl 0, .parOwn 63 26, .lnkCtl 15],
      (queued base).reachR 0 r = true ∧ (queued base).reachR 1 r = false) ∧
    (∀ r ∈ [Reg.qQuantum 1023, .ctxPtRoot 4095, .ctxIrq 0, .pgFaultRing 0, .govCap, .stkClass 63, .awlCtl 3, .ctxCtl 0, .parOwn 63 26, .lnkCtl 15],
      (queued base).takesWrite 0 r = true) ∧
    (∃ (addr : W64), addr.getLsbD 47 = false ∧ regAt (addr.toNat / 2 ^ 48) (addr.toNat % 2 ^ 47) = some .govCap) ∧
    (∀ x ∈ [(0, true, true), (2 ^ 19, true, false), (2 ^ 52, true, false), (0, false, false)], let s : State :=
        { ofCtx { st := if x.2.1 then .active else .free, root := 1, enable := true } with vfs := [(0, { expDst := x.1 })] }
      s.ready = true ∧ s.fnLive 0 = true ∧ s.reachC 0 0 = true ∧ ((s.ctx 0).st ≠ .free ↔ x.2.1 = true) ∧
      (x.2.1 = true → ((s.vf 0).expDst * 4096 / 2 ^ 56 = 0 ∧ ((s.headLeaf 0 ((s.vf 0).expDst * 4096) .write).any fun e => pteWorld e.2 == 0) = true ∧
        (s.headBytes 0 ((s.vf 0).expDst * 4096) 1408 .write).isSome = true ↔ x.2.2 = true))) :=
  ⟨rfl, rfl, by decide, by decide, by decide, ⟨BitVec.ofNat 64 (2 ^ 48), by decide, by decide⟩, by decide⟩

theorem witness_Resets :
    (∀ n ∈ [0, 3], ({ base with rndPhase := n } : State).rndPhase = n ∧ ({ base with rndPhase := n } : State).resets = []) ∧
    (∃ s : State, s.rndPhase = 3 ∧ s.resets = [63]) ∧ base.ready = false ∧
    (∃ s : State, s.ready = true ∧ (s.dieSt 3).busy = true ∧ (∃ x, s.ctxs.find? 0 = some x ∧ x.fn = 63 ∧ x.st = .active) ∧ (s.vfs.find? 63).isSome = true) :=
  ⟨by decide, ⟨{ base with rndPhase := 3, resets := [63] }, rfl, rfl⟩, rfl,
   { ofCtx { st := .active, fn := 63 } with dies := [(3, { busy := true })], vfs := [(63, { st := .active })] }, by decide, by decide, ⟨_, rfl, rfl, rfl⟩, rfl⟩

theorem witness_DecodeAndEncodeAgree :
    (∃ i o n, i.fields = some o ∧ i.WellFormed ∧ o.wide = none ∧ encodeNat i = some n) ∧
    (∃ i o n, i.fields = some o ∧ i.WellFormed ∧ o.wide ≠ none ∧ encodeNat i = some n) ∧
    (∃ raw i o, decode raw none = .ok i ∧ i.fields = some o) ∧
    ∃ c : Cmd, c.ctx < 2 ^ 16 ∧ c.done < 2 ^ 64 ∧ c.o10 < 2 ^ 64 ∧ c.o18 < 2 ^ 64 ∧ c.o20 < 2 ^ 64 ∧ c.clean = true ∧ c.rest = true :=
  ⟨⟨.barn { a := .s 12, low := 5 }, _, _, rfl, by decide, rfl, rfl⟩, ⟨.smovi { a := .imm, ty := .b64, wide := some 5 }, _, _, rfl, by decide, by decide, rfl⟩,
   ⟨0xEB0000010C00000000000005, .barn { a := .s 12, low := 5 }, _, by decide, rfl⟩, { q := 0 }, by decide⟩

theorem witness_StepRunsDecoded :
    (∃ (s : State) (i : Instr) (r : List Move), s.agenda = .op i :: r) ∧
    (∃ (s : State) (g : Group) (env : Env) (w : Nat), s = State.reset.withFetchWord 96 w ∧ s.agenda = [.quarter 0 0] ∧ s.groups = [(0, g)] ∧ s.pair = none ∧
      (s.stackSt 0).retention = false ∧ (s.coreSt 0).busy.getD 0 0 = 0 ∧ s.throttleOk 0 0 = true ∧ g.yielded = false ∧ g.svc = none ∧
      (s.team 0).evict = false ∧ s.hasAllowance 0 0 = true ∧ g.lastPcs = 1 ∧ (g.slotAt 0).mask ≠ 0 ∧ (g.slotAt 0).held = .no ∧ (g.slotAt 1).mask = 0 ∧
      s.cached 0 0 0 false = some (0, wordLeaf) ∧ s.permit 0 wordLeaf .exec = none ∧ pteFormat wordLeaf = 0 ∧ slotIndex 0 = some 0 ∧
      (g.slotAt 0).ahead = [] ∧ (s.coreSt 0).flip = false ∧ (g.slotAt 1).held = .no ∧ (0 : Nat) / 2 ^ 56 ≠ 1 ∧
      (let line := leNat ((List.range 64).map fun j => s.keyByte (s.keyNo (pteKey wordLeaf)) (paOf 0 wordLeaf 0 + j))
       lineCheck line = none ∧ linePair line 0 = false ∧ decode (lineSlot line 0) (lineImm line 0) = .ok (.barn { a := .s 12, low := 5 })) ∧
      s.envAt {} { a := .s 12, low := 5 } = some env ∧ s.ringWait (.barn env.o) env = false ∧ s.waits (.barn env.o) env = false) ∧
    (∃ (s : State) (pas : List (Nat × Nat)) (i : Instr), s.agenda = [.head 0] ∧ s.mayStart 0 = true ∧ s.headPas 0 0x8000 64 = some pas ∧
      (s.queue 0).base = 0x8000 ∧ (s.queue 0).cons = 0 ∧ decodeCommand 0 (s.headGot pas) = some i) ∧
    ∃ (i : Instr) (env : Env), decodeTableWord 96 0xEB0000010C00000000000005 = some i ∧
      (State.reset.withFetchWord 96 0xEB0000010C00000000000005).envAt {} (instrFields i) = some env ∧ env.kid = 0 := by
  refine ⟨⟨{ base with agenda := [.op .bringupReady] }, _, _, rfl⟩, ⟨_, _, _, 0xEB0000010C00000000000005, rfl, rfl, rfl, rfl, by decide, by decide, by decide, rfl, rfl, by decide,
      by decide, rfl, by decide, rfl, rfl, rfl, by decide +kernel, by decide +kernel, by decide +kernel, rfl, by decide, rfl, by decide,
      by decide +kernel, rfl, by decide, by decide⟩,
    ⟨{ queued base with agenda := [.head 0], mem := (queued base).mem ++ [(0x8000, 4)],
                        queues := [(0, { enable := true, log2 := 4, prod := 1, priv := true, base := 0x8000 })] }, (List.range 64).map (fun k => (0, 0x8000 + k)), .signal { q := 0 }, rfl, by decide, by decide, rfl, rfl, by decide⟩,
    ⟨.barn { a := .s 12, low := 5 }, _, by decide, rfl, rfl⟩⟩

theorem witness_SourcesDeliver :
    (∃ e : Env, e.g.v.find? 8 = none ∧ e.g.v.find? 9 = none ∧ e.o.wide = none ∧ (∃ en, e.g.latchAt 2 = some en)) ∧ (∃ e : Env, e.o.wide = some 5) :=
  ⟨⟨{ at_ {} base with g := { latch := [none, none, some { vals := [], wide := false, left := 1 }] }, o := {} }, rfl, rfl, rfl, _, rfl⟩,
   { at_ {} base with o := { wide := some 5 } }, rfl⟩

theorem witness_OutsideMoves :
    (∀ x ∈ [(63, 2 ^ 16 - 1, false), (0, 0, true)], let s : State := { base with stks := [(x.1, { clock := x.2.1, retention := x.2.2 })] }
      (s.stackSt x.1).retention = x.2.2 ∧ ((s.stackSt x.1).clock + 1) % 2 ^ 16 = (x.2.1 + 1) % 2 ^ 16) ∧
    ((ofDie { ref := 1023 }).dieSt 0).ref = 1023 ∧ ({ base with headClock := 2 ^ 30 - 1 } : State).headClock = 2 ^ 30 - 1 ∧
    (∀ x ∈ [(0, true), (2 ^ 39 - 2, true), (2 ^ 39 - 1, false), (2 ^ 39, false)],
      ((tierOfPa x.1).isSome = true ∧ tierOfPa x.1 = tierOfPa (x.1 + 1) ↔ x.2 = true)) := by decide

/-! ## Words

One word for every opcode of R125, its fields put together by R117 with operands that its description allows. -/

def reads (l : List (Nat × Instr)) : Bool := l.all fun p => decide (decodeTableWord 96 p.1 = some p.2)

theorem test_words_scalar : reads [
    (0x010000110181000300000000, .sadd { dst := 8, a := .s 1, b := .s 2, ty := .i32 }),
    (0x011000110181000300000000, .ssub { dst := 8, a := .s 1, b := .s 2, ty := .i32 }),
    (0x012000110181000300000000, .smin { dst := 8, a := .s 1, b := .s 2, ty := .i32 }),
    (0x013000110181000300000000, .smax { dst := 8, a := .s 1, b := .s 2, ty := .i32 }),
    (0x020000110181000300000000, .smul { dst := 8, a := .s 1, b := .s 2, ty := .i32 }),
    (0x021000110181000300000000, .smulh { dst := 8, a := .s 1, b := .s 2, ty := .i32 }),
    (0x02200011018140C300000000, .smad { dst := 8, a := .s 1, b := .s 2, c := .s 3, ty := .i32 }),
    (0x030000110181000300000000, .sand { dst := 8, a := .s 1, b := .s 2, ty := .i32 }),
    (0x031000110181000300000000, .sor { dst := 8, a := .s 1, b := .s 2, ty := .i32 }),
    (0x032000110181000300000000, .sxor { dst := 8, a := .s 1, b := .s 2, ty := .i32 }),
    (0x033000110181000300000000, .sandn { dst := 8, a := .s 1, b := .s 2, ty := .i32 }),
    (0x040000110181000300000000, .sshl { dst := 8, a := .s 1, b := .s 2, ty := .i32 }),
    (0x041000110181000300000000, .sshr { dst := 8, a := .s 1, b := .s 2, ty := .i32 }),
    (0x042000110181000300000000, .ssra { dst := 8, a := .s 1, b := .s 2, ty := .i32 }),
    (0x050000110100000300000000, .spopc { dst := 8, a := .s 1, ty := .i32 }),
    (0x051000110100000300000000, .sclz { dst := 8, a := .s 1, ty := .i32 }),
    (0x052000110181000300000000, .sbfe { dst := 8, a := .s 1, b := .s 2, ty := .i32 }),
    (0x05300011018140C300000000, .sbfi { dst := 8, a := .s 1, b := .s 2, c := .s 3, ty := .i32 }),
    (0x060000030181000300000000, .scmp { dst := 1, a := .s 1, b := .s 2, ty := .i32 }),
    (0x061000110181018300000000, .ssel { dst := 8, a := .s 1, b := .s 2, c := .v 6, ty := .i32 }),
    (0x070000110100000300000000, .smov { dst := 8, a := .s 1, ty := .i32 }),
    (0x071000110181001200000000, .slea { dst := 8, a := .s 1, b := .s 2, ty := .b64 })] = true := by decide +kernel

theorem test_words_control : reads [
    (0x100000000000000000000000, .bra {}),
    (0x110000010100000000000000, .brx { a := .s 1 }),
    (0x120000100000000000000000, .call { dst := 8 }),
    (0x130000110100000000000000, .callx { dst := 8, a := .s 1 }),
    (0x140000010100000000000000, .ret { a := .s 1 }),
    (0x150000000000000000000000, .bru false {}),
    (0x151000000000000000000000, .bru true {}),
    (0x160000100000000000000000, .dbr { dst := 8 }),
    (0x170000100000000000000000, .rcv { dst := 8 }),
    (0x180000100000000000000000, .loop { dst := 8 }),
    (0x190000000000000000000000, .exit {}),
    (0x1A0000000000000000000000, .yield {}),
    (0x1B0000000000000000000000, .nop {})] = true := by decide +kernel

theorem test_words_vector : reads [
    (0x200000100202000300000000, .vadd { dst := 8, a := .v 2, b := .v 4, ty := .i32 }),
    (0x210000100202000300000000, .vsub { dst := 8, a := .v 2, b := .v 4, ty := .i32 }),
    (0x220000100202000300000000, .vmul { dst := 8, a := .v 2, b := .v 4, ty := .i32 }),
    (0x230000100202000300000000, .vmulh { dst := 8, a := .v 2, b := .v 4, ty := .i32 }),
    (0x240000100202018300000000, .vmad { dst := 8, a := .v 2, b := .v 4, c := .v 6, ty := .i32 }),
    (0x250000100202018400000000, .vmadw { dst := 8, a := .v 2, b := .v 4, c := .v 6, ty := .i64 }),
    (0x260000100202018300020000, .vdot4 { dst := 8, a := .v 2, b := .v 4, c := .v 6, ty := .i32, low := 0x20000 }),
    (0x270000100200000300000000, .vabs { dst := 8, a := .v 2, ty := .i32 }),
    (0x280000100200000300000000, .vneg { dst := 8, a := .v 2, ty := .i32 }),
    (0x290000100202000300000000, .vmin { dst := 8, a := .v 2, b := .v 4, ty := .i32 }),
    (0x2A0000100202000300000000, .vmax { dst := 8, a := .v 2, b := .v 4, ty := .i32 }),
    (0x2B0000100202000300000000, .vand { dst := 8, a := .v 2, b := .v 4, ty := .i32 }),
    (0x2C0000100202000300000000, .vor { dst := 8, a := .v 2, b := .v 4, ty := .i32 }),
    (0x2D0000100202000300000000, .vxor { dst := 8, a := .v 2, b := .v 4, ty := .i32 }),
    (0x2E0000100200000300000000, .vnot { dst := 8, a := .v 2, ty := .i32 }),
    (0x2F0000100202000300000000, .vshl { dst := 8, a := .v 2, b := .v 4, ty := .i32 }),
    (0x300000100202000300000000, .vshr { dst := 8, a := .v 2, b := .v 4, ty := .i32 }),
    (0x310000100202000300000000, .vsra { dst := 8, a := .v 2, b := .v 4, ty := .i32 }),
    (0x320000100202000300000000, .vrot { dst := 8, a := .v 2, b := .v 4, ty := .i32 }),
    (0x330000100200000300000000, .vpopc { dst := 8, a := .v 2, ty := .i32 }),
    (0x340000100200000300000000, .vclz { dst := 8, a := .v 2, ty := .i32 }),
    (0x350000100200000300000000, .vbrev { dst := 8, a := .v 2, ty := .i32 }),
    (0x360000100202000300000000, .vbfe { dst := 8, a := .v 2, b := .v 4, ty := .i32 }),
    (0x370000100202018300000000, .vbfi { dst := 8, a := .v 2, b := .v 4, c := .v 6, ty := .i32 }),
    (0x380000100202019100000000, .vsel { dst := 8, a := .v 2, b := .v 4, c := .v 6, ty := .b32 }),
    (0x390000100200001100000000, .vmov { dst := 8, a := .v 2, ty := .b32 }),
    (0x3A0000100281001100000000, .vmovs { dst := 8, a := .v 2, b := .s 2, ty := .b32 }),
    (0x3B0000020202000300000000, .vcmp { dst := 1, a := .v 2, b := .v 4, ty := .i32 })] = true := by decide +kernel

theorem test_words_predicate : reads [
    (0x400000020202001300000000, .pand { dst := 1, a := .v 2, b := .v 4, ty := .pred }),
    (0x410000020202001300000000, .por { dst := 1, a := .v 2, b := .v 4, ty := .pred }),
    (0x420000020202001300000000, .pxor { dst := 1, a := .v 2, b := .v 4, ty := .pred }),
    (0x430000020200001300000000, .pnot { dst := 1, a := .v 2, ty := .pred }),
    (0x440000020200001300000000, .pmov { dst := 1, a := .v 2, ty := .pred }),
    (0x450000100200001300000000, .pcnt { dst := 8, a := .v 2, ty := .pred }),
    (0x460000100200001300000000, .pffs { dst := 8, a := .v 2, ty := .pred })] = true := by decide +kernel

theorem test_words_float : reads [
    (0x600000100202000B00000000, .fadd { dst := 8, a := .v 2, b := .v 4, ty := .f32 }),
    (0x610000100202000B00000000, .fsub { dst := 8, a := .v 2, b := .v 4, ty := .f32 }),
    (0x620000100202000B00000000, .fmul { dst := 8, a := .v 2, b := .v 4, ty := .f32 }),
    (0x630000100202018B00000000, .ffma { dst := 8, a := .v 2, b := .v 4, c := .v 6, ty := .f32 }),
    (0x640000100202000B00000000, .fmin { dst := 8, a := .v 2, b := .v 4, ty := .f32 }),
    (0x650000100202000B00000000, .fmax { dst := 8, a := .v 2, b := .v 4, ty := .f32 }),
    (0x641000100202000B00000000, .fminNan { dst := 8, a := .v 2, b := .v 4, ty := .f32 }),
    (0x651000100202000B00000000, .fmaxNan { dst := 8, a := .v 2, b := .v 4, ty := .f32 }),
    (0x660000020202000B00000000, .fcmp { dst := 1, a := .v 2, b := .v 4, ty := .f32 }),
    (0x670000100200000B00000000, .fclass { dst := 8, a := .v 2, ty := .f32 }),
    (0x680000100202000B00000000, .fscale { dst := 8, a := .v 2, b := .v 4, ty := .f32 }),
    (0x690000100200000B00000000, .frnd { dst := 8, a := .v 2, ty := .f32 }),
    (0x700000100202000B00000000, .fdiv { dst := 8, a := .v 2, b := .v 4, ty := .f32 }),
    (0x710000100200000B00000000, .fsqrt { dst := 8, a := .v 2, ty := .f32 }),
    (0x720000100200000B00000000, .frcp { dst := 8, a := .v 2, ty := .f32 }),
    (0x730000100200000B00000000, .frsq { dst := 8, a := .v 2, ty := .f32 }),
    (0x740000100200000B00000000, .fexp2 { dst := 8, a := .v 2, ty := .f32 }),
    (0x750000100200000B00000000, .flog2 { dst := 8, a := .v 2, ty := .f32 }),
    (0x760000100200000B00000000, .fsinpi { dst := 8, a := .v 2, ty := .f32 }),
    (0x770000100200000B00000000, .fcospi { dst := 8, a := .v 2, ty := .f32 }),
    (0x800000100200000300160000, .cvt { dst := 8, a := .v 2, ty := .i32, low := 0x160000 }),
    (0x810000100202001000160000, .qcvt { dst := 8, a := .v 2, b := .v 4, ty := .q4, low := 0x160000 })] = true := by decide +kernel

theorem test_words_lane : reads [
    (0xA00000100202001100000000, .shfl .idx { dst := 8, a := .v 2, b := .v 4, ty := .b32 }),
    (0xA01000100202001100000000, .shfl .up { dst := 8, a := .v 2, b := .v 4, ty := .b32 }),
    (0xA02000100202001100000000, .shfl .down { dst := 8, a := .v 2, b := .v 4, ty := .b32 }),
    (0xA03000100202001100000000, .shfl .xor { dst := 8, a := .v 2, b := .v 4, ty := .b32 }),
    (0xA10000100200001300000000, .vote .any { dst := 8, a := .v 2, ty := .pred }),
    (0xA11000100200001300000000, .vote .all { dst := 8, a := .v 2, ty := .pred }),
    (0xA12000100200001300000000, .vote .ballot { dst := 8, a := .v 2, ty := .pred }),
    (0xA13000100200001300000000, .vote .eq { dst := 8, a := .v 2, ty := .pred }),
    (0xA20000100200000300000000, .vred { dst := 8, a := .v 2, ty := .i32 }),
    (0xA30000100200000300000000, .vscan { dst := 8, a := .v 2, ty := .i32 }),
    (0xA40000100200001100000000, .vfirst { dst := 8, a := .v 2, ty := .b32 })] = true := by decide +kernel

theorem test_words_memory : reads [
    (0xB000001002A4000300000000, .lds { dst := 8, a := .v 2, b := .imm, ty := .i32 }),
    (0xB100000002A4018300000000, .sts { a := .v 2, b := .imm, c := .v 6, ty := .i32 }),
    (0xB200001002A4000300000000, .ldsc { dst := 8, a := .v 2, b := .imm, ty := .i32 }),
    (0xB300000002A4018300000000, .stsc { a := .v 2, b := .imm, c := .v 6, ty := .i32 }),
    (0xB400001002A4000300000000, .ldgRaw { dst := 8, a := .v 2, b := .imm, ty := .i32 }),
    (0xB500000002A4018300000000, .stgRaw { a := .v 2, b := .imm, c := .v 6, ty := .i32 }),
    (0xB410001002A4000B00000000, .ldgElem { dst := 8, a := .v 2, b := .imm, ty := .f32 }),
    (0xB510000002A4018B00000000, .stgElem { a := .v 2, b := .imm, c := .v 6, ty := .f32 }),
    (0xB600001002A4018300000000, .atoms { dst := 8, a := .v 2, b := .imm, c := .v 6, ty := .i32 }),
    (0xB700001002A4018300000000, .atomg { dst := 8, a := .v 2, b := .imm, c := .v 6, ty := .i32 }),
    (0xB800000002A4018300000000, .red { a := .v 2, b := .imm, c := .v 6, ty := .i32 }),
    (0xB90000000000000000800000, .fence { low := 0x800000 }),
    (0xBA0000010100000000000000, .waitc { a := .s 1 }),
    (0xBB00000002A4000000000000, .pref { a := .v 2, b := .imm }),
    (0xBC00000002A4000000000000, .cinv { a := .v 2, b := .imm })] = true := by decide +kernel

theorem test_words_matrix_async_barrier : reads [
    (0xD00000010100001200000000, .gang { a := .s 1, ty := .b64 }),
    (0xD1000011018140CB00160000, .mma { dst := 8, a := .s 1, b := .s 2, c := .s 3, ty := .f32, low := 0x160000 }),
    (0xD20000100000000000000003, .mzero { dst := 8, low := 0x3 }),
    (0xD30000110181000300000000, .mld { dst := 8, a := .s 1, b := .s 2, ty := .i32 }),
    (0xD40000110181000B00160000, .mst { dst := 8, a := .s 1, b := .s 2, ty := .f32, low := 0x160000 }),
    (0xD50000100281001100000000, .mmov { dst := 8, a := .v 2, b := .s 2, ty := .b32 }),
    (0xD60000000000000000000000, .mfence {}),
    (0xD70000000000000000000000, .mwait {}),
    (0xE0000001018140C000000000, .cpy { a := .s 1, b := .s 2, c := .s 3 }),
    (0xE10000010181410000000000, .tcpy { a := .s 1, b := .s 2, c := .s 4 }),
    (0xE20000010100000000000000, .coll { a := .s 1 }),
    (0xE3000001018140C000000000, .spawn { a := .s 1, b := .s 2, c := .s 3 }),
    (0xE40000010100000000000000, .jdec { a := .s 1 }),
    (0xE80000000000000000000000, .bar {}),
    (0xE90000010100000000000000, .bara { a := .s 1 }),
    (0xEA0000000000000000000000, .barw {}),
    (0xEB0000010100000000000000, .barn { a := .s 1 }),
    (0xEC0000000000000000000000, .cbar {}),
    (0xED0000010100000000000000, .dbar { a := .s 1 })] = true := by decide +kernel

theorem test_words_system : reads [
    (0xF00000100000000000000000, .srd { dst := 8 }),
    (0xF1000001010000000000000B, .swr { a := .s 1, low := 0xB }),
    (0xF20000000000000000000000, .trap {}),
    (0xF30000100281001100000000, .svc { dst := 8, a := .v 2, b := .s 2, ty := .b32 }),
    (0xF40000100000000000000000, .enrd .ctx { dst := 8 }),
    (0xF41000100000000000000000, .enrd .kern { dst := 8 }),
    (0xF42000100000000000000000, .enrd .team { dst := 8 }),
    (0xF50000100000000000000000, .caprd { dst := 8 })] = true := by decide +kernel

/-- R112: SMOVI s8, 64 bits wide, its extension slot behind it. -/
theorem test_words_wide : decodeTableWord 192 (0x080000114800001200000000 + 2 ^ 96 * 0xFF000000_0123456789ABCDEF) =
    some (.smovi { dst := 8, a := .imm, ty := .b64, wide := some 0x0123456789ABCDEF }) := by decide +kernel

/-! ## Ill-formed terms: each check of R127 refuses one

A reserved opcode (step 2), an extension on a form that has none (3), the predicate code 0b1000 and a predicate where none is
allowed (5), a type the instruction does not accept and an unimplemented pair of types (6), operands outside their class (7),
and modifiers that are reserved or not used (8). -/

theorem test_ill_formed : [
    (Instr.sadd { a := .s 1, b := .s 2, ty := .i32, wide := some 5 }, Cause.extension),
    (.bra { a := .v 0, wide := some 5 }, .extension),
    (.smovi { dst := 8, a := .imm, ty := .b64 }, .extension),
    (.sadd { a := .imm, b := .s 2, ty := .i8, low := 0x100 }, .reservedField),
    (.vadd { pred := 8, a := .v 2, b := .v 4, ty := .i32 }, .illegalOperand),
    (.bar { pred := 1 }, .reservedField),
    (.vadd { a := .v 2, b := .v 4, ty := .f32 }, .illegalType),
    (.vadd { a := .v 2, b := .v 4, ty := .reserved 0x14 }, .illegalType),
    (.mma { a := .s 1, b := .s 2, c := .s 3, ty := .f64, low := 0x160000 }, .unimplementedCombination),
    (.vadd { a := .v 3, b := .v 4, ty := .i64 }, .illegalOperand),
    (.vadd { dst := 9, a := .v 2, b := .v 4, ty := .i64 }, .illegalOperand),
    (.sadd { dst := 64, a := .s 1, b := .s 2, ty := .i32 }, .illegalOperand),
    (.sadd { a := .s 1, b := .v 2, ty := .i32 }, .illegalOperand),
    (.vadd { a := .reserved 0x143, b := .v 4, ty := .i32 }, .illegalOperand),
    (.vadd { a := .v 2, b := .const 4, ty := .i32 }, .illegalOperand),
    (.vadd { hold := 0b010, a := .v 2, b := .const 1, ty := .i32 }, .illegalOperand),
    (.sadd { last := 0b100, a := .s 1, b := .s 2, ty := .i32 }, .illegalOperand),
    (.mzero { dst := 32, low := 1 }, .illegalOperand),
    (.ldsc { dst := 255, a := .v 2, ty := .b32, low := 0x1 }, .illegalOperand),
    (.vadd { a := .v 2, b := .v 4, ty := .i32, low := 0x1 }, .reservedField),
    (.vadd { a := .v 2, b := .v 4, ty := .i32, low := 0x20000000 }, .reservedField),
    (.fadd { a := .v 2, b := .v 4, ty := .f32, low := 0xA0000000 }, .illegalModifier),
    (.fadd { a := .v 2, b := .v 4, ty := .f32, low := 0x80000000 }, .illegalModifier),
    (.fence { low := 0 }, .illegalModifier),
    (.lds { dst := 8, a := .v 2, b := .const 0, ty := .b32, low := 0x3 }, .illegalModifier),
    (.srd { dst := 8, low := 16 }, .illegalModifier),
    (.mzero { low := 33 }, .illegalModifier)].all (fun p => decide (p.1.check = some p.2)) = true := by decide

/-- An opcode that R125 does not list is the unassigned one: all zeros, an unlisted minor, a bare extension slot (R126). -/
theorem test_unassigned : [0, 0x014, 0x201, 0xFF0].all (fun n =>
    decide (decodeTableWord 96 (n * 2 ^ 84) = some (.unassignedOpcode (BitVec.ofNat 96 (n * 2 ^ 84))))) = true := by decide

/-- The step of a named move answers a next state, from a state in canonical form. -/
theorem witness_StepKeepsInvariant : ∃ s t : State, s.Inv ∧ s.mem ≠ [] ∧ step s = .next t :=
  ⟨{ agenda := [.op .bringupReady], mem := [(0, 1)] }, _, by decide, by decide, rfl⟩

end Sys2Proof.Tests
end

section
/-! What a slot-counted branch and a ready LOOP do, and the settlement of O11 from them (R110, R149). -/

namespace Sys2Proof.Laws

open Sys2Proof Sys2Proof.Machine

/-- A branch whose target lies in the address space moves the issuing slot there and changes nothing else (R110). -/
theorem issuedOnly_branchTo {i : Instr} {e : Env} {s t : State} {f : Group → Group} {a : Nat} {offset : W32}
    (h : IssuedOnly i e s t f) (ha : branchTarget e.pc offset = some a) :
    IssuedOnly i e s (t.branchTo e offset) fun g => (f g).movedTo e.me.pcs a := by
  rw [State.branchTo, ha]
  exact issuedOnly_onIssuer h _

/-- The counter that LOOP writes back: the 64-bit scalar named in DST less one (R149). -/
def loopCount (e : Env) : W64 := BitVec.ofNat 64 (e.g.sval e.o.dst.toNat) - 1

theorem loopCount_toNat (e : Env) : (loopCount e).toNat = (e.g.sval e.o.dst.toNat + (2 ^ 64 - 1)) % 2 ^ 64 := by
  have h1 : (1 : W64).toNat = 1 := rfl
  rw [loopCount, BitVec.toNat_sub, BitVec.toNat_ofNat, h1, Nat.add_mod_mod, Nat.add_comm]

/-- A counter at zero wraps (R149). -/
theorem loopCount_of_zero {e : Env} (h : e.g.sval e.o.dst.toNat = 0) : loopCount e = BitVec.allOnes 64 := by
  rw [loopCount, h]
  decide

/-- The state in which LOOP has issued and written its counter, before its branch. -/
def loopWritten (s : State) (e : Env) : State :=
  (s.atIssue (.loop e.o) e).putS e e.o.dst.toNat (loopCount e).toNat

theorem issuedOnly_loopWritten (s : State) (e : Env) :
    IssuedOnly (.loop e.o) e s (loopWritten s e) fun g => g.writeScal e.o.dst.toNat (loopCount e) := by
  have h := issuedOnly_putS (atIssue_only s (.loop e.o) e) e.o.dst.toNat (loopCount e).toNat
  rwa [BitVec.ofNat_toNat, BitVec.setWidth_eq] at h

/-- A ready LOOP branches from the written state exactly where the new counter is not zero. -/
theorem exec_loop_ready {s : State} {e : Env} (h : Ready (.loop e.o) s e) :
    exec (.loop e.o) s =
      .next (if loopCount e ≠ 0 then (loopWritten s e).branchTo e e.o.low else loopWritten s e) := by
  have hz : loopCount e ≠ 0 ↔ (loopCount e).toNat ≠ 0 := not_congr BitVec.toNat_eq
  rw [exec_loop, execLoop, issue_ready h]
  simp only [hz, loopWritten, loopCount_toNat]

/-- Where the new counter is zero, LOOP writes it and falls through. -/
theorem loop_fallsThrough {s : State} {e : Env} (h : Ready (.loop e.o) s e) (hc : loopCount e = 0) :
    ∃ t, exec (.loop e.o) s = .next t ∧
      IssuedOnly (.loop e.o) e s t fun g => g.writeScal e.o.dst.toNat (loopCount e) := by
  refine ⟨loopWritten s e, ?_, issuedOnly_loopWritten s e⟩
  rw [exec_loop_ready h, if_neg (not_not_intro hc)]

/-- Where the new counter is not zero, LOOP writes it and moves its slot to the target. -/
theorem loop_branches {s : State} {e : Env} {a : Nat} (h : Ready (.loop e.o) s e) (hc : loopCount e ≠ 0)
    (ha : branchTarget e.pc e.o.low = some a) :
    ∃ t, exec (.loop e.o) s = .next t ∧
      IssuedOnly (.loop e.o) e s t fun g => (g.writeScal e.o.dst.toNat (loopCount e)).movedTo e.me.pcs a := by
  refine ⟨(loopWritten s e).branchTo e e.o.low, ?_, issuedOnly_branchTo (issuedOnly_loopWritten s e) ha⟩
  rw [exec_loop_ready h, if_pos hc]

/-- Settles O11 (R149): the new counter, `loopCount`, decides between falling through and branching; a counter found at
zero wraps to all ones, so that LOOP branches. -/
theorem loopCounts : Obligations.LoopCounts := by
  intro s e h
  refine ⟨loop_fallsThrough h, fun a => loop_branches h, fun a hz ha => ?_⟩
  have hc : loopCount e = BitVec.allOnes 64 := loopCount_of_zero hz
  rw [← hc]
  exact loop_branches h (by rw [hc]; decide) ha

end Sys2Proof.Laws
end

section
/-! Model integers as bit vectors, the type rule of a legal instruction, and the settlement of O3 from them (R37, R122,
R175 to R177). -/

namespace Sys2Proof.Laws

open Sys2Proof Sys2Proof.Machine

/-! ## Numbers read at a type, and words -/

theorem wrapN_eq_ofInt (w : Nat) (x : Int) : wrapN w x = (BitVec.ofInt w x).toNat := by
  have hpow : ((2 ^ w : Nat) : Int) = (2 : Int) ^ w := Int.natCast_pow 2 w
  rw [wrapN, BitVec.toNat_ofInt, hpow]

theorem width_pos (t : Ty) : 0 < t.width := by
  cases t <;> exact Nat.succ_pos _

/-- Two's complement as the model reads it and as a bit vector does (R36). -/
theorem sxt_eq_toInt {w : Nat} (hw : 0 < w) (x : Nat) : sxt w x = (BitVec.ofNat w x).toInt := by
  obtain ⟨n, rfl⟩ : ∃ n, w = n + 1 := ⟨w - 1, by omega⟩
  have half : 2 * (x % 2 ^ (n + 1)) < 2 ^ (n + 1) ↔ x % 2 ^ (n + 1) < 2 ^ n := by
    rw [Nat.pow_succ]
    omega
  have hpow : ((2 ^ (n + 1) : Nat) : Int) = (2 : Int) ^ (n + 1) := Int.natCast_pow 2 (n + 1)
  rw [sxt, BitVec.toInt_eq_toNat_cond, BitVec.toNat_ofNat, Nat.add_sub_cancel]
  simp only [half, hpow]

theorem intOf_eq_wordVal (t : Ty) (x : Nat) : intOf t x = wordVal t.isSigned (BitVec.ofNat t.width x) := by
  rw [intOf, wordVal, sxt_eq_toInt (width_pos t), BitVec.toNat_ofNat]

/-- A word widened by its signedness holds its value. -/
theorem ofInt_wordVal (signed : Bool) {w : Nat} (a : BitVec w) (v : Nat) :
    BitVec.ofInt v (wordVal signed a) = if signed then a.signExtend v else a.setWidth v := by
  cases signed with
  | true => rfl
  | false => exact (BitVec.ofInt_natCast v a.toNat).trans (BitVec.ofNat_toNat v a)

theorem ofInt_intOf_i32 (v x : Nat) : BitVec.ofInt v (intOf .i32 x) = (BitVec.ofNat 32 x).signExtend v :=
  (congrArg (BitVec.ofInt v) (intOf_eq_wordVal .i32 x)).trans (ofInt_wordVal true _ v)

theorem ofInt_intOf_n32 (v x : Nat) : BitVec.ofInt v (intOf .n32 x) = (BitVec.ofNat 32 x).setWidth v :=
  (congrArg (BitVec.ofInt v) (intOf_eq_wordVal .n32 x)).trans (ofInt_wordVal false _ v)

theorem wrapN_mulAdd (w : Nat) (a b : Int) (c : Nat) :
    wrapN w (a * b + c) = (BitVec.ofInt w a * BitVec.ofInt w b + BitVec.ofNat w c).toNat := by
  rw [wrapN_eq_ofInt, BitVec.ofInt_add, BitVec.ofInt_mul, BitVec.ofInt_natCast]

theorem tyMin_le_tyMax (t : Ty) : tyMin t ≤ tyMax t := by
  have h (n : Nat) : (0 : Int) < 2 ^ n := Int.pow_pos (by decide)
  have hs := h (t.width - 1)
  have hu := h t.width
  unfold tyMin tyMax
  split <;> omega

/-- A clamped integer is the word nearest to it in its type's range (R37). -/
theorem wrapN_clampTo (t : Ty) (x : Int) :
    wrapN t.width (clampTo t x) = (nearestWord t.isSigned t.width x).toNat := by
  have hle := tyMin_le_tyMax t
  have hc : clampTo t x = if x < tyMin t then tyMin t else if tyMax t < x then tyMax t else x := by
    rw [clampTo]
    split
    · omega
    · split <;> omega
  rw [wrapN_eq_ofInt, hc]
  rfl

/-- Byte `k` of a 32-bit number, read by the signedness of i8 or n8 (R175). -/
theorem intOf_byte {t : Ty} (ht : t = .i8 ∨ t = .n8) {x : Nat} (hx : x < 2 ^ 32) (k : Nat) :
    intOf t (x / 2 ^ (8 * k) % 256) = wordVal (t == .i8) ((BitVec.ofNat 32 x).extractLsb' (8 * k) 8) := by
  have hb : (BitVec.ofNat 32 x).extractLsb' (8 * k) 8 = BitVec.ofNat 8 (x / 2 ^ (8 * k) % 256) := by
    apply BitVec.eq_of_toNat_eq
    rw [BitVec.extractLsb'_toNat, BitVec.toNat_ofNat, BitVec.toNat_ofNat, Nat.mod_eq_of_lt hx,
      Nat.shiftRight_eq_div_pow, Nat.mod_mod]
  rw [hb]
  rcases ht with rfl | rfl
  · exact intOf_eq_wordVal .i8 _
  · exact intOf_eq_wordVal .n8 _

theorem src_lt (e : Env) (x : Src) (t : Ty) (l : Nat) : e.src x t l < 2 ^ t.width :=
  Nat.mod_lt _ (Nat.two_pow_pos _)

/-! ## The type rule of a legal instruction (R122, R127) -/

theorem firstCause_eq_none {l : List (Option Cause)} : firstCause l = none ↔ ∀ c ∈ l, c = none := by
  induction l with
  | nil => exact iff_of_true rfl fun _ h => nomatch h
  | cons c r ih =>
    cases c with
    | none => simp only [firstCause, ih, List.forall_mem_cons, true_and]
    | some c => simp only [firstCause, List.forall_mem_cons, reduceCtorEq, false_and]

theorem checkType_of_legal {i : Instr} {o : Fields} {r : Row} (hf : i.fields = some o) (hr : i.row = some r)
    (h : i.check = none) : i.checkType o r = none := by
  simp only [Instr.check, hf, hr, Instr.checkFields, firstCause_eq_none, List.mem_cons, List.not_mem_nil, or_false,
    forall_eq_or_imp, forall_eq] at h
  obtain ⟨-, -, htype, -⟩ := h
  exact htype

theorem ite_cause_eq_none {p : Prop} [Decidable p] {c : Cause} (h : (if p then none else some c) = none) : p := by
  split at h
  · assumption
  · cases h

theorem vsel_not_isInt {o : Fields} (h : (Instr.vsel o).check = none) : o.ty.isInt = false := by
  have ht : [Ty.b32, .b64].contains o.ty = true :=
    ite_cause_eq_none (checkType_of_legal (i := .vsel o) rfl rfl h)
  have hm : o.ty ∈ [Ty.b32, .b64] := List.contains_iff_mem.1 ht
  simp only [List.mem_cons, List.not_mem_nil, or_false] at hm
  obtain hm | hm := hm
  · exact congrArg Ty.isInt hm
  · exact congrArg Ty.isInt hm

theorem vdot4_type2 {o : Fields} (h : (Instr.vdot4 o).check = none) : o.md.type2 = .i8 ∨ o.md.type2 = .n8 := by
  have ht : ([Ty.i32].contains o.ty && (o.md.type2 == .i8 || o.md.type2 == .n8)) = true :=
    ite_cause_eq_none (checkType_of_legal (i := .vdot4 o) rfl rfl h)
  simp only [Bool.and_eq_true, Bool.or_eq_true, beq_iff_eq] at ht
  exact ht.2

/-! ## The four results -/

/-- A ready vector instruction whose lane function agrees with `val` writes `val` (R167, R172). -/
theorem issueV_writes {i : Instr} {s : State} {e : Env} {now : Group} (h : Ready i s e)
    (hg : s.group? e.me.core e.me.slot = some now) {ev k : Nat} {wide : Bool} {f : Env → Nat → Nat} {val : Nat → Nat}
    (hfit : e.run ≠ 0 → e.room (e.issued i s.pair.isSome now).v (resultNames e.o.dst.toNat wide))
    (hval : ∀ l, f e l = val l) :
    ∃ t v', issueV i e.o s ev k wide f = .next t ∧
      VecWrite e.o.dst.toNat wide e.run val (e.issued i s.pair.isSome now).v v' ∧
      IssuedOnly i e s t fun g => { g with v := v' } := by
  obtain rfl : f e = val := funext hval
  exact issueV_ready h hg ev k wide f hfit

/-- VDOT4's second byte type, which its bit 0 chooses, is one of two (R175). -/
theorem dotTy_cases (b : Bool) : (if b then Ty.n8 else .i8) = .i8 ∨ (if b then Ty.n8 else .i8) = .n8 := by
  cases b
  · exact .inl rfl
  · exact .inr rfl

theorem dotTy_beq (b : Bool) : ((if b then Ty.n8 else .i8) == .i8) = !b := by
  cases b <;> rfl

/-- One byte product of VDOT4, on the model's numbers and on words (R175). -/
theorem intOf_dotProduct {t : Ty} (ht : t = .i8 ∨ t = .n8) (b : Bool) {x y : Nat} (hx : x < 2 ^ 32) (hy : y < 2 ^ 32)
    (k : Nat) :
    intOf t (x / 2 ^ (8 * k) % 256) * intOf (if b then .n8 else .i8) (y / 2 ^ (8 * k) % 256) =
      wordVal (t == .i8) ((BitVec.ofNat 32 x).extractLsb' (8 * k) 8) *
        wordVal (!b) ((BitVec.ofNat 32 y).extractLsb' (8 * k) 8) := by
  rw [intOf_byte ht hx, intOf_byte (dotTy_cases b) hy, dotTy_beq]

/-- A 32-bit result of an exact value, clamped or wrapped (R37, R175). -/
theorem wrapN_i32 (sat : Bool) (x : Int) :
    wrapN 32 (if sat then clampTo .i32 x else x) =
      (if sat then nearestWord true 32 x else BitVec.ofInt 32 x).toNat := by
  cases sat with
  | true => exact wrapN_clampTo .i32 x
  | false => exact wrapN_eq_ofInt 32 x

/-- Settles O3 (R175 to R177): each lane's result is computed on integers in the model and on words in the statement,
and the two agree. -/
theorem vectorOtherResults : Obligations.VectorOtherResults := by
  refine ⟨⟨?vmadw, ?vdot4⟩, ?vsel, ?vcmp⟩
  case vmadw =>
    intro s e now h hg word r v hfit
    refine issueV_writes h hg hfit fun l => ?_
    rw [wrapN_mulAdd]
    cases hs : e.o.ty.isSigned with
    | true => simp only [r, word, hs, if_true, ofInt_intOf_i32]
    | false => simp only [r, word, hs, Bool.false_eq_true, if_false, ofInt_intOf_n32]
  case vdot4 =>
    intro s e now h hg byte sa sb p ex r v hfit
    refine issueV_writes h hg hfit fun l => ?_
    have hc : intOf .i32 (e.src e.o.c .i32 l) = (BitVec.ofNat 32 (e.src e.o.c .i32 l)).toInt := intOf_eq_wordVal .i32 _
    have hex : intOf .i32 (e.src e.o.c .i32 l) + ([0, 1, 2, 3].map (p l)).sum = ex l := by
      simp only [List.map_cons, List.map_nil, List.sum_cons, List.sum_nil, hc, ex]
      omega
    simp only [intOf_dotProduct (vdot4_type2 h.legal) _ (src_lt e e.o.a .b32 l) (src_lt e e.o.b .b32 l)]
    rw [hex]
    exact wrapN_i32 _ _
  case vsel =>
    intro s e now h hg w pick v hfit
    refine issueV_writes h hg hfit fun l => ?_
    exact if_neg (Bool.eq_false_iff.1 (vsel_not_isInt h.legal))
  case vcmp =>
    intro s e h val
    obtain ⟨p, hp, hi⟩ := issuedOnly_putPLanes
      (issuedOnly_laneCost (atIssue_only s (.vcmp e.o) e) 5 (if e.o.ty.isWide then 2 else 1)) e.o.dst.toNat fun l =>
        intCond (e.o.md.spec.toNat % 8) (e.vInt e.o.a l) (e.vInt e.o.b l)
    rw [exec_vcmp, execVcmp, issue_ready h]
    refine ⟨_, p, rfl, fun l hl => ?_, hi⟩
    rw [hp l hl, Env.vInt, Env.vInt, intOf_eq_wordVal, intOf_eq_wordVal]

end Sys2Proof.Laws
end
